-- ==== Sys2Proof/Word.lean ====
section
/-! DEFINITION. The word types of the device and their plainest arithmetic (spec 20, R284; 04, R61). -/

namespace Sys2Proof

/-- One byte. -/
abbrev Byte := BitVec 8
/-- One lane's element of a queue entry or frame slot (R37). -/
abbrev W32 := BitVec 32
/-- A scalar register, a mask, a record word (R354, R9). -/
abbrev W64 := BitVec 64

/-- The 64 lanes (R11). -/
def nLanes : Nat := 64

/-- A field of `n` bits of `w` starting at bit `lo` (R5: ranges include both ends, bit 0 least). -/
def fld (w lo n : Nat) : Nat := w / 2 ^ lo % 2 ^ n

/-- Sign-extends the low `n` bits of `w` (R287). -/
def sextNat (n w : Nat) : Int :=
  if w % 2 ^ n < 2 ^ (n - 1) then (w % 2 ^ n : Nat) else ((w % 2 ^ n : Nat) : Int) - (2 ^ n : Nat)

end Sys2Proof
end

