-- ==== Sys2Proof/Syntax.lean ====
section
/-! DEFINITION. The steps of the device as syntax: one constructor per row of spec/opcode_table.json. Rows 0-137
are Yaliz instructions (spec 20); rows 138-224 are the completions, device events, host commands and fabric frames
that the table lists as steps (spec 95). -/

namespace Sys2Proof

/-- Control field [63:44] of a word: DIST, WAIT, SETF (Table 20.1). `none` is SETF 0xF. -/
structure Ctrl where
  dist : Fin 16
  wait : Fin 4096
  setf : Option (Fin 12)
deriving DecidableEq, Repr

/-- The control field of an unannotated instruction (R10). -/
def Ctrl.plain : Ctrl := ⟨0, 0, none⟩

/-- A vector operand (Table 3.1). -/
inductive Operand
  | age (n : Fin 64)
  | frame (n : Fin 320)
  | zero
  | lane
  | swarm
  | stage
deriving DecidableEq, Repr

/-- A scalar register number s0-s1023. -/
abbrev SReg := Fin 1024
/-- A mask number k0-k15. -/
abbrev KReg := Fin 16

/-- The last source of a two-operand integer family: an operand (format V) or an immediate (format VI). -/
inductive Src
  | op (o : Operand)
  | imm (i : BitVec 18)
deriving DecidableEq, Repr

/-- Vector integer types, T 0-3 (Table 20.3). -/
inductive IntT
  | s32 | n32 | s64 | n64
deriving DecidableEq, Repr

/-- Vector float types, T 4-6. -/
inductive FpT
  | f32 | f16x2 | bf16x2
deriving DecidableEq, Repr

/-- Types of VRED and VSCAN, T 0-4 (Table 20.4). -/
inductive RedT
  | int (t : IntT)
  | f32
deriving DecidableEq, Repr

/-- Types of KCMP, T 0-6 (R294). -/
inductive CmpT
  | int (t : IntT)
  | fp (t : FpT)
deriving DecidableEq, Repr

/-- KCMP conditions (R294). -/
inductive CmpC
  | eq | ne | lt | le | gt | ge | un
deriving DecidableEq, Repr

/-- BRC conditions (Table 20.7). -/
inductive BrC
  | z | nz | lt | ge | gt | le
deriving DecidableEq, Repr

/-- Rounding modes RM (Table 4.4). -/
inductive RM
  | rne | rtz | rdn | rup
deriving DecidableEq, Repr

/-- Overflow policies OV (Table 4.4). -/
inductive OV
  | sat | ovinf | ovnan | ovtrap
deriving DecidableEq, Repr

/-- Operations of VRED and VSCAN (Table 20.4). -/
inductive RedOp
  | add | min | max
deriving DecidableEq, Repr

/-- Special functions of FFN (Table 22.3). -/
inductive FfnFn
  | rcp | rsqrt | sqrt | exp2 | log2 | sinpi | cospi | tanh
deriving DecidableEq, Repr

/-- A type descriptor of CVT, PACK4 and UNPACK4 (Table 20.8); `b8` is binary8 with INF, UNS and P. -/
inductive TDesc
  | s8 | n8 | s16 | n16 | s32 | n32 | s64 | n64 | f32 | f16 | bf16
  | b8 (inf uns : Bool) (p : Fin 8)
deriving DecidableEq, Repr

/-- Memory types MT (Table 20.6); `w32` and `w64` stand for codes 4 and 5. -/
inductive MT
  | s8 | n8 | s16 | n16 | w32 | w64
deriving DecidableEq, Repr

/-- Comb load qualifiers (Table 7.2). -/
inductive LoadQ
  | any | full | take
deriving DecidableEq, Repr

/-- Comb store qualifiers (Table 7.2). -/
inductive StoreQ
  | any | empty | fill
deriving DecidableEq, Repr

/-- Scopes (Table 9.1). -/
inductive Scope
  | swarm | colony | cluster | die | dev | sys
deriving DecidableEq, Repr

/-- Operations of RED (R292). -/
inductive RedMem
  | add | minS | minN | maxS | maxN | and | or | xor
deriving DecidableEq, Repr

/-- Timeline selectors (Table 24.1). -/
inductive TlSel
  | copy (i : Fin 4)
  | matrix
  | coll (i : Fin 4)
  | launch
deriving DecidableEq, Repr

/-- GETID selectors (Table 22.1). -/
inductive IdSel
  | swarm | stage | colony | field | nswarm | span | nstage | class | spanpos | vdie | cluster | core | ncolony
deriving DecidableEq, Repr

/-- Special registers (Table 20.11). -/
inductive SpReg
  | starve | resumes | check | nonres | privbase | privsize | combhash | barstat | bardrop | copyst | restart | tvec
  | trec (i : Fin 4)
  | tresume | tstat
  | tflags (i : Fin 2)
  | tcfg (i : Fin 3)
  | ucfg (i : Fin 4)
deriving DecidableEq, Repr

/-- Where a command comes from (R251): a queue pair, or the management port. -/
inductive CmdSrc
  | queue (qid : Nat)
  | mgmt
deriving DecidableEq, Repr

/-- What the power controller measures (R238, R239), in 0.1 W: the mean over the last 1 ms, and the power outside the compute dies. -/
structure PowerMean where
  total : Nat
  other : Nat
deriving DecidableEq, Repr

/-- The dies whose limiters withhold, and those that draw less than 90% of their share (R239). -/
structure PowerDies where
  withheld : List Nat
  light : List Nat
deriving DecidableEq, Repr

/-- A command entry (Table 17.2), with its source. `resv` is w3 [63:3]. -/
structure Cmd where
  src : CmdSrc
  opc : Nat
  sub : Nat
  ctx : Nat
  tag : Nat
  sigva : Nat
  sigval : Nat
  scope : Nat
  resv : Nat
  w4 : Nat
  w5 : Nat
  w6 : Nat
  w7 : Nat
deriving DecidableEq, Repr

/-- A Torjor frame (Table 17.4) as it arrives: the arrival port, the source address and UDP port, then the header. -/
structure Pkt where
  port : Nat
  v6 : Bool
  srcHi : Nat
  srcLo : Nat
  udp : Nat
  ver : Nat
  op : Nat
  peer : Nat
  psn : Nat
  addr : Nat
  len : Nat
  ctag : Nat
  payload : List Byte
deriving DecidableEq, Repr

/-- A status register that the management port reads (R265). -/
inductive StatReg
  | pwrstat
  | pstate (die : Nat)
  | linkstat (sock : Nat)
  | agestat (die clus : Nat)
  | cecount (die : Nat)
  | replay (core : Nat)
deriving DecidableEq, Repr

/-- A transaction from outside: a host access through BAR2 (R246), a host read of BAR0 (R245), the host's own write to a
part of its memory that the host window shows (R245), a read by the management port (R265). -/
inductive Bar2
  | read (n : Nat)
  | write (bytes : List Byte)
  | bar0 (n : Nat)
  | hostWrite (bytes : List Byte)
  | mgmt (r : StatReg)
deriving DecidableEq, Repr

/-- What Torjor sends again (R257): a posted store, or the contribution of a reduction. -/
inductive Resend
  | posted (n : Nat)
  | contribution (n : Nat)
deriving DecidableEq, Repr

/-- Registers written without a row of their own (R7): by the root monitor or by firmware. -/
inductive RegId
  | homehash (b : Fin 3)
  | cecount (die : Nat)
  | readOnly
deriving DecidableEq, Repr

/-- An error of Table 14.7: the unit whose uncorrectable error a colony consumes; the `mark` ones are errors that set poison
and that nothing has consumed yet: of a 16-byte unit of memory, a cell of the comb, a slot (an age, or a frame slot) or a
scalar of a swarm, four elements of a tile of a core, and 16 bytes of an L1 line; `corrected` is a single-bit error corrected
on a die (R219). -/
inductive ErrUnit
  | slot | scalar | comb | accumulator | memory | system
  | markMemory (unit : Nat)
  | markComb (cell : Nat)
  | markSlot (sw : Nat) (frame : Bool) (n : Nat)
  | markScalar (sw n : Nat)
  | markTile (core tile group : Nat)
  | markLine (core asid line unit : Nat)
  | corrected (die : Nat)
deriving DecidableEq, Repr

/-- One constructor per row of spec/opcode_table.json, in its order. -/
inductive Instr
  | nop (c : Ctrl)
  | exit (c : Ctrl)
  | yield (c : Ctrl)
  | trap (c : Ctrl) (code : Fin 4096)
  | br (c : Ctrl) (off : BitVec 22)
  | brc (c : Ctrl) (cond : BrC) (r : SReg) (off : BitVec 22)
  | call (c : Ctrl) (nargs : Fin 64) (off : BitVec 22)
  | calli (c : Ctrl) (a : SReg) (nargs : Fin 4096)
  | ret (c : Ctrl) (m : Fin 4096)
  | enter (c : Ctrl) (f : Fin 321)
  | arm (c : Ctrl) (n : Fin 4)
  | rejoin (c : Ctrl) (idx : Fin 16384)
  | iret (c : Ctrl)
  | sadd (c : Ctrl) (d a b : SReg)
  | ssub (c : Ctrl) (d a b : SReg)
  | smul (c : Ctrl) (d a b : SReg)
  | sand (c : Ctrl) (d a b : SReg)
  | sor (c : Ctrl) (d a b : SReg)
  | sxor (c : Ctrl) (d a b : SReg)
  | sshl (c : Ctrl) (d a b : SReg)
  | sshr (c : Ctrl) (d a b : SReg)
  | ssra (c : Ctrl) (d a b : SReg)
  | smin (c : Ctrl) (sgn : Bool) (d a b : SReg)
  | smax (c : Ctrl) (sgn : Bool) (d a b : SReg)
  | sseq (c : Ctrl) (d a b : SReg)
  | sslt (c : Ctrl) (sgn : Bool) (d a b : SReg)
  | saddi (c : Ctrl) (d a : SReg) (imm : BitVec 12)
  | sandi (c : Ctrl) (d a : SReg) (imm : BitVec 12)
  | sori (c : Ctrl) (d a : SReg) (imm : BitVec 12)
  | sxori (c : Ctrl) (d a : SReg) (imm : BitVec 12)
  | sshli (c : Ctrl) (d a : SReg) (n : Fin 64)
  | sshri (c : Ctrl) (d a : SReg) (n : Fin 64)
  | ssrai (c : Ctrl) (d a : SReg) (n : Fin 64)
  | sslti (c : Ctrl) (d a : SReg) (imm : BitVec 12)
  | sset (c : Ctrl) (d : SReg) (imm : BitVec 26)
  | ssethi (c : Ctrl) (d : SReg) (imm : BitVec 26)
  | kcmp (c : Ctrl) (cond : CmpC) (t : CmpT) (ka kd : KReg) (a b : Operand)
  | kand (c : Ctrl) (kd ka kb : KReg)
  | kor (c : Ctrl) (kd ka kb : KReg)
  | kxor (c : Ctrl) (kd ka kb : KReg)
  | kandn (c : Ctrl) (kd ka kb : KReg)
  | knot (c : Ctrl) (kd ka : KReg)
  | kmov (c : Ctrl) (kd ka : KReg)
  | krd (c : Ctrl) (d : SReg) (ka : KReg)
  | kwr (c : Ctrl) (kd : KReg) (a : SReg)
  | kpop (c : Ctrl) (d : SReg) (ka : KReg)
  | save (c : Ctrl) (k : KReg) (dst : Fin 320) (src : Operand)
  | vadd (c : Ctrl) (k : KReg) (t : IntT) (sat : Bool) (a : Operand) (b : Src)
  | vsub (c : Ctrl) (k : KReg) (t : IntT) (sat : Bool) (a : Operand) (b : Src)
  | vand (c : Ctrl) (k : KReg) (t : IntT) (a : Operand) (b : Src)
  | vor (c : Ctrl) (k : KReg) (t : IntT) (a : Operand) (b : Src)
  | vxor (c : Ctrl) (k : KReg) (t : IntT) (a : Operand) (b : Src)
  | vandn (c : Ctrl) (k : KReg) (t : IntT) (a : Operand) (b : Src)
  | vshl (c : Ctrl) (k : KReg) (t : IntT) (a : Operand) (b : Src)
  | vshr (c : Ctrl) (k : KReg) (t : IntT) (a : Operand) (b : Src)
  | vsra (c : Ctrl) (k : KReg) (t : IntT) (a : Operand) (b : Src)
  | vmin (c : Ctrl) (k : KReg) (t : IntT) (a : Operand) (b : Src)
  | vmax (c : Ctrl) (k : KReg) (t : IntT) (a : Operand) (b : Src)
  | vmul (c : Ctrl) (k : KReg) (t : IntT) (a : Operand) (b : Src)
  | vmulhi (c : Ctrl) (k : KReg) (t : IntT) (a : Operand) (b : Src)
  | vred (c : Ctrl) (k : KReg) (op : RedOp) (t : RedT) (a : Operand)
  | vscan (c : Ctrl) (k : KReg) (op : RedOp) (t : RedT) (a : Operand)
  | vshuf (c : Ctrl) (k : KReg) (t : IntT) (data index : Operand)
  | vbcast (c : Ctrl) (k : KReg) (wide : Bool) (a : Operand) (r : SReg)
  | vpushs (c : Ctrl) (k : KReg) (wide : Bool) (r : SReg)
  | fadd (c : Ctrl) (k : KReg) (t : FpT) (rm : RM) (a b : Operand)
  | fsub (c : Ctrl) (k : KReg) (t : FpT) (rm : RM) (a b : Operand)
  | fmul (c : Ctrl) (k : KReg) (t : FpT) (rm : RM) (a b : Operand)
  | ffma (c : Ctrl) (k : KReg) (t : FpT) (rm : RM) (a b z : Operand)
  | fmin (c : Ctrl) (k : KReg) (t : FpT) (a b : Operand)
  | fmax (c : Ctrl) (k : KReg) (t : FpT) (a b : Operand)
  | ffn (c : Ctrl) (k : KReg) (fn : FfnFn) (a : Operand)
  | cvt (c : Ctrl) (k : KReg) (rm : RM) (ov : OV) (a : Operand) (dst src : TDesc)
  | pack4 (c : Ctrl) (k : KReg) (rm : RM) (ov : OV) (a : Operand) (dst src : TDesc)
  | unpack4 (c : Ctrl) (k : KReg) (rm : RM) (ov : OV) (a : Operand) (dst src : TDesc)
  | vld (c : Ctrl) (k : KReg) (mt : MT) (sb : SReg) (addr : Operand) (kr : KReg)
  | vldc (c : Ctrl) (k : KReg) (mt : MT) (sb : SReg) (addr : Operand) (kr : KReg)
  | vst (c : Ctrl) (k : KReg) (mt : MT) (sb : SReg) (addr data : Operand)
  | vldComb (c : Ctrl) (k : KReg) (q : LoadQ) (sb : SReg) (addr : Operand)
  | vstComb (c : Ctrl) (k : KReg) (q : StoreQ) (sb : SReg) (addr data : Operand)
  | cld (c : Ctrl) (mt : MT) (d a : SReg)
  | cst (c : Ctrl) (mt : MT) (d a : SReg)
  | cinv (c : Ctrl) (a b : SReg)
  | bulkpf (c : Ctrl) (a b : SReg)
  | atomAdd (c : Ctrl) (k : KReg) (wide : Bool) (n : Fin 8) (sb : SReg) (addr data : Operand)
  | atomMin (c : Ctrl) (k : KReg) (sgn wide : Bool) (n : Fin 8) (sb : SReg) (addr data : Operand)
  | atomMax (c : Ctrl) (k : KReg) (sgn wide : Bool) (n : Fin 8) (sb : SReg) (addr data : Operand)
  | atomAnd (c : Ctrl) (k : KReg) (wide : Bool) (n : Fin 8) (sb : SReg) (addr data : Operand)
  | atomOr (c : Ctrl) (k : KReg) (wide : Bool) (n : Fin 8) (sb : SReg) (addr data : Operand)
  | atomXor (c : Ctrl) (k : KReg) (wide : Bool) (n : Fin 8) (sb : SReg) (addr data : Operand)
  | atomXchg (c : Ctrl) (k : KReg) (wide : Bool) (n : Fin 8) (sb : SReg) (addr data : Operand)
  | atomCas (c : Ctrl) (k : KReg) (wide : Bool) (n : Fin 8) (sb : SReg) (addr data : Operand)
  | atomAddF32 (c : Ctrl) (k : KReg) (n : Fin 8) (sb : SReg) (addr data : Operand)
  | atom2Dcas (c : Ctrl) (k : KReg) (wide : Bool) (n : Fin 8) (sb : SReg) (addr data : Operand)
  | atom2Amove (c : Ctrl) (k : KReg) (wide : Bool) (n : Fin 8) (sb : SReg) (addr data : Operand)
  | red (c : Ctrl) (k : KReg) (op : RedMem) (wide : Bool) (sb : SReg) (addr data : Operand)
  | redF32 (c : Ctrl) (k : KReg) (sb : SReg) (addr data : Operand)
  | barInit (c : Ctrl) (a : SReg)
  | barArrive (c : Ctrl) (b : Fin 32)
  | barArriveWait (c : Ctrl) (b : Fin 32)
  | barWait (c : Ctrl) (b : Fin 32)
  | barInval (c : Ctrl) (b : Fin 32)
  | ringDef (c : Ctrl) (r : Fin 4096) (a : SReg)
  | tlwait (c : Ctrl) (sel : TlSel) (a : SReg)
  | tlrd (c : Ctrl) (d : SReg) (sel : TlSel)
  | bind (c : Ctrl) (a : SReg)
  | unbind (c : Ctrl) (a : SReg)
  | acq (c : Ctrl) (sc : Scope) (a : SReg)
  | rel (c : Ctrl) (sc : Scope) (a : SReg)
  | fence (c : Ctrl) (sc : Scope)
  | rsvOpen (c : Ctrl) (d a : SReg)
  | rsvClose (c : Ctrl) (d : SReg)
  | rsvCand (c : Ctrl) (d : SReg) (kd : KReg) (lim : Fin 65)
  | claim (c : Ctrl) (k : KReg) (sb : SReg) (addr : Operand)
  | rsvWave (c : Ctrl) (kd : KReg)
  | rsvWaveNb (c : Ctrl) (kd : KReg)
  | rsvDone (c : Ctrl)
  | mma (c : Ctrl) (k : KReg) (z : Bool) (t : Fin 2) (fmt : Operand)
  | mmaCoop (c : Ctrl) (k : KReg) (z : Bool) (t : Fin 2) (fmt : Operand)
  | macq (c : Ctrl) (d : SReg) (t : Fin 2)
  | mrel (c : Ctrl) (t : Fin 2)
  | mrelFree (c : Ctrl) (t : Fin 2)
  | mrd (c : Ctrl) (k : KReg) (hi : Bool) (t : Fin 2) (j : Fin 160)
  | mwr (c : Ctrl) (k : KReg) (hi : Bool) (t : Fin 2) (a : Operand) (j : Fin 160)
  | tcfg (c : Ctrl) (a : SReg)
  | ucfg (c : Ctrl) (a : SReg)
  | copy (c : Ctrl) (idx : Fin 16384) (sb : SReg)
  | copyx (c : Ctrl) (idx : Fin 16384) (sb : SReg)
  | tileNext (c : Ctrl) (d : SReg) (n : Fin 4096)
  | taskPush (c : Ctrl) (d a : SReg) (p : Fin 8)
  | taskPop (c : Ctrl) (d : SReg) (p : Fin 8)
  | launch (c : Ctrl) (d a : SReg)
  | launchWait (c : Ctrl) (d a : SReg)
  | lwait (c : Ctrl) (d a : SReg)
  | getid (c : Ctrl) (d : SReg) (sel : IdSel)
  | getidHop (c : Ctrl) (d a b : SReg)
  | srd (c : Ctrl) (d : SReg) (r : SpReg)
  | swr (c : Ctrl) (r : SpReg) (a : SReg)
  -- completions of operations in flight: the swarm's index, the operation's number
  | vectorResultComplete (sw op : Nat)
  | scalarResultComplete (sw op : Nat)
  | loadComplete (sw op : Nat)
  | storeComplete (sw op : Nat)
  | atomicPerform (sw op : Nat)
  | relPerform (sw op : Nat)
  | fenceComplete (sw op : Nat)
  | cinvComplete (sw op : Nat)
  | bulkpfComplete (sw op : Nat)
  | copyCollectiveStart (clus : Nat)
  | copyCollectiveComplete (col ctx num : Nat)
  | mmaComplete (core : Nat)
  | taskQueuePerform (sw op pick : Nat)
  -- scheduling
  | launchRecordExamine (col : Nat)
  | colonyPlace (field idx sock clus : Nat) (cores : List Nat)
  | colonyRetire (col : Nat)
  | contextRotation (cols : List Nat)
  | resume (col sock clus : Nat) (cores : List Nat)
  | starveFirstExpiry (sw : Nat)
  | starveSecondExpiry (sw : Nat)
  | topPriority (sw : Nat)
  | throttleAdmit (core quarter n : Nat)
  | yieldHoldEnd (sw : Nat)
  -- memory, reliability, power, links
  | evictionWriteback (core asid line : Nat)
  | uncorrectableError (col : Nat) (unit : ErrUnit)
  | timingReplay (core : Nat)
  | ageingCheck (die clus drift : Nat)
  | powerShare (meas : PowerMean) (dies : PowerDies)
  | limiterRaise (die : Nat)
  | limiterLower (die : Nat)
  | pstateTransitionComplete (die : Nat)
  | parkComplete (die : Nat)
  | linkTrained (sock : Nat)
  | linkWakeTimeout (sock : Nat)
  | linkDeadTimeout (sock : Nat)
  | deviceReset
  | bringupStageComplete (stk die port : Nat)
  -- host
  | doorbellWrite (qid : Nat) (v : W64)
  | bar2Access (off : Nat) (acc : Bar2)
  | registerWrite (r : RegId) (v : W64)
  | unknownCommand (m : Cmd)
  | qcreate (m : Cmd)
  | qdelete (m : Cmd)
  | ctxcreate (m : Cmd)
  | ctxdestroy (m : Cmd)
  | setroot (m : Cmd)
  | settvec (m : Cmd)
  | loadk (m : Cmd)
  | launchCommand (m : Cmd)
  | drain (m : Cmd)
  | pstate (m : Cmd)
  | setcap (m : Cmd)
  | carve (m : Cmd)
  | tquota (m : Cmd)
  | svcreg (m : Cmd)
  | svcdel (m : Cmd)
  | reduce (m : Cmd)
  | collreset (m : Cmd)
  | peerset (m : Cmd)
  | storio (m : Cmd)
  | attest (m : Cmd)
  | patch (m : Cmd)
  | logread (m : Cmd)
  | pagereq (m : Cmd)
  | aperture (m : Cmd)
  | hrel (m : Cmd)
  | nvmeCompletion (id status : Nat) (data : List Byte)
  -- fabric
  | torjorWrite (p : Pkt)
  | torjorPostedWrite (p : Pkt)
  | torjorRead (p : Pkt)
  | torjorReadResponse (p : Pkt)
  | torjorAck (p : Pkt)
  | torjorNack (p : Pkt)
  | torjorServiceRequest (p : Pkt)
  | torjorReduceContribution (p : Pkt)
  | torjorReduceAbort (p : Pkt)
  | torjorRemoteRelease (p : Pkt)
  | torjorInvalidOp (p : Pkt)
  | postedStoreTimeout (n : Nat)
  | reduceTimeout (n : Nat)
  | reduceContributorTimeout (n : Nat)
  | reduceSourceRead (n : Nat)
  | carveComplete (port : Nat)
  | lendingSwapOut (col : Nat)
  | linkDoze (sock : Nat)
  | linkResponse (sock : Nat)
  | torjorRetransmit (r : Resend)
deriving DecidableEq, Repr

end Sys2Proof
end

