-- ==== Sys2Proof/Config.lean ====
section
/-! DEFINITION. What the spec leaves open, as constants without a body: free values, and what an implementation fixes
(notes/assumptions 2, 8, 20). Nothing can evaluate them, so a claim holds for every value. -/

namespace Sys2Proof

/-- A free element: occasion `n`, lane `l` (R38 early reads, R94 unspecified tiles). -/
opaque Config.freeLane : Nat → Nat → W32
/-- A free 64-bit value: an early read of a scalar register (R38). -/
opaque Config.freeWord : Nat → W64
/-- A free byte: the signed report of ATTEST (Table 17.3), a load of a peer (log 21), an unsupported synonym (R106). -/
opaque Config.freeByte : Nat → Byte
/-- A free choice: the order in which a home adds update-only copies (R167). -/
opaque Config.freeNat : Nat → Nat
/-- What the hardware's function unit answers before its error bound is applied (R336). -/
opaque Config.ffnRaw : FfnFn → W32 → W32
/-- Does a patch image verify against the fused key, and at which level (R253)? -/
opaque Config.patchLevel : List Byte → Option Nat
/-- Bytes of a block of a remote storage namespace (R266). -/
opaque Config.blockSize : Nat
/-- Does the power limiter withhold the issue slots of a quarter (core number × 4 + quarter) in a cycle (R239)? -/
opaque Config.freeSlot : Nat → Nat → Bool
/-- The index under which the device of a peer table entry lists this device: PEER of a frame sent there (Table 17.4). -/
opaque Config.ownIndex : Nat → Nat
/-- How long training of a socket's link takes, in reference cycles, when it begins at a count (R232); more than T_wake: it does not end. -/
opaque Config.trainTime : Nat → Nat → Nat
/-- How long a withholding limiter delays the acceptance of a matrix operation by a core's unit at a cycle (R239). -/
opaque Config.acceptDelay : Nat → Nat → Nat
/-- What the power controller measures at a reference cycle: all input power, and that outside the compute dies, in 0.1 W (R239). -/
opaque Config.powerMeas : Nat → Nat × Nat
/-- The dies whose limiter withholds, and those that draw less than 90% of their share, at a reference cycle (R239). -/
opaque Config.limiterDies : Nat → List Nat × List Nat
/-- The set of a die's snoop filter that a line of an address tag falls into (R121). -/
opaque Config.filterSet : Nat → Nat → Nat
/-- Length of an attestation report (Table 17.9). -/
opaque Config.attestLen : Nat

end Sys2Proof
end

