-- ==== Sys2Proof/WellFormed.lean ====
section
/-! DEFINITION. Which terms of `Instr` are instructions: the limits of spec 20 (R287, R295, R297 causes 2 and 5) that
the operand types of Syntax.lean do not already carry. Events carry no encoding and are always well formed. -/

namespace Sys2Proof

/-- R295: a binary8 descriptor has a precision from 1 to 7. -/
def TDesc.wf : TDesc → Bool
  | .b8 _ _ p => p.val != 0
  | _ => true

/-- binary8, s8 or n8: the narrow side of PACK4 and UNPACK4 (R295). -/
def TDesc.narrow : TDesc → Bool
  | .b8 .. | .s8 | .n8 => true
  | _ => false

/-- s64 or n64, which PACK4 does not read and UNPACK4 does not write (R345, R370). -/
def TDesc.wide : TDesc → Bool
  | .s64 | .n64 => true
  | _ => false

/-- A run of `k` operand codes starting here lies in one row of Table 3.1; no special operand stands in a run (R42). -/
def Operand.runOk (k : Nat) : Operand → Bool
  | .age n => n.val + k ≤ 64
  | .frame n => n.val + k ≤ 320
  | _ => false

/-- The shift counts a VI form may carry (R287): 0-31, or 0-63 for a 64-bit type. -/
def shiftOk (t : IntT) : Src → Bool
  | .op _ => true
  | .imm v =>
    match t with
    | .s32 | .n32 => v.toNat ≤ 31
    | .s64 | .n64 => v.toNat ≤ 63

/-- `.un` compares floats only (R294). -/
def cmpOk : CmpC → CmpT → Bool
  | .un, .int _ => false
  | _, _ => true

/-- The registers SWR may name (R298): those with an RW or W1C field whose writer is SWR. -/
def SpReg.writable : SpReg → Bool
  | .starve | .nonres | .copyst | .tresume => true
  | _ => false

/-- Entries of a 32-bit (1) or 64-bit (2) value. -/
def wOf (wide : Bool) : Nat := if wide then 2 else 1

/-- The well-formed instructions. -/
def wellFormed : Instr → Bool
  | .kcmp _ cond t _ kd _ _ => cmpOk cond t && kd.val != 0
  | .kand _ kd _ _ | .kor _ kd _ _ | .kxor _ kd _ _ | .kandn _ kd _ _ => kd.val != 0
  | .knot _ kd _ | .kmov _ kd _ | .kwr _ kd _ => kd.val != 0
  | .vshl _ _ t _ b | .vshr _ _ t _ b | .vsra _ _ t _ b => shiftOk t b
  | .cvt _ _ _ _ _ d s => d.wf && s.wf && d != s
  | .pack4 _ _ _ _ a d s => d.wf && s.wf && d.narrow && !s.wide && a.runOk 4
  | .unpack4 _ _ _ _ _ d s => d.wf && s.wf && s.narrow && !d.wide
  | .atomCas _ _ wd _ _ _ d => d.runOk (2 * wOf wd)
  | .atom2Dcas _ _ wd _ _ a d => a.runOk 2 && d.runOk (4 * wOf wd)
  | .atom2Amove _ _ wd _ _ a d => a.runOk 2 && d.runOk (wOf wd)
  | .rsvCand _ _ kd _ | .rsvWave _ kd | .rsvWaveNb _ kd => kd.val != 0
  | .tileNext _ _ n => n.val != 0
  | .swr _ r _ => r.writable
  | _ => true

end Sys2Proof
end

