-- ==== Sys2Proof/Decode.lean ====
section
/-! DEFINITION. Decoding of instruction words (spec 20, R284-R298), total on any 64 bits and rejecting by the cause of
Table 20.10, and after it the encoder written from the same tables. Words are natural numbers below 2^64; every field
is cut out once, by `fld`. -/

namespace Sys2Proof

/-! ### Operand codes -/

/-- Table 3.1: an assigned operand code. -/
def opndOk (c : Nat) : Bool := c < 384 || (448 ≤ c && c < 452)

/-- Table 3.1: the operand a code names. -/
def opndOf (c : Nat) : Operand :=
  if h : c < 64 then .age ⟨c, h⟩
  else if h : c < 384 then .frame ⟨c - 64, by omega⟩
  else if c = 448 then .zero
  else if c = 449 then .lane
  else if c = 450 then .swarm
  else .stage

/-- Table 3.1: the code of an operand. -/
def opndCode : Operand → Nat
  | .age n => n.val
  | .frame n => 64 + n.val
  | .zero => 448
  | .lane => 449
  | .swarm => 450
  | .stage => 451

/-- Table 20.3, integer types. -/
def intTOf : Nat → IntT
  | 0 => .s32
  | 1 => .n32
  | 2 => .s64
  | _ => .n64

/-- Table 20.3. -/
def intTCode : IntT → Nat
  | .s32 => 0
  | .n32 => 1
  | .s64 => 2
  | .n64 => 3

/-- Table 20.3, float types. -/
def fpTOf : Nat → FpT
  | 4 => .f32
  | 5 => .f16x2
  | _ => .bf16x2

/-- Table 20.3. -/
def fpTCode : FpT → Nat
  | .f32 => 4
  | .f16x2 => 5
  | .bf16x2 => 6

/-- Table 20.4, types of VRED and VSCAN. -/
def redTOf (t : Nat) : RedT := if t < 4 then .int (intTOf t) else .f32

/-- Table 20.4. -/
def redTCode : RedT → Nat
  | .int t => intTCode t
  | .f32 => 4

/-- R294, types of KCMP. -/
def cmpTOf (t : Nat) : CmpT := if t < 4 then .int (intTOf t) else .fp (fpTOf t)

/-- R294. -/
def cmpTCode : CmpT → Nat
  | .int t => intTCode t
  | .fp t => fpTCode t

/-- R294, conditions of KCMP. -/
def cmpCOf : Nat → CmpC
  | 0 => .eq
  | 1 => .ne
  | 2 => .lt
  | 3 => .le
  | 4 => .gt
  | 5 => .ge
  | _ => .un

/-- R294. -/
def cmpCCode : CmpC → Nat
  | .eq => 0
  | .ne => 1
  | .lt => 2
  | .le => 3
  | .gt => 4
  | .ge => 5
  | .un => 6

/-- Table 20.7, conditions of BRC. -/
def brCOf : Nat → BrC
  | 1 => .z
  | 2 => .nz
  | 3 => .lt
  | 4 => .ge
  | 5 => .gt
  | _ => .le

/-- Table 20.7. -/
def brCCode : BrC → Nat
  | .z => 1
  | .nz => 2
  | .lt => 3
  | .ge => 4
  | .gt => 5
  | .le => 6

/-- Table 4.4. -/
def rmOf : Nat → RM
  | 0 => .rne
  | 1 => .rtz
  | 2 => .rdn
  | _ => .rup

/-- Table 4.4. -/
def rmCode : RM → Nat
  | .rne => 0
  | .rtz => 1
  | .rdn => 2
  | .rup => 3

/-- Table 4.4. -/
def ovOf : Nat → OV
  | 0 => .sat
  | 1 => .ovinf
  | 2 => .ovnan
  | _ => .ovtrap

/-- Table 4.4. -/
def ovCode : OV → Nat
  | .sat => 0
  | .ovinf => 1
  | .ovnan => 2
  | .ovtrap => 3

/-- Table 20.4, operations of VRED and VSCAN. -/
def redOpOf : Nat → RedOp
  | 0 => .add
  | 1 => .min
  | _ => .max

/-- Table 20.4. -/
def redOpCode : RedOp → Nat
  | .add => 0
  | .min => 1
  | .max => 2

/-- R290, functions of FFN. -/
def ffnOf : Nat → FfnFn
  | 0 => .rcp
  | 1 => .rsqrt
  | 2 => .sqrt
  | 3 => .exp2
  | 4 => .log2
  | 5 => .sinpi
  | 6 => .cospi
  | _ => .tanh

/-- R290. -/
def ffnCode : FfnFn → Nat
  | .rcp => 0
  | .rsqrt => 1
  | .sqrt => 2
  | .exp2 => 3
  | .log2 => 4
  | .sinpi => 5
  | .cospi => 6
  | .tanh => 7

/-- Table 20.8 and R295: a descriptor that keeps the rules. -/
def tdescOk (d : Nat) : Bool :=
  if d % 16 = 11 then d / 16 % 8 != 0 else d / 16 = 0 && d % 16 < 11

/-- Table 20.8: the descriptor of nine bits. -/
def tdescOf (d : Nat) : TDesc :=
  match d % 16 with
  | 0 => .s8
  | 1 => .n8
  | 2 => .s16
  | 3 => .n16
  | 4 => .s32
  | 5 => .n32
  | 6 => .s64
  | 7 => .n64
  | 8 => .f32
  | 9 => .f16
  | 10 => .bf16
  | _ => .b8 (d / 256 % 2 == 1) (d / 128 % 2 == 1) (Fin.ofNat 8 (d / 16))

/-- Table 20.8. -/
def tdescCode : TDesc → Nat
  | .s8 => 0
  | .n8 => 1
  | .s16 => 2
  | .n16 => 3
  | .s32 => 4
  | .n32 => 5
  | .s64 => 6
  | .n64 => 7
  | .f32 => 8
  | .f16 => 9
  | .bf16 => 10
  | .b8 inf uns p => inf.toNat * 256 + uns.toNat * 128 + p.val * 16 + 11

/-- Table 20.6. -/
def mtOf : Nat → MT
  | 0 => .s8
  | 1 => .n8
  | 2 => .s16
  | 3 => .n16
  | 4 => .w32
  | _ => .w64

/-- Table 20.6. -/
def mtCode : MT → Nat
  | .s8 => 0
  | .n8 => 1
  | .s16 => 2
  | .n16 => 3
  | .w32 => 4
  | .w64 => 5

/-- Table 7.2. -/
def loadQOf : Nat → LoadQ
  | 0 => .any
  | 1 => .full
  | _ => .take

/-- Table 7.2. -/
def loadQCode : LoadQ → Nat
  | .any => 0
  | .full => 1
  | .take => 2

/-- Table 7.2. -/
def storeQOf : Nat → StoreQ
  | 0 => .any
  | 1 => .empty
  | _ => .fill

/-- Table 7.2. -/
def storeQCode : StoreQ → Nat
  | .any => 0
  | .empty => 1
  | .fill => 2

/-- Table 9.1. -/
def scopeOf : Nat → Scope
  | 0 => .swarm
  | 1 => .colony
  | 2 => .cluster
  | 3 => .die
  | 4 => .dev
  | _ => .sys

/-- Table 9.1. -/
def scopeCode : Scope → Nat
  | .swarm => 0
  | .colony => 1
  | .cluster => 2
  | .die => 3
  | .dev => 4
  | .sys => 5

/-- R292, operations of RED. -/
def redMemOf : Nat → RedMem
  | 0 => .add
  | 1 => .minS
  | 2 => .minN
  | 3 => .maxS
  | 4 => .maxN
  | 5 => .and
  | 6 => .or
  | _ => .xor

/-- R292. -/
def redMemCode : RedMem → Nat
  | .add => 0
  | .minS => 1
  | .minN => 2
  | .maxS => 3
  | .maxN => 4
  | .and => 5
  | .or => 6
  | .xor => 7

/-- Table 24.1: a listed selector (KIND [11:8], INDEX [7:0]). -/
def tlSelOk (n : Nat) : Bool :=
  (n / 256 = 0 && n % 256 < 4) || n = 0x100 || (n / 256 = 2 && n % 256 < 4) || n = 0x300

/-- Table 24.1. -/
def tlSelOf (n : Nat) : TlSel :=
  match n / 256 with
  | 0 => .copy (Fin.ofNat 4 n)
  | 1 => .matrix
  | 2 => .coll (Fin.ofNat 4 n)
  | _ => .launch

/-- Table 24.1. -/
def tlSelCode : TlSel → Nat
  | .copy i => i.val
  | .matrix => 0x100
  | .coll i => 0x200 + i.val
  | .launch => 0x300

/-- Table 22.1. -/
def idSelOf : Nat → IdSel
  | 0 => .swarm
  | 1 => .stage
  | 2 => .colony
  | 3 => .field
  | 4 => .nswarm
  | 5 => .span
  | 6 => .nstage
  | 7 => .class
  | 8 => .spanpos
  | 9 => .vdie
  | 10 => .cluster
  | 11 => .core
  | _ => .ncolony

/-- Table 22.1. -/
def idSelCode : IdSel → Nat
  | .swarm => 0
  | .stage => 1
  | .colony => 2
  | .field => 3
  | .nswarm => 4
  | .span => 5
  | .nstage => 6
  | .class => 7
  | .spanpos => 8
  | .vdie => 9
  | .cluster => 10
  | .core => 11
  | .ncolony => 12

/-- Table 20.11: a listed special register number. -/
def spRegOk (n : Nat) : Bool :=
  n ≤ 0x13 || (0x20 ≤ n && n ≤ 0x22) || (0x24 ≤ n && n ≤ 0x27)

/-- Table 20.11. -/
def spRegOf (n : Nat) : SpReg :=
  match n with
  | 0x00 => .starve
  | 0x01 => .resumes
  | 0x02 => .check
  | 0x03 => .nonres
  | 0x04 => .privbase
  | 0x05 => .privsize
  | 0x06 => .combhash
  | 0x07 => .barstat
  | 0x08 => .bardrop
  | 0x09 => .copyst
  | 0x0A => .restart
  | 0x0B => .tvec
  | 0x0C => .trec 0
  | 0x0D => .trec 1
  | 0x0E => .trec 2
  | 0x0F => .trec 3
  | 0x10 => .tresume
  | 0x11 => .tstat
  | 0x12 => .tflags 0
  | 0x13 => .tflags 1
  | 0x20 => .tcfg 0
  | 0x21 => .tcfg 1
  | 0x22 => .tcfg 2
  | 0x24 => .ucfg 0
  | 0x25 => .ucfg 1
  | 0x26 => .ucfg 2
  | _ => .ucfg 3

/-- Table 20.11. -/
def spRegCode : SpReg → Nat
  | .starve => 0x00
  | .resumes => 0x01
  | .check => 0x02
  | .nonres => 0x03
  | .privbase => 0x04
  | .privsize => 0x05
  | .combhash => 0x06
  | .barstat => 0x07
  | .bardrop => 0x08
  | .copyst => 0x09
  | .restart => 0x0A
  | .tvec => 0x0B
  | .trec i => 0x0C + i.val
  | .tresume => 0x10
  | .tstat => 0x11
  | .tflags i => 0x12 + i.val
  | .tcfg i => 0x20 + i.val
  | .ucfg i => 0x24 + i.val

/-! ### Words -/

/-- The SETF code (Table 20.1). -/
def setfCode : Option (Fin 12) → Nat
  | none => 15
  | some n => n.val

/-- The control field of a word; `none` for SETF 12-14 (Table 20.1). -/
def ctrlOf (w : Nat) : Option Ctrl :=
  let sf := fld w 44 4
  if h : sf < 12 then some ⟨Fin.ofNat 16 (fld w 60 4), Fin.ofNat 4096 (fld w 48 12), some ⟨sf, h⟩⟩
  else if sf = 15 then some ⟨Fin.ofNat 16 (fld w 60 4), Fin.ofNat 4096 (fld w 48 12), none⟩
  else none

/-- The lowest cause of Table 20.10 (R297), given which of causes 2, 3 and 5 the word keeps clear of. -/
def judge (w : Nat) (ok2 ok3 ok5 : Bool) (f : Ctrl → Instr) : Except Nat Instr :=
  if !ok2 then .error 2
  else if !ok3 then .error 3
  else match ctrlOf w with
    | none => .error 4
    | some c => if ok5 then .ok (f c) else .error 5

/-- A scalar register field. -/
def sreg (n : Nat) : SReg := Fin.ofNat 1024 n
/-- A mask field. -/
def kreg (n : Nat) : KReg := Fin.ofNat 16 n

/-- Majors 0x00-0x0E: control flow (Table 20.9; R49, R52, R54-R56, R310). -/
def decControl (w n : Nat) : Except Nat Instr :=
  let yOk3 := fld w 0 30 = 0
  let yOk2 := fld w 30 6 = 0
  let mod0 := fld w 32 4 = 0
  let d0 := fld w 22 10 = 0
  let a0 := fld w 12 10 = 0
  let off := BitVec.ofNat 22 (fld w 0 22)
  let imm := fld w 0 12
  match n with
  | 0 => judge w yOk2 yOk3 true .nop
  | 1 => judge w yOk2 yOk3 true .exit
  | 2 => judge w yOk2 yOk3 true .yield
  | 3 => judge w true (mod0 && d0 && a0) true fun c => .trap c (Fin.ofNat 4096 imm)
  | 4 => judge w mod0 d0 true fun c => .br c off
  | 5 => judge w (1 ≤ fld w 32 4 && fld w 32 4 ≤ 6) true true fun c =>
      .brc c (brCOf (fld w 32 4)) (sreg (fld w 22 10)) off
  | 8 => judge w mod0 (fld w 28 4 = 0) true fun c => .call c (Fin.ofNat 64 (fld w 22 6)) off
  | 9 => judge w true (mod0 && d0) true fun c => .calli c (sreg (fld w 12 10)) (Fin.ofNat 4096 imm)
  | 10 => judge w true (mod0 && d0 && a0) true fun c => .ret c (Fin.ofNat 4096 imm)
  | 11 => judge w true (mod0 && d0 && a0) (imm ≤ 320) fun c => .enter c (Fin.ofNat 321 imm)
  | 12 => judge w true (mod0 && d0 && a0) (imm ≤ 3) fun c => .arm c (Fin.ofNat 4 imm)
  | 13 => judge w true (fld w 30 6 = 0 && fld w 6 10 = 0 && fld w 0 6 = 0) true fun c =>
      .rejoin c (Fin.ofNat 16384 (fld w 16 14))
  | 14 => judge w yOk2 yOk3 true .iret
  | _ => .error 1

/-- Majors 0x20-0x23: scalar forms (R293). -/
def decScalar (w n : Nat) : Except Nat Instr :=
  let d := sreg (fld w 20 10)
  let a := sreg (fld w 10 10)
  let b := sreg (fld w 0 10)
  let di := sreg (fld w 22 10)
  let ai := sreg (fld w 12 10)
  let imm := BitVec.ofNat 12 (fld w 0 12)
  let sh := Fin.ofNat 64 (fld w 0 12)
  let shOk : Bool := fld w 0 12 ≤ 63
  match n with
  | 0 =>
    match fld w 30 6 with
    | 0 => judge w true true true fun c => .sadd c d a b
    | 1 => judge w true true true fun c => .ssub c d a b
    | 2 => judge w true true true fun c => .smul c d a b
    | 3 => judge w true true true fun c => .sand c d a b
    | 4 => judge w true true true fun c => .sor c d a b
    | 5 => judge w true true true fun c => .sxor c d a b
    | 6 => judge w true true true fun c => .sshl c d a b
    | 7 => judge w true true true fun c => .sshr c d a b
    | 8 => judge w true true true fun c => .ssra c d a b
    | 9 => judge w true true true fun c => .smin c true d a b
    | 10 => judge w true true true fun c => .smin c false d a b
    | 11 => judge w true true true fun c => .smax c true d a b
    | 12 => judge w true true true fun c => .smax c false d a b
    | 13 => judge w true true true fun c => .sseq c d a b
    | 14 => judge w true true true fun c => .sslt c true d a b
    | 15 => judge w true true true fun c => .sslt c false d a b
    | _ => .error 2
  | 1 =>
    match fld w 32 4 with
    | 0 => judge w true true true fun c => .saddi c di ai imm
    | 1 => judge w true true true fun c => .sandi c di ai imm
    | 2 => judge w true true true fun c => .sori c di ai imm
    | 3 => judge w true true true fun c => .sxori c di ai imm
    | 4 => judge w true true shOk fun c => .sshli c di ai sh
    | 5 => judge w true true shOk fun c => .sshri c di ai sh
    | 6 => judge w true true shOk fun c => .ssrai c di ai sh
    | 7 => judge w true true true fun c => .sslti c di ai imm
    | _ => .error 2
  | 2 => judge w true true true fun c => .sset c (sreg (fld w 26 10)) (BitVec.ofNat 26 (fld w 0 26))
  | 3 => judge w true true true fun c => .ssethi c (sreg (fld w 26 10)) (BitVec.ofNat 26 (fld w 0 26))
  | _ => .error 1

/-- Majors 0x40-0x44: masks (R294). -/
def decMask (w n : Nat) : Except Nat Instr :=
  let kd := kreg (fld w 32 4)
  let ka := kreg (fld w 22 4)
  let kb := kreg (fld w 18 4)
  let kdOk : Bool := fld w 32 4 != 0
  let kb0 : Bool := fld w 18 4 = 0
  let sab0 : Bool := fld w 9 9 = 0 && fld w 0 9 = 0
  let mod0 : Bool := fld w 32 4 = 0
  let d := fld w 22 10
  let a := fld w 12 10
  let k := fld w 0 4
  let hi0 : Bool := fld w 4 8 = 0
  match n with
  | 0 =>
    let cond := fld w 29 3
    let t := fld w 26 3
    judge w (cond != 7 && t != 7 && (cond != 6 || 4 ≤ t))
      (kb0 && opndOk (fld w 9 9) && opndOk (fld w 0 9)) kdOk fun c =>
        .kcmp c (cmpCOf cond) (cmpTOf t) ka kd (opndOf (fld w 9 9)) (opndOf (fld w 0 9))
  | 1 =>
    match fld w 26 6 with
    | 0 => judge w true sab0 kdOk fun c => .kand c kd ka kb
    | 1 => judge w true sab0 kdOk fun c => .kor c kd ka kb
    | 2 => judge w true sab0 kdOk fun c => .kxor c kd ka kb
    | 3 => judge w true sab0 kdOk fun c => .kandn c kd ka kb
    | 4 => judge w true (sab0 && kb0) kdOk fun c => .knot c kd ka
    | 5 => judge w true (sab0 && kb0) kdOk fun c => .kmov c kd ka
    | _ => .error 2
  | 2 => judge w mod0 (a = 0 && hi0) true fun c => .krd c (sreg d) (kreg k)
  | 3 => judge w mod0 (d = 0 && hi0) (k != 0) fun c => .kwr c (kreg k) (sreg a)
  | 4 => judge w mod0 (a = 0 && hi0) true fun c => .kpop c (sreg d) (kreg k)
  | _ => .error 1

/-- Majors 0x50-0x5F: SAVE, vector integer and lane movement (Table 3.2, Table 20.4). An odd or even pair of majors
is the V and the VI form of one family. -/
def decVint (w n : Nat) : Except Nat Instr :=
  let k := kreg (fld w 32 4)
  let hi := fld w 30 2
  let t := fld w 27 3
  let it := intTOf t
  let saOk := opndOk (fld w 18 9)
  let sbOk := opndOk (fld w 9 9)
  let sc0 : Bool := fld w 0 9 = 0
  let sa := opndOf (fld w 18 9)
  let sb := opndOf (fld w 9 9)
  let v : Src := .op sb
  let vi : Src := .imm (BitVec.ofNat 18 (fld w 0 18))
  let t3 : Bool := t ≤ 3
  let vOk := saOk && sbOk && sc0
  match n with
  | 0 => judge w true (fld w 27 5 = 0 && sc0 && sbOk) (64 ≤ fld w 18 9 && fld w 18 9 ≤ 383) fun c =>
      .save c k (Fin.ofNat 320 (fld w 18 9 - 64)) sb
  | 1 => judge w t3 vOk true fun c =>
      if hi < 2 then .vadd c k it (hi % 2 == 1) sa v else .vsub c k it (hi % 2 == 1) sa v
  | 2 => judge w t3 saOk true fun c =>
      if hi < 2 then .vadd c k it (hi % 2 == 1) sa vi else .vsub c k it (hi % 2 == 1) sa vi
  | 3 => judge w t3 vOk true fun c =>
      match hi with
      | 0 => .vand c k it sa v
      | 1 => .vor c k it sa v
      | 2 => .vxor c k it sa v
      | _ => .vandn c k it sa v
  | 4 => judge w t3 saOk true fun c =>
      match hi with
      | 0 => .vand c k it sa vi
      | 1 => .vor c k it sa vi
      | 2 => .vxor c k it sa vi
      | _ => .vandn c k it sa vi
  | 5 => judge w (t3 && hi != 3) vOk true fun c =>
      match hi with
      | 0 => .vshl c k it sa v
      | 1 => .vshr c k it sa v
      | _ => .vsra c k it sa v
  | 6 => judge w (t3 && hi != 3) saOk (shiftOk it vi) fun c =>
      match hi with
      | 0 => .vshl c k it sa vi
      | 1 => .vshr c k it sa vi
      | _ => .vsra c k it sa vi
  | 7 => judge w (t3 && hi < 2) vOk true fun c => if hi = 0 then .vmin c k it sa v else .vmax c k it sa v
  | 8 => judge w (t3 && hi < 2) saOk true fun c => if hi = 0 then .vmin c k it sa vi else .vmax c k it sa vi
  | 9 => judge w (t3 && hi < 2) vOk true fun c => if hi = 0 then .vmul c k it sa v else .vmulhi c k it sa v
  | 10 => judge w (t3 && hi < 2) saOk true fun c => if hi = 0 then .vmul c k it sa vi else .vmulhi c k it sa vi
  | 11 => judge w (t ≤ 4 && hi != 3) (saOk && fld w 9 9 = 0 && sc0) true fun c =>
      .vred c k (redOpOf hi) (redTOf t) sa
  | 12 => judge w (t ≤ 4 && hi != 3) (saOk && fld w 9 9 = 0 && sc0) true fun c =>
      .vscan c k (redOpOf hi) (redTOf t) sa
  | 13 => judge w (t3 && hi = 0) vOk true fun c => .vshuf c k it sa sb
  | 14 => judge w (fld w 29 3 = 0) (opndOk (fld w 19 9) && fld w 10 9 = 0) true fun c =>
      .vbcast c k (fld w 28 1 == 1) (opndOf (fld w 19 9)) (sreg (fld w 0 10))
  | 15 => judge w (fld w 29 3 = 0) (fld w 19 9 = 0 && fld w 10 9 = 0) true fun c =>
      .vpushs c k (fld w 28 1 == 1) (sreg (fld w 0 10))
  | _ => .error 1

/-- Majors 0x70-0x76: vector float (Table 20.5). -/
def decFloat (w n : Nat) : Except Nat Instr :=
  let k := kreg (fld w 32 4)
  let hi := fld w 30 2
  let t := fld w 27 3
  let sa := opndOf (fld w 18 9)
  let sb := opndOf (fld w 9 9)
  let tOk : Bool := 4 ≤ t && t ≤ 6
  let sab := opndOk (fld w 18 9) && opndOk (fld w 9 9)
  let sc0 : Bool := fld w 0 9 = 0
  match n with
  | 0 => judge w tOk (sab && sc0) true fun c => .fadd c k (fpTOf t) (rmOf hi) sa sb
  | 1 => judge w tOk (sab && sc0) true fun c => .fsub c k (fpTOf t) (rmOf hi) sa sb
  | 2 => judge w tOk (sab && sc0) true fun c => .fmul c k (fpTOf t) (rmOf hi) sa sb
  | 3 => judge w tOk (sab && opndOk (fld w 0 9)) true fun c =>
      .ffma c k (fpTOf t) (rmOf hi) sa sb (opndOf (fld w 0 9))
  | 4 => judge w (tOk && hi = 0) (sab && sc0) true fun c => .fmin c k (fpTOf t) sa sb
  | 5 => judge w (tOk && hi = 0) (sab && sc0) true fun c => .fmax c k (fpTOf t) sa sb
  | 6 => judge w (fld w 27 5 < 8) (opndOk (fld w 18 9) && fld w 9 9 = 0 && sc0) true fun c =>
      .ffn c k (ffnOf (fld w 27 5)) sa
  | _ => .error 1

/-- Majors 0x90-0x92: conversions (R295, R319, R345, R370). -/
def decConv (w n : Nat) : Except Nat Instr :=
  let k := kreg (fld w 32 4)
  let rm := rmOf (fld w 30 2)
  let ov := ovOf (fld w 28 2)
  let ok3 : Bool := fld w 27 1 = 0 && opndOk (fld w 18 9)
  let sa := opndOf (fld w 18 9)
  let dOk := tdescOk (fld w 9 9) && tdescOk (fld w 0 9)
  let d := tdescOf (fld w 9 9)
  let s := tdescOf (fld w 0 9)
  match n with
  | 0 => judge w (dOk && fld w 9 9 != fld w 0 9) ok3 true fun c => .cvt c k rm ov sa d s
  | 1 => judge w (dOk && d.narrow && !s.wide) ok3 (sa.runOk 4) fun c => .pack4 c k rm ov sa d s
  | 2 => judge w (dOk && s.narrow && !d.wide) ok3 true fun c => .unpack4 c k rm ov sa d s
  | _ => .error 1

/-- Majors 0xA0-0xAD: memory (R126, R292). -/
def decMem (w n : Nat) : Except Nat Instr :=
  let k := kreg (fld w 32 4)
  let m := fld w 28 4
  let base := sreg (fld w 18 10)
  let adOk := opndOk (fld w 9 9)
  let ad := opndOf (fld w 9 9)
  let daOk := opndOk (fld w 0 9)
  let da := opndOf (fld w 0 9)
  let loadOk : Bool := adOk && fld w 4 5 = 0
  let kr := kreg (fld w 0 4)
  let q := fld w 30 2
  let qLow : Bool := fld w 28 2 = 0
  let d := sreg (fld w 20 10)
  let a := sreg (fld w 10 10)
  let b := sreg (fld w 0 10)
  let sOk : Bool := fld w 34 2 = 0 && fld w 0 10 = 0
  let wd := fld w 31 1 == 1
  let nn := Fin.ofNat 8 (fld w 28 3)
  match n with
  | 0 => judge w (m ≤ 5) loadOk true fun c => .vld c k (mtOf m) base ad kr
  | 1 => judge w (m ≤ 5) (adOk && daOk) true fun c => .vst c k (mtOf m) base ad da
  | 2 => judge w (q != 3) (qLow && adOk && fld w 0 9 = 0) true fun c => .vldComb c k (loadQOf q) base ad
  | 3 => judge w (q != 3) (qLow && adOk && daOk) true fun c => .vstComb c k (storeQOf q) base ad da
  | 4 => judge w (m ≤ 5) loadOk true fun c => .vldc c k (mtOf m) base ad kr
  | 5 => judge w (fld w 30 4 ≤ 5) sOk true fun c => .cld c (mtOf (fld w 30 4)) d a
  | 6 => judge w (fld w 30 4 ≤ 5) sOk true fun c => .cst c (mtOf (fld w 30 4)) d a
  | 7 => judge w (fld w 30 6 = 0) (fld w 20 10 = 0) true fun c => .cinv c a b
  | 8 => judge w (fld w 30 6 = 0) (fld w 20 10 = 0) true fun c => .bulkpf c a b
  | 10 => judge w true (adOk && daOk) (ad.runOk 2 && da.runOk (4 * wOf wd)) fun c => .atom2Dcas c k wd nn base ad da
  | 11 => judge w true (adOk && daOk) (ad.runOk 2 && da.runOk (wOf wd)) fun c => .atom2Amove c k wd nn base ad da
  | 12 => judge w true (adOk && daOk) true fun c => .red c k (redMemOf (fld w 28 3)) wd base ad da
  | 13 => judge w true (m = 0 && adOk && daOk) true fun c => .redF32 c k base ad da
  | _ => .error 1

/-- Majors 0xB0-0xBA: atomics (R292). -/
def decAtom (w n : Nat) : Except Nat Instr :=
  let k := kreg (fld w 32 4)
  let wd := fld w 31 1 == 1
  let nn := Fin.ofNat 8 (fld w 28 3)
  let base := sreg (fld w 18 10)
  let ad := opndOf (fld w 9 9)
  let da := opndOf (fld w 0 9)
  let ok := opndOk (fld w 9 9) && opndOk (fld w 0 9)
  match n with
  | 0 => judge w true ok true fun c => .atomAdd c k wd nn base ad da
  | 1 => judge w true ok true fun c => .atomMin c k true wd nn base ad da
  | 2 => judge w true ok true fun c => .atomMin c k false wd nn base ad da
  | 3 => judge w true ok true fun c => .atomMax c k true wd nn base ad da
  | 4 => judge w true ok true fun c => .atomMax c k false wd nn base ad da
  | 5 => judge w true ok true fun c => .atomAnd c k wd nn base ad da
  | 6 => judge w true ok true fun c => .atomOr c k wd nn base ad da
  | 7 => judge w true ok true fun c => .atomXor c k wd nn base ad da
  | 8 => judge w true ok true fun c => .atomXchg c k wd nn base ad da
  | 9 => judge w true ok (da.runOk (2 * wOf wd)) fun c => .atomCas c k wd nn base ad da
  | 10 => judge w (!wd) ok true fun c => .atomAddF32 c k nn base ad da
  | _ => .error 1

/-- Majors 0xC0-0xCF: barriers, rings, timelines, synchronisation, reserving loops (Tables 7.4, 9.3, 11.1, 24.1). -/
def decSync (w n : Nat) : Except Nat Instr :=
  let m := fld w 32 4
  let d := fld w 22 10
  let a := fld w 12 10
  let imm := fld w 0 12
  let m0 : Bool := m = 0
  let d0 : Bool := d = 0
  let a0 : Bool := a = 0
  let i0 : Bool := imm = 0
  let b := Fin.ofNat 32 imm
  let bOk : Bool := imm < 32
  let kd := kreg (fld w 0 4)
  let kdOk : Bool := fld w 0 4 != 0
  match n with
  | 0 => judge w true (m0 && d0 && i0) true fun c => .barInit c (sreg a)
  | 1 => judge w true (d0 && a0 && m < 2) bOk fun c => if m = 0 then .barArrive c b else .barArriveWait c b
  | 2 => judge w true (m0 && d0 && a0) bOk fun c => .barWait c b
  | 3 => judge w true (m0 && d0 && a0) bOk fun c => .barInval c b
  | 4 => judge w true (m0 && d0) true fun c => .ringDef c (Fin.ofNat 4096 imm) (sreg a)
  | 5 => judge w true (m0 && d0) (tlSelOk imm) fun c => .tlwait c (tlSelOf imm) (sreg a)
  | 6 => judge w true (m0 && a0) (tlSelOk imm) fun c => .tlrd c (sreg d) (tlSelOf imm)
  | 7 => judge w true (m0 && d0 && i0) true fun c => .bind c (sreg a)
  | 8 => judge w true (m0 && d0 && i0) true fun c => .unbind c (sreg a)
  | 9 => judge w (m < 6) (d0 && i0) true fun c => .acq c (scopeOf m) (sreg a)
  | 10 => judge w (m < 6) (d0 && i0) true fun c => .rel c (scopeOf m) (sreg a)
  | 11 => judge w (m < 6) (d0 && a0 && i0) true fun c => .fence c (scopeOf m)
  | 12 =>
    match m with
    | 0 => judge w true i0 true fun c => .rsvOpen c (sreg d) (sreg a)
    | 1 => judge w true (a0 && i0) true fun c => .rsvClose c (sreg d)
    | 2 => judge w true a0 (kdOk && fld w 4 8 ≤ 64) fun c => .rsvCand c (sreg d) kd (Fin.ofNat 65 (fld w 4 8))
    | _ => .error 2
  | 13 => judge w (fld w 28 4 = 0) (opndOk (fld w 9 9) && fld w 0 9 = 0) true fun c =>
      .claim c (kreg (fld w 32 4)) (sreg (fld w 18 10)) (opndOf (fld w 9 9))
  | 14 => judge w (m < 2) (d0 && a0 && fld w 4 8 = 0) kdOk fun c => if m = 0 then .rsvWave c kd else .rsvWaveNb c kd
  | 15 => judge w true (m0 && d0 && a0 && i0) true .rsvDone
  | _ => .error 1

/-- Majors 0xD0-0xDD: matrix unit, copy engines, dispenser, task queues, launches (Table 5.4, R139, R194-R200). -/
def decEngine (w n : Nat) : Except Nat Instr :=
  let k := kreg (fld w 32 4)
  let m := fld w 32 4
  let d := fld w 22 10
  let a := fld w 12 10
  let imm := fld w 0 12
  let m0 : Bool := m = 0
  let d0 : Bool := d = 0
  let a0 : Bool := a = 0
  let i0 : Bool := imm = 0
  let hi0 : Bool := fld w 29 3 = 0
  let t := Fin.ofNat 2 (fld w 27 1)
  let h := fld w 28 1 == 1
  let sa := opndOf (fld w 18 9)
  let saOk := opndOk (fld w 18 9)
  let sbc0 : Bool := fld w 9 9 = 0 && fld w 0 9 = 0
  let j := Fin.ofNat 160 (fld w 0 18)
  let jOk : Bool := fld w 0 18 ≤ 159
  let tOk : Bool := imm ≤ 1
  let ti := Fin.ofNat 2 imm
  let e0 : Bool := fld w 30 6 = 0
  let idx := Fin.ofNat 16384 (fld w 16 14)
  let sb := sreg (fld w 6 10)
  let p := Fin.ofNat 8 (fld w 0 3)
  match n with
  | 0 => judge w true (hi0 && saOk && sbc0) true fun c => .mma c k h t sa
  | 1 => judge w true (hi0 && saOk && sbc0) true fun c => .mmaCoop c k h t sa
  | 2 => judge w true (m0 && a0) tOk fun c => .macq c (sreg d) ti
  | 3 => judge w (m < 2) (d0 && a0) tOk fun c => if m = 0 then .mrel c ti else .mrelFree c ti
  | 4 => judge w true (hi0 && fld w 18 9 = 0) jOk fun c => .mrd c k h t j
  | 5 => judge w true (hi0 && saOk) jOk fun c => .mwr c k h t sa j
  | 6 => judge w true (m0 && d0 && i0) true fun c => .tcfg c (sreg a)
  | 7 => judge w true (m0 && d0 && i0) true fun c => .ucfg c (sreg a)
  | 8 => judge w true e0 (fld w 0 6 = 4) fun c => .copy c idx sb
  | 9 => judge w true e0 (fld w 0 6 = 7) fun c => .copyx c idx sb
  | 10 => judge w true (m0 && a0) (imm != 0) fun c => .tileNext c (sreg d) (Fin.ofNat 4096 imm)
  | 11 =>
    match m with
    | 0 => judge w true (fld w 3 9 = 0) true fun c => .taskPush c (sreg d) (sreg a) p
    | 1 => judge w true (a0 && fld w 3 9 = 0) true fun c => .taskPop c (sreg d) p
    | _ => .error 2
  | 12 => judge w (m < 2) i0 true fun c =>
      if m = 0 then .launch c (sreg d) (sreg a) else .launchWait c (sreg d) (sreg a)
  | 13 => judge w m0 i0 true fun c => .lwait c (sreg d) (sreg a)
  | _ => .error 1

/-- Majors 0xE0-0xE3: identity and special registers (R229, R298, R328, R358). -/
def decSpecial (w n : Nat) : Except Nat Instr :=
  let m0 : Bool := fld w 32 4 = 0
  let d := fld w 22 10
  let a := fld w 12 10
  let imm := fld w 0 12
  match n with
  | 0 => judge w (imm < 13) (m0 && a = 0) true fun c => .getid c (sreg d) (idSelOf imm)
  | 1 => judge w true (fld w 30 6 = 0) true fun c =>
      .getidHop c (sreg (fld w 20 10)) (sreg (fld w 10 10)) (sreg (fld w 0 10))
  | 2 => judge w true (m0 && a = 0) (spRegOk imm) fun c => .srd c (sreg d) (spRegOf imm)
  | 3 => judge w true (m0 && d = 0) (spRegOk imm && (spRegOf imm).writable) fun c => .swr c (spRegOf imm) (sreg a)
  | _ => .error 1

/-- The instruction of a 64-bit word, or the cause of its ILLOP (R284, R296, R297). -/
def decode (w : Nat) : Except Nat Instr :=
  let n := fld w 36 4
  match fld w 40 4 with
  | 0x0 => decControl w n
  | 0x2 => decScalar w n
  | 0x4 => decMask w n
  | 0x5 => decVint w n
  | 0x7 => decFloat w n
  | 0x9 => decConv w n
  | 0xA => decMem w n
  | 0xB => decAtom w n
  | 0xC => decSync w n
  | 0xD => decEngine w n
  | 0xE => decSpecial w n
  | _ => .error 1

/-! ### The encoder -/

/-- Format V (Table 20.2). -/
def packV (k m sa sb sc : Nat) : Nat := k * 2 ^ 32 + m * 2 ^ 27 + sa * 2 ^ 18 + sb * 2 ^ 9 + sc
/-- Format VI. -/
def packVI (k m sa imm : Nat) : Nat := k * 2 ^ 32 + m * 2 ^ 27 + sa * 2 ^ 18 + imm
/-- Format VS. -/
def packVS (k m sa s : Nat) : Nat := k * 2 ^ 32 + m * 2 ^ 28 + sa * 2 ^ 19 + s
/-- Format M. -/
def packM (k m base ad da : Nat) : Nat := k * 2 ^ 32 + m * 2 ^ 28 + base * 2 ^ 18 + ad * 2 ^ 9 + da
/-- Format S. -/
def packS (m d a b : Nat) : Nat := m * 2 ^ 30 + d * 2 ^ 20 + a * 2 ^ 10 + b
/-- Format SI. -/
def packSI (m d a imm : Nat) : Nat := m * 2 ^ 32 + d * 2 ^ 22 + a * 2 ^ 12 + imm
/-- Format SL. -/
def packSL (d imm : Nat) : Nat := d * 2 ^ 26 + imm
/-- Format B. -/
def packB (cond s off : Nat) : Nat := cond * 2 ^ 32 + s * 2 ^ 22 + off
/-- Format E. -/
def packE (m r base n : Nat) : Nat := m * 2 ^ 30 + r * 2 ^ 16 + base * 2 ^ 6 + n
/-- Format K. -/
def packK (kd m ka kb sa sb : Nat) : Nat :=
  kd * 2 ^ 32 + m * 2 ^ 26 + ka * 2 ^ 22 + kb * 2 ^ 18 + sa * 2 ^ 9 + sb

/-- A V or VI body: the last source chooses the format (R287). -/
def packSrc (k m sa : Nat) : Src → Nat
  | .op b => packV k m sa (opndCode b) 0
  | .imm v => packVI k m sa v.toNat

/-- The major of a V and VI pair: the V form's, or the next one for an immediate. -/
def srcMajor (m : Nat) : Src → Nat
  | .op _ => m
  | .imm _ => m + 1

/-- The control field, MAJOR and body of an instruction (Tables 20.1, 20.2, 20.9); `none` for an event. -/
def parts : Instr → Option (Ctrl × Nat × Nat)
  | .nop c => some (c, 0x00, 0)
  | .exit c => some (c, 0x01, 0)
  | .yield c => some (c, 0x02, 0)
  | .trap c n => some (c, 0x03, packSI 0 0 0 n.val)
  | .br c o => some (c, 0x04, packB 0 0 o.toNat)
  | .brc c q r o => some (c, 0x05, packB (brCCode q) r.val o.toNat)
  | .call c n o => some (c, 0x08, packB 0 n.val o.toNat)
  | .calli c a n => some (c, 0x09, packSI 0 0 a.val n.val)
  | .ret c m => some (c, 0x0A, packSI 0 0 0 m.val)
  | .enter c f => some (c, 0x0B, packSI 0 0 0 f.val)
  | .arm c n => some (c, 0x0C, packSI 0 0 0 n.val)
  | .rejoin c r => some (c, 0x0D, packE 0 r.val 0 0)
  | .iret c => some (c, 0x0E, 0)
  | .sadd c d a b => some (c, 0x20, packS 0 d.val a.val b.val)
  | .ssub c d a b => some (c, 0x20, packS 1 d.val a.val b.val)
  | .smul c d a b => some (c, 0x20, packS 2 d.val a.val b.val)
  | .sand c d a b => some (c, 0x20, packS 3 d.val a.val b.val)
  | .sor c d a b => some (c, 0x20, packS 4 d.val a.val b.val)
  | .sxor c d a b => some (c, 0x20, packS 5 d.val a.val b.val)
  | .sshl c d a b => some (c, 0x20, packS 6 d.val a.val b.val)
  | .sshr c d a b => some (c, 0x20, packS 7 d.val a.val b.val)
  | .ssra c d a b => some (c, 0x20, packS 8 d.val a.val b.val)
  | .smin c g d a b => some (c, 0x20, packS (if g then 9 else 10) d.val a.val b.val)
  | .smax c g d a b => some (c, 0x20, packS (if g then 11 else 12) d.val a.val b.val)
  | .sseq c d a b => some (c, 0x20, packS 13 d.val a.val b.val)
  | .sslt c g d a b => some (c, 0x20, packS (if g then 14 else 15) d.val a.val b.val)
  | .saddi c d a v => some (c, 0x21, packSI 0 d.val a.val v.toNat)
  | .sandi c d a v => some (c, 0x21, packSI 1 d.val a.val v.toNat)
  | .sori c d a v => some (c, 0x21, packSI 2 d.val a.val v.toNat)
  | .sxori c d a v => some (c, 0x21, packSI 3 d.val a.val v.toNat)
  | .sshli c d a n => some (c, 0x21, packSI 4 d.val a.val n.val)
  | .sshri c d a n => some (c, 0x21, packSI 5 d.val a.val n.val)
  | .ssrai c d a n => some (c, 0x21, packSI 6 d.val a.val n.val)
  | .sslti c d a v => some (c, 0x21, packSI 7 d.val a.val v.toNat)
  | .sset c d v => some (c, 0x22, packSL d.val v.toNat)
  | .ssethi c d v => some (c, 0x23, packSL d.val v.toNat)
  | .kcmp c q t ka kd a b =>
    some (c, 0x40, packK kd.val (cmpCCode q * 8 + cmpTCode t) ka.val 0 (opndCode a) (opndCode b))
  | .kand c kd ka kb => some (c, 0x41, packK kd.val 0 ka.val kb.val 0 0)
  | .kor c kd ka kb => some (c, 0x41, packK kd.val 1 ka.val kb.val 0 0)
  | .kxor c kd ka kb => some (c, 0x41, packK kd.val 2 ka.val kb.val 0 0)
  | .kandn c kd ka kb => some (c, 0x41, packK kd.val 3 ka.val kb.val 0 0)
  | .knot c kd ka => some (c, 0x41, packK kd.val 4 ka.val 0 0 0)
  | .kmov c kd ka => some (c, 0x41, packK kd.val 5 ka.val 0 0 0)
  | .krd c d ka => some (c, 0x42, packSI 0 d.val 0 ka.val)
  | .kwr c kd a => some (c, 0x43, packSI 0 0 a.val kd.val)
  | .kpop c d ka => some (c, 0x44, packSI 0 d.val 0 ka.val)
  | .save c k d a => some (c, 0x50, packV k.val 0 (64 + d.val) (opndCode a) 0)
  | .vadd c k t sat a b => some (c, srcMajor 0x51 b, packSrc k.val (sat.toNat * 8 + intTCode t) (opndCode a) b)
  | .vsub c k t sat a b => some (c, srcMajor 0x51 b, packSrc k.val (16 + sat.toNat * 8 + intTCode t) (opndCode a) b)
  | .vand c k t a b => some (c, srcMajor 0x53 b, packSrc k.val (intTCode t) (opndCode a) b)
  | .vor c k t a b => some (c, srcMajor 0x53 b, packSrc k.val (8 + intTCode t) (opndCode a) b)
  | .vxor c k t a b => some (c, srcMajor 0x53 b, packSrc k.val (16 + intTCode t) (opndCode a) b)
  | .vandn c k t a b => some (c, srcMajor 0x53 b, packSrc k.val (24 + intTCode t) (opndCode a) b)
  | .vshl c k t a b => some (c, srcMajor 0x55 b, packSrc k.val (intTCode t) (opndCode a) b)
  | .vshr c k t a b => some (c, srcMajor 0x55 b, packSrc k.val (8 + intTCode t) (opndCode a) b)
  | .vsra c k t a b => some (c, srcMajor 0x55 b, packSrc k.val (16 + intTCode t) (opndCode a) b)
  | .vmin c k t a b => some (c, srcMajor 0x57 b, packSrc k.val (intTCode t) (opndCode a) b)
  | .vmax c k t a b => some (c, srcMajor 0x57 b, packSrc k.val (8 + intTCode t) (opndCode a) b)
  | .vmul c k t a b => some (c, srcMajor 0x59 b, packSrc k.val (intTCode t) (opndCode a) b)
  | .vmulhi c k t a b => some (c, srcMajor 0x59 b, packSrc k.val (8 + intTCode t) (opndCode a) b)
  | .vred c k o t a => some (c, 0x5B, packV k.val (redOpCode o * 8 + redTCode t) (opndCode a) 0 0)
  | .vscan c k o t a => some (c, 0x5C, packV k.val (redOpCode o * 8 + redTCode t) (opndCode a) 0 0)
  | .vshuf c k t a b => some (c, 0x5D, packV k.val (intTCode t) (opndCode a) (opndCode b) 0)
  | .vbcast c k wd a r => some (c, 0x5E, packVS k.val wd.toNat (opndCode a) r.val)
  | .vpushs c k wd r => some (c, 0x5F, packVS k.val wd.toNat 0 r.val)
  | .fadd c k t rm a b => some (c, 0x70, packV k.val (rmCode rm * 8 + fpTCode t) (opndCode a) (opndCode b) 0)
  | .fsub c k t rm a b => some (c, 0x71, packV k.val (rmCode rm * 8 + fpTCode t) (opndCode a) (opndCode b) 0)
  | .fmul c k t rm a b => some (c, 0x72, packV k.val (rmCode rm * 8 + fpTCode t) (opndCode a) (opndCode b) 0)
  | .ffma c k t rm a b z =>
    some (c, 0x73, packV k.val (rmCode rm * 8 + fpTCode t) (opndCode a) (opndCode b) (opndCode z))
  | .fmin c k t a b => some (c, 0x74, packV k.val (fpTCode t) (opndCode a) (opndCode b) 0)
  | .fmax c k t a b => some (c, 0x75, packV k.val (fpTCode t) (opndCode a) (opndCode b) 0)
  | .ffn c k f a => some (c, 0x76, packV k.val (ffnCode f) (opndCode a) 0 0)
  | .cvt c k rm ov a d s =>
    some (c, 0x90, packV k.val (rmCode rm * 8 + ovCode ov * 2) (opndCode a) (tdescCode d) (tdescCode s))
  | .pack4 c k rm ov a d s =>
    some (c, 0x91, packV k.val (rmCode rm * 8 + ovCode ov * 2) (opndCode a) (tdescCode d) (tdescCode s))
  | .unpack4 c k rm ov a d s =>
    some (c, 0x92, packV k.val (rmCode rm * 8 + ovCode ov * 2) (opndCode a) (tdescCode d) (tdescCode s))
  | .vld c k mt sb ad kr => some (c, 0xA0, packM k.val (mtCode mt) sb.val (opndCode ad) kr.val)
  | .vst c k mt sb ad da => some (c, 0xA1, packM k.val (mtCode mt) sb.val (opndCode ad) (opndCode da))
  | .vldComb c k q sb ad => some (c, 0xA2, packM k.val (loadQCode q * 4) sb.val (opndCode ad) 0)
  | .vstComb c k q sb ad da => some (c, 0xA3, packM k.val (storeQCode q * 4) sb.val (opndCode ad) (opndCode da))
  | .vldc c k mt sb ad kr => some (c, 0xA4, packM k.val (mtCode mt) sb.val (opndCode ad) kr.val)
  | .cld c mt d a => some (c, 0xA5, packS (mtCode mt) d.val a.val 0)
  | .cst c mt d a => some (c, 0xA6, packS (mtCode mt) d.val a.val 0)
  | .cinv c a b => some (c, 0xA7, packS 0 0 a.val b.val)
  | .bulkpf c a b => some (c, 0xA8, packS 0 0 a.val b.val)
  | .atomAdd c k wd n sb ad da => some (c, 0xB0, packM k.val (wd.toNat * 8 + n.val) sb.val (opndCode ad) (opndCode da))
  | .atomMin c k g wd n sb ad da =>
    some (c, if g then 0xB1 else 0xB2, packM k.val (wd.toNat * 8 + n.val) sb.val (opndCode ad) (opndCode da))
  | .atomMax c k g wd n sb ad da =>
    some (c, if g then 0xB3 else 0xB4, packM k.val (wd.toNat * 8 + n.val) sb.val (opndCode ad) (opndCode da))
  | .atomAnd c k wd n sb ad da => some (c, 0xB5, packM k.val (wd.toNat * 8 + n.val) sb.val (opndCode ad) (opndCode da))
  | .atomOr c k wd n sb ad da => some (c, 0xB6, packM k.val (wd.toNat * 8 + n.val) sb.val (opndCode ad) (opndCode da))
  | .atomXor c k wd n sb ad da => some (c, 0xB7, packM k.val (wd.toNat * 8 + n.val) sb.val (opndCode ad) (opndCode da))
  | .atomXchg c k wd n sb ad da => some (c, 0xB8, packM k.val (wd.toNat * 8 + n.val) sb.val (opndCode ad) (opndCode da))
  | .atomCas c k wd n sb ad da => some (c, 0xB9, packM k.val (wd.toNat * 8 + n.val) sb.val (opndCode ad) (opndCode da))
  | .atomAddF32 c k n sb ad da => some (c, 0xBA, packM k.val n.val sb.val (opndCode ad) (opndCode da))
  | .atom2Dcas c k wd n sb ad da => some (c, 0xAA, packM k.val (wd.toNat * 8 + n.val) sb.val (opndCode ad) (opndCode da))
  | .atom2Amove c k wd n sb ad da => some (c, 0xAB, packM k.val (wd.toNat * 8 + n.val) sb.val (opndCode ad) (opndCode da))
  | .red c k o wd sb ad da =>
    some (c, 0xAC, packM k.val (wd.toNat * 8 + redMemCode o) sb.val (opndCode ad) (opndCode da))
  | .redF32 c k sb ad da => some (c, 0xAD, packM k.val 0 sb.val (opndCode ad) (opndCode da))
  | .barInit c a => some (c, 0xC0, packSI 0 0 a.val 0)
  | .barArrive c b => some (c, 0xC1, packSI 0 0 0 b.val)
  | .barArriveWait c b => some (c, 0xC1, packSI 1 0 0 b.val)
  | .barWait c b => some (c, 0xC2, packSI 0 0 0 b.val)
  | .barInval c b => some (c, 0xC3, packSI 0 0 0 b.val)
  | .ringDef c r a => some (c, 0xC4, packSI 0 0 a.val r.val)
  | .tlwait c q a => some (c, 0xC5, packSI 0 0 a.val (tlSelCode q))
  | .tlrd c d q => some (c, 0xC6, packSI 0 d.val 0 (tlSelCode q))
  | .bind c a => some (c, 0xC7, packSI 0 0 a.val 0)
  | .unbind c a => some (c, 0xC8, packSI 0 0 a.val 0)
  | .acq c sc a => some (c, 0xC9, packSI (scopeCode sc) 0 a.val 0)
  | .rel c sc a => some (c, 0xCA, packSI (scopeCode sc) 0 a.val 0)
  | .fence c sc => some (c, 0xCB, packSI (scopeCode sc) 0 0 0)
  | .rsvOpen c d a => some (c, 0xCC, packSI 0 d.val a.val 0)
  | .rsvClose c d => some (c, 0xCC, packSI 1 d.val 0 0)
  | .rsvCand c d kd lim => some (c, 0xCC, packSI 2 d.val 0 (lim.val * 16 + kd.val))
  | .claim c k sb ad => some (c, 0xCD, packM k.val 0 sb.val (opndCode ad) 0)
  | .rsvWave c kd => some (c, 0xCE, packSI 0 0 0 kd.val)
  | .rsvWaveNb c kd => some (c, 0xCE, packSI 1 0 0 kd.val)
  | .rsvDone c => some (c, 0xCF, 0)
  | .mma c k z t f => some (c, 0xD0, packV k.val (z.toNat * 2 + t.val) (opndCode f) 0 0)
  | .mmaCoop c k z t f => some (c, 0xD1, packV k.val (z.toNat * 2 + t.val) (opndCode f) 0 0)
  | .macq c d t => some (c, 0xD2, packSI 0 d.val 0 t.val)
  | .mrel c t => some (c, 0xD3, packSI 0 0 0 t.val)
  | .mrelFree c t => some (c, 0xD3, packSI 1 0 0 t.val)
  | .mrd c k h t j => some (c, 0xD4, packVI k.val (h.toNat * 2 + t.val) 0 j.val)
  | .mwr c k h t a j => some (c, 0xD5, packVI k.val (h.toNat * 2 + t.val) (opndCode a) j.val)
  | .tcfg c a => some (c, 0xD6, packSI 0 0 a.val 0)
  | .ucfg c a => some (c, 0xD7, packSI 0 0 a.val 0)
  | .copy c r sb => some (c, 0xD8, packE 0 r.val sb.val 4)
  | .copyx c r sb => some (c, 0xD9, packE 0 r.val sb.val 7)
  | .tileNext c d n => some (c, 0xDA, packSI 0 d.val 0 n.val)
  | .taskPush c d a p => some (c, 0xDB, packSI 0 d.val a.val p.val)
  | .taskPop c d p => some (c, 0xDB, packSI 1 d.val 0 p.val)
  | .launch c d a => some (c, 0xDC, packSI 0 d.val a.val 0)
  | .launchWait c d a => some (c, 0xDC, packSI 1 d.val a.val 0)
  | .lwait c d a => some (c, 0xDD, packSI 0 d.val a.val 0)
  | .getid c d q => some (c, 0xE0, packSI 0 d.val 0 (idSelCode q))
  | .getidHop c d a b => some (c, 0xE1, packS 0 d.val a.val b.val)
  | .srd c d r => some (c, 0xE2, packSI 0 d.val 0 (spRegCode r))
  | .swr c r a => some (c, 0xE3, packSI 0 0 a.val (spRegCode r))
  | _ => none

/-- The word of an instruction (Table 20.1); `none` for an event. -/
def encode (i : Instr) : Option Nat :=
  (parts i).map fun (c, major, body) =>
    c.dist.val * 2 ^ 60 + c.wait.val * 2 ^ 48 + setfCode c.setf * 2 ^ 44 + major * 2 ^ 36 + body

/-- The host's hook: the decoder's reading of a word numbered as the opcode table numbers it. An instruction is one
word of 64 bits (R284), and bits above `nbits` are 0. -/
def decodeTableWord (nbits w : Nat) : Option Instr :=
  match decode (w % 2 ^ nbits % 2 ^ 64) with
  | .ok i => some i
  | .error _ => none

end Sys2Proof
end

