-- ==== Sys2Proof/Machine/State.lean ====
section
/-! DEFINITION. The state of the device as plain data, and State.reset (every piece the spec names; INVENTORY.md,
'## State', gives the rule of each). Numbers the spec treats as registers or data words are bit vectors; counts,
indices and addresses used as keys are natural numbers. -/

namespace Sys2Proof.Machine

/-- Reasons the whole machine stops. -/
inductive Fault
  /-- Raised by every step while BOOTSTAT.STAGE reads 7: the root monitor failed and there is no service (Table 17.7).
  Safe: the spec gives no effect after it. -/
  | rootMonitorFailure
deriving DecidableEq, Repr

/-- Reasons a step has no meaning. -/
inductive Refusal
  /-- Raised only by an arm of exec whose instruction has no meaning yet. Safe. -/
  | notModelled (mnemonic : String)
  /-- Raised by an instruction word when no swarm stands at `cur` that could issue it. Safe: nothing issues. -/
  | noSwarm
  /-- Raised by an instruction word whose swarm R201 holds until an event outside the swarm (a DRAIN, an engine, a
  release) has come. Safe: the step function never issues it then. -/
  | notReady
  /-- Raised by an event whose premise does not hold in this state: the event does not happen. Safe. -/
  | notEnabled
deriving DecidableEq, Repr

/-! ### Swarm state -/

/-- A queue slot or frame slot (R37, R48). `busy` names the operation still to write it, and which push; `bad` is the slot's
poison bit (R44, R219). -/
structure Slot where
  data : List W32
  taint : Bool
  busy : Option (Nat × Nat)
  bad : Bool
deriving DecidableEq, Repr

/-- An arm record (R49). -/
structure Arm where
  opened : Bool
  count : Nat
deriving DecidableEq, Repr

/-- One call level (R37, R45, R49, R54, Table 3.4). `queue` is in age order; `masks` holds k1-k15. -/
structure Level where
  queue : List Slot
  win : List Slot
  wopen : Bool
  masks : List W64
  fork : Bool
  cur : Nat
  arms : List Arm
  retpc : BitVec 52
  spilled : Bool
deriving DecidableEq, Repr

/-- The operation of an ATOM (Table 21.1). -/
inductive AtomOp
  | add | minS | minN | maxS | maxN | and | or | xor | xchg | cas | addF32
deriving DecidableEq, Repr

/-- What an operation in flight still has to do (R38; file 95). Lists run over the 64 lanes. -/
inductive OpBody
  /-- Results on their way: pushed entries or frame slots (mask, data), scalars, one mask register, one special
  register (Table 13.2). -/
  | result (vecs : List (W64 × List W32)) (scals : List (Nat × W64)) (km : Option (Nat × W64))
      (sr : Option (SpReg × W64))
  | load (mt : MT) (consume : Bool) (mask : W64) (vas : List Nat) (kr : Nat) (tainted : Bool)
  | store (mt : MT) (mask : W64) (vas : List Nat) (data : List W64) (tainted : Bool)
  | cload (mt : MT) (va : Nat) (d : Nat)
  | cstore (mt : MT) (va : Nat) (v : W64)
  | atom (op : AtomOp) (wide : Bool) (mask : W64) (vas : List Nat) (val exp : List W64) (kr : Nat) (tainted : Bool)
  | atom2 (dcas wide : Bool) (mask : W64) (va1 va2 : List Nat) (e1 e2 n1 n2 : List W64) (kr : Nat) (tainted : Bool)
  | red (op : AtomOp) (wide : Bool) (mask : W64) (vas : List Nat) (val : List W64) (tainted : Bool)
  | bind (va : Nat) (region : Option (Nat × Nat))
  | rel (sc : Scope) (va : Nat)
  | fence (sc : Scope)
  | cinv (base len : Nat)
  | bulkpf (base len : Nat)
  | taskPush (port : Nat) (key payload : W64) (d : Nat)
  | taskPop (port : Nat) (d : Nat)
  /-- An MRD's entry and a MWR's write on their way (R92), held against by MREL (R342). -/
  | mrd (tile : Nat) (mask : W64) (data : List W32)
  | mwr (tile : Nat)
  /-- A COPY slice or a matrix operation: ends with its collective or its unit. -/
  | engine
  /-- An instruction blocked in its wait: ends when the wait returns. -/
  | waiting
  /-- An access that met an uncorrectable error: it never retires and does nothing more (R210). -/
  | stuck
deriving DecidableEq, Repr

/-- An operation in flight (R38, R201, R212). `flag` is the SETF flag it still counts in; `aside` says the count lives
in the set-aside copy; `due` is the die cycle at which a fixed latency ends; `since` the reference cycle of its issue, from
which a link's dead timer measures (R233). -/
structure Op where
  id : Nat
  pc : BitVec 52
  flag : Option (Fin 12)
  aside : Bool
  due : Option Nat
  since : Nat
  body : OpBody
deriving DecidableEq, Repr

/-- A recorded deferred fault (R114). -/
structure FaultRec where
  pc : BitVec 52
  cause : Nat
  lanes : W64
  va : Nat
  flag : Option (Fin 12)
  order : Nat
deriving DecidableEq, Repr

/-- A qualified comb access that waits (R127), with its addresses already mapped. -/
inductive CombAccess
  | load (take : Bool) (mask : W64) (addrs : List Nat)
  | store (mask : W64) (addrs : List Nat) (data : List W32)
deriving DecidableEq, Repr

/-- The wait targets of Table 2.5. -/
inductive WaitKind
  /-- BAR.WAIT, or the wait half of BAR.ARRIVE.WAIT: until GEN > t. -/
  | barGen (b t : Nat)
  /-- BAR.ARRIVE with its token pending; `andWait` for the `.wait` form. -/
  | barToken (b t : Nat) (andWait : Bool)
  /-- BAR.WAIT on a ring barrier: until every earlier stage is ahead. -/
  | ringWait (b : Nat)
  /-- BAR.ARRIVE.WAIT on a ring barrier: until the own stage passes pointer t. -/
  | ringGen (b t : Nat)
  /-- BAR.ARRIVE on a ring barrier with its token pending. -/
  | ringToken (b t : Nat) (andWait : Bool)
  | comb (a : CombAccess)
  | timeline (sel : TlSel) (target : Nat)
  | acq (sc : Scope) (va n : Nat)
  | launch (va d : Nat)
  | lwait (va n d : Nat)
  | rsvWave (kd : Nat)
deriving DecidableEq, Repr

/-- Who a first expiry raises (Table 2.5). -/
inductive Releaser
  | swarm (i : Nat)
  | colony (j : Nat)
  /-- The copy engines and fabric engines that serve a colony, and its launch engine. -/
  | engines (j : Nat)
deriving DecidableEq, Repr

/-- A wait in progress (R25-R32): `cls` is the recorded class, `timer` the starvation timer, `op` its operation, `raises` whom its
first expiry has raised, until the target is released (R29, Table 2.5). -/
structure Wait where
  kind : WaitKind
  cls : Nat
  timer : Nat
  op : Nat
  raises : List Releaser
deriving DecidableEq, Repr

/-- A lane of a reserving loop (R174): free when `item` is none. -/
structure RLane where
  item : Option Nat
  admitted : Bool
  claims : List Nat
deriving DecidableEq, Repr

/-- The trap state of Table 14.3. -/
structure TrapState where
  rec0 : W64
  rec1 : W64
  rec2 : W64
  rec3 : W64
  resume : BitVec 52
  intrap : Bool
  flags : List Nat
deriving DecidableEq, Repr

/-- One swarm (R11, R31). `top` is the current level, `under` the older ones, youngest first. -/
structure Swarm where
  colony : Nat
  idx : Nat
  stage : Nat
  pc : BitVec 52
  top : Level
  under : List Level
  scalars : List W64
  flags : List Nat
  starveLog2 : Nat
  starveLevel : Nat
  nonres : Bool
  privBase : Nat
  privSize : Nat
  barstat : Nat
  trap : TrapState
  /-- Call depth of the handler's entry level, 0 outside a handler (R213). -/
  hdepth : Nat
  tcfg : List W64
  ucfg : List W64
  ops : List Op
  nextOp : Nat
  faults : List FaultRec
  /-- A 64th deferred fault was recorded and not all have been reported (R214). -/
  faultsFull : Bool
  /-- A trap is taken and handler entry still waits for owed results (R211, R212). -/
  entering : Bool
  wait : Option Wait
  /-- A wait set aside by a STARVE trap, to be resumed by IRET (R29). -/
  starved : Option Wait
  /-- Die cycle of the last issue in this placement; none when DIST is met (R285). -/
  lastIssue : Option Nat
  /-- Die cycle at which a YIELD hold ends at the latest (R387). -/
  hold : Option Nat
  quarter : Nat
  /-- Number of the placement it stands in: a smaller one was placed earlier (R205). -/
  placed : Nat
  readyCount : Nat
  /-- Flags counted down in this clock: an issue check sees the decrement from the next one on (R201). -/
  fell : List Nat
  /-- Poisoned scalar registers (R219). -/
  badScalars : List Nat
  score : Nat
  admitted : Bool
  lanes : List RLane
  wave : Bool
  ended : Bool
deriving DecidableEq, Repr

/-! ### Colony, field and context state -/

/-- A named barrier (R129), with the per-stage counts of ring mode (R137). `tokens` pairs a swarm index with the
generation (or stage pointer) of its pending token. -/
structure Bar where
  valid : Bool
  cls : Nat
  m : Nat
  e : Nat
  sArr : Nat
  eArr : Nat
  eHeld : Nat
  gen : W32
  epoch : Nat
  tokens : List (Nat × Nat)
  ring : Option Nat
  stages : List (Nat × Nat × Nat)
deriving DecidableEq, Repr

/-- A defined ring (R135): the words of Table 7.6 and the eight stage pointers. -/
structure Ring where
  w0 : W64
  w1 : W64
  ptrs : List W32
deriving DecidableEq, Repr

/-- An open reserving loop (R174). -/
structure Rsv where
  n : Nat
  next : Nat
  quota : Nat
deriving DecidableEq, Repr

/-- A place for a colony: compute socket, cluster and cores (R14-R16). -/
structure Span where
  die : Nat
  clus : Nat
  cores : List Nat
deriving DecidableEq, Repr

/-- Where a colony stands. -/
inductive ColStatus
  /-- Accepted, not yet placed. -/
  | waiting
  | running
  /-- Pre-empted and saved (R216). -/
  | saved
  | retired
  /-- Stopped by a context fault (R215). -/
  | stopped
deriving DecidableEq, Repr

/-- Why a colony is to be pre-empted (R191, R192, R240). -/
inductive StopWhy
  | rotation
  | lending
  | park
deriving DecidableEq, Repr

/-- Whose launch record tells colonies to lend (R191): a colony's, at the head of its pending-launch queue, or a command's. -/
inductive Teller
  | colony (j : Nat)
  | command (src : CmdSrc)
deriving DecidableEq, Repr

/-- A byte of the comb as it stood before a write: when the write was made, by number and by die cycle (R93, R146). -/
structure CombOld where
  addr : Nat
  byte : Byte
  seq : Nat
  cycle : Nat
deriving DecidableEq, Repr

/-- A saved tile (R84): the position of its core in the span, its number, the swarm that holds its token, its elements and their
poison. -/
structure SavedTile where
  core : Nat
  tile : Nat
  token : Option Nat
  elems : List (Nat × W32)
  bad : List Nat
deriving DecidableEq, Repr

/-- An MMA.COOP arrival that has not started (R94). -/
structure CoopArr where
  base : Int
  parts : Nat
  q : Nat
  swarm : Nat
  op : Nat
  tile : Nat
  z : Bool
  mask : W64
  tcfg : List W64
  ucfg : List W64
  fmt : W32
  rings : List (Option Ring)
deriving DecidableEq, Repr

/-- An entry of a store buffer (R220): the bytes of one write, inside a line, or a REL, whose increment of SEQ performs when the
buffer drains. -/
inductive Buffered
  | bytes (va : Nat) (bs : List Byte)
  | rel (va sc field colony cls : Nat)
deriving DecidableEq, Repr

/-- One colony. -/
structure Colony where
  field : Nat
  index : Nat
  status : ColStatus
  admitted : Bool
  /-- The reservation it holds (R23, R191). -/
  resv : Option Span
  /-- It is to lend its reservation, or has been swapped out under lending (R191). -/
  lent : Bool
  /-- The record that told it to lend (R269). -/
  toldBy : Option Teller
  /-- The number of the lending that its present reservation would be or is in. -/
  lendNo : Nat
  /-- Lent reservations, by lending, that stand beside a newly made one until their borrowers retire (R270). -/
  lentResv : List (Nat × Span)
  /-- The lent reservations this colony uses: lender and lending (R191, R270). -/
  lenders : List (Nat × Nat)
  place : Option Span
  /-- A pre-emption is under way, and no swarm issues (R216), or has saved the colony: why. -/
  stop : Option StopWhy
  /-- The die cycle at which, and the die from which, it was pre-empted for a rotation (R24). -/
  rotatedAt : Option (Nat × Nat)
  comb : List (Nat × Byte)
  full : List Nat
  combPoison : List Nat
  combOld : List CombOld
  combSeq : Nat
  bars : List Bar
  rings : List (Option Ring)
  rsv : Option Rsv
  copyIssued : List Nat
  copyDone : List (List Nat)
  mmaIssued : Nat
  mmaDone : List Nat
  collIssued : List Nat
  collTl : List W64
  launchQ : List Nat
  launchIssued : Nat
  launchTl : Nat
  coop : List CoopArr
  resumes : W32
  bardrop : W32
  copyst : Nat
  rst : Bool
  rstCause : Nat
  rstCount : Nat
  /-- The store buffer of a restartable colony, in write order (R220). -/
  sbuf : List Buffered
  tileLog : List (Nat × Nat)
  tileReplay : List (Nat × Nat)
  /-- Cluster the last kill happened on (R222). -/
  avoid : Option (Nat × Nat)
  /-- Saved tiles of a pre-empted colony (R84). -/
  savedTiles : List SavedTile
  /-- VA and size of its save area (R218). -/
  saveBase : Nat
  saveSize : Nat
deriving DecidableEq, Repr

/-- A kernel descriptor (Table 19.5), decoded. -/
structure KDesc where
  entry : Nat
  recBase : Nat
  depth : Nat
  frame : Nat
  scalars : Nat
  cls : Nat
  rst : Bool
  swarms : Nat
  span : Nat
  stages : List Nat
  bars : Nat
  rings : Nat
  combSize : Nat
  hash : Nat
  privSize : Nat
  codeSize : Nat
  recSize : Nat
deriving DecidableEq, Repr

/-- Who waits for a command's completion (R255). -/
structure CmdRef where
  src : CmdSrc
  slot : Nat
  tag : Nat
  sigva : Nat
  sigval : Nat
  scope : Nat
  ctx : Nat
deriving DecidableEq, Repr

/-- One field (R11, R189, R193): `recVa` is its launch record, `kdesc` its kernel descriptor. `posted` counts its unacknowledged posted stores (R259). -/
structure FieldSt where
  id : Nat
  ctx : Nat
  recVa : Nat
  kdesc : Nat
  desc : KDesc
  cls : Nat
  resv : Bool
  scope : Nat
  tx : Nat
  ty : Nat
  tz : Nat
  nextTile : Nat
  args : List W64
  colonies : Nat
  retired : Nat
  privBase : Nat
  live : Bool
  host : Option CmdRef
  posted : Nat
  /-- Indices of the retired colonies whose DONE add has not been made (R199). -/
  owed : List Nat
deriving DecidableEq, Repr

/-- A virtual-die table entry (Table 16.1). -/
structure VDie where
  state : Nat
  socket : Nat
deriving DecidableEq, Repr

/-- One context (R103, Table 17.9). -/
structure Ctx where
  handle : Nat
  asid : Nat
  root : Nat
  pager : Nat
  check : Bool
  selfVa : Nat
  saveBase : Nat
  saveSize : Nat
  privBase : Nat
  privSize : Nat
  tvec : BitVec 52
  vdies : List VDie
  /-- Cause of the context fault taken (Table 14.5). -/
  fault : Option Nat
  live : Bool
deriving DecidableEq, Repr

/-! ### Cores, engines, dies -/

/-- An accumulator tile (R79): sparse elements, +0 where unlisted; `token` none is the unit's. -/
structure Tile where
  owner : Option Nat
  token : Option Nat
  elems : List (Nat × W32)
  /-- Poisoned groups of four elements (Table 14.7). -/
  bad : List Nat
deriving DecidableEq, Repr

/-- A bound line in a core's L1 (R105): `have_` marks the bytes it can serve, `dirty` the bytes written; `bad` the poisoned
units of 16 bytes (Table 14.7). -/
structure L1Line where
  asid : Nat
  line : Nat
  w : Bool
  bytes : List Byte
  have_ : W64
  dirty : W64
  bad : List Nat
  filler : Nat
deriving DecidableEq, Repr

/-- A victim tag (R204). -/
structure Victim where
  asid : Nat
  line : Nat
  swarm : Nat
deriving DecidableEq, Repr

/-- A line of a core's instruction cache (R299). -/
structure ILine where
  asid : Nat
  line : Nat
  bytes : List Byte
deriving DecidableEq, Repr

/-- One core. -/
structure CoreSt where
  tiles : List Tile
  l1 : List L1Line
  icache : List ILine
  victims : List Victim
  replay : W32
  /-- Die cycle from which the matrix unit is free (R95). -/
  unitFree : Nat
deriving DecidableEq, Repr

/-- One cluster: AGESTAT (Table 14.9). `gated` marks a cluster that a bring-up has found failed: its cap counts no more; `checked`
is the period of the reference clock in which it was last checked (R224). -/
structure Cluster where
  drift : Nat
  failed : Bool
  gated : Bool
  cap : Nat
  checked : Nat
  cores : List CoreSt
deriving DecidableEq, Repr

/-- One compute die: cycle count (R150), PSTATE and CECOUNT (Table 16.7). `trans` is the target of a transition in
progress (R237), `parking` a park in progress (R240), `waking` an unpark whose link is not yet ACTIVE (R242); `oldReq` is what
REQ goes back to when a park is refused (R241). -/
structure Die where
  cycle : Nat
  /-- The rotation period in which cores last rotated (R192), and the throttle period last served, by core and quarter (R204). -/
  rotation : Nat
  throttled : List (Nat × Nat)
  /-- Share of the ceiling, in 0.1 W (R239). -/
  share : Nat
  /-- The I/O die's reference cycle since which slots have been withheld without a break (R239). -/
  withheld : Option Nat
  /-- The I/O die's reference cycle since which the die has drawn less than 90% of its share (R239). -/
  light : Option Nat
  waking : Bool
  oldReq : Nat
  dead : Bool
  busy : Bool
  pkst : Nat
  cur : Nat
  lim : Nat
  req : Nat
  trans : Option Nat
  /-- Reference cycles since the transition began (R237). -/
  elapsed : Nat
  parking : Bool
  ce : W32
  clusters : List Cluster
deriving DecidableEq, Repr

/-- A slice of a copy collective (R138): its swarm, operation, arguments, and the rings as they stood at its issue (R136, R145). -/
structure Slice where
  swarm : Nat
  op : Nat
  args : List W64
  rings : List (Option Ring)
deriving DecidableEq, Repr

/-- State of a collective. -/
inductive CollState
  | open_
  | queued
  | running
deriving DecidableEq, Repr

/-- A copy collective (R138). `epoch` is that of its barrier when it opened, `since` the comb writes made by its start, from which its
reads date (R141). -/
structure Coll where
  colony : Nat
  ctx : Nat
  recIdx : Nat
  rec_ : W64
  stage : Nat
  epoch : Nat
  slices : List Slice
  num : Nat
  state : CollState
  since : Nat
deriving DecidableEq, Repr

/-- One part of a matrix operation on one core (R91, R94). -/
structure MmaPart where
  swarm : Nat
  op : Nat
  die : Nat
  clus : Nat
  core : Nat
  q : Nat
  tile : Nat
  z : Bool
  mask : W64
  tcfg : List W64
  ucfg : List W64
  rings : List (Option Ring)
  fmt : W32
deriving DecidableEq, Repr

/-- A matrix operation accepted and not complete; `free` marks unspecified results (R94), `due` is the die cycle of its
completion (R95), `since` the comb writes made by its start (R93), and `ran` says that its tiles have been updated already, before a
later operation of one of its cores. -/
structure MmaOp where
  colony : Nat
  num : Nat
  parts : List MmaPart
  free : Bool
  due : Nat
  since : Nat
  ran : Bool
deriving DecidableEq, Repr

/-! ### Home ports, links, host -/

/-- A translation held by a home port: TLB entry and line records of one 64 KiB unit (R104, R105). -/
structure MapRec where
  asid : Nat
  unit : Nat
  pa : Nat
  w : Bool
  c : Bool
  x : Bool
  g : Bool
  dset : Bool
deriving DecidableEq, Repr

/-- Directory states (R121). -/
inductive DirState
  | shared
  | modified
deriving DecidableEq, Repr

/-- A directory entry (R121); absent is invalid. `cores` is what the dies' snoop filters record: each core with the swarm that
filled its line (R204). -/
structure DirEntry where
  asid : Nat
  line : Nat
  state : DirState
  dies : List Nat
  io : Bool
  owner : Option (Nat × Nat × Nat)
  cores : List ((Nat × Nat × Nat) × Nat)
deriving DecidableEq, Repr

/-- Whose access it is, for logs and attribution (Table 6.6). -/
structure Who where
  field : Nat
  colony : Nat
  swarm : Nat
  pc : Nat
deriving DecidableEq, Repr

/-- What a bounce-buffer entry holds (R111, R153). -/
inductive BounceKind
  /-- Bytes with their addresses, all of one line; the 16-byte units (address div 16) whose bytes are poisoned (R219). -/
  | bytes (bs : List (Nat × Byte)) (bad : List Nat)
  | red (op : AtomOp) (wide : Bool) (va : Nat) (val : W64)
  | bind (va : Nat) (region : Option (Nat × Nat))
  | rel (va : Nat) (sc : Nat) (ext : Bool) (field colony cls : Nat)
deriving DecidableEq, Repr

/-- A bounce-buffer entry of a page (ASID tag, 64 KiB unit). -/
structure Bounce where
  asid : Nat
  unit : Nat
  kind : BounceKind
  who : Who
deriving DecidableEq, Repr

/-- A fault log entry (Table 6.6). -/
structure FaultLog where
  va : Nat
  asid : Nat
  kind : Nat
  cause : Nat
  who : Who
  cycle : Nat
deriving DecidableEq, Repr

/-- A key and payload pair of a task priority queue (R195). -/
structure TaskPair where
  asid : Nat
  key : W64
  payload : W64
deriving DecidableEq, Repr

/-- One memory-port die. -/
structure Port where
  maps : List MapRec
  dir : List DirEntry
  bounce : List Bounce
  flog : List FaultLog
  flogOver : Nat
  carve : Nat
  carveTo : Option Nat
  carveCmd : Option CmdRef
  tasks : List TaskPair
  quotas : List (Nat × Nat)
  refCycle : Nat
deriving DecidableEq, Repr

/-- An update-only f32 copy of RED (R167): the core's sum for one word of physical memory. -/
structure UpdCopy where
  core : Nat × Nat × Nat
  pa : Nat
  sum : W32
deriving DecidableEq, Repr

/-- A link port: LINKSTAT (Table 16.6) and the reference-cycle count of its router; `since` is the count at which it entered
its state. -/
structure Link where
  state : Nat
  doze : Bool
  waketo : Nat
  refCycle : Nat
  since : Nat
  /-- The count since which a request through a SILENT link has been unanswered (R233). -/
  asked : Option Nat
deriving DecidableEq, Repr

/-- A command consumed whose completion entry is not yet written (R250, R255). -/
structure Pend where
  tag : Nat
  sqhead : Nat
  done : Option (Nat × W64 × W64)
  slot : Nat
deriving DecidableEq, Repr

/-- A queue pair (R247, R250, Table 17.1). `owner` is the context that owns it, `space` the one whose VAs name its rings
(0 for ASID 0); `cidx` is the next completion index firmware writes. -/
structure Queue where
  qid : Nat
  n : Nat
  sq : Nat
  cq : Nat
  owner : Nat
  space : Nat
  tail : Nat
  head : Nat
  chead : Nat
  cidx : Nat
  phase : Bool
  pend : List Pend
  nextSlot : Nat
  deleting : Option CmdRef
deriving DecidableEq, Repr

/-- A queue log entry (R247, R248): kind 0 an ignored doorbell write, 1 a dropped alias store. -/
structure QLog where
  kind : Nat
  qid : Nat
  value : W64
deriving DecidableEq, Repr

/-- A link log entry (R232, R233). -/
structure LinkLog where
  socket : Nat
  kind : Nat
  cycle : Nat
deriving DecidableEq, Repr

/-- A service table entry (Table 17.5); `svc` 0 is free. -/
structure Svc where
  svc : Nat
  ctx : Nat
  qid : Nat
  maxw : Nat
  tmpl : Nat
  miss : Nat
  /-- The template's own words that the payload of a request stands over until its launch has been examined (R260). -/
  under : List Byte
deriving DecidableEq, Repr

/-- A valid peer table entry (Table 17.11), the eight words decoded. -/
structure Peer where
  v6 : Bool
  addrHi : Nat
  addrLo : Nat
  port : Nat
  udp : Nat
  wbase : Nat
  wlen : Nat
  ww : Bool
  wctx : Nat
deriving DecidableEq, Repr

/-- A posted fabric store not yet acknowledged, and when it was sent, by the reference clock (R259). -/
structure Posted where
  num : Nat
  ctx : Nat
  field : Nat
  swarm : Nat
  peer : Nat
  psn : Nat
  va : Nat
  addr : Nat
  payload : List Byte
  who : Who
  since : Nat
deriving DecidableEq, Repr

/-- A reduction in progress (R261-R263), destination (role 0) or contributor (role 1): when it was accepted, by the reference clock,
and how long it waits. -/
structure Reduc where
  num : Nat
  colony : Nat
  cctx : Nat
  number : Nat
  ctag : Nat
  role : Nat
  asid : Nat
  ctxh : Nat
  va : Nat
  wide : Bool
  op : Nat
  count : Nat
  peers : List Nat
  got : List (Nat × List Byte)
  /-- The PSN of each contributor's last packet, which the commit answers (R263). -/
  lastPsn : List (Nat × Nat)
  sent : Bool
  /-- The contribution as sent, packet by packet: (PSN, offset, payload) (R257, R263). -/
  frames : List (Nat × Nat × List Byte)
  since : Nat
  limit : Nat
  host : CmdRef
deriving DecidableEq, Repr

/-- A storage operation in progress (R266). -/
structure Stor where
  num : Nat
  write : Bool
  asid : Nat
  ctxh : Nat
  va : Nat
  blocks : Nat
  host : CmdRef
deriving DecidableEq, Repr

/-- What the device sends out: fabric frames with their addressing and header (Table 17.4), answers to host and management
reads, storage commands, management completions, and the report of a context fault with the swarm concerned (R215). -/
inductive Msg
  | frame (port : Nat) (v6 : Bool) (hi lo udp dport : Nat) (ver op peer psn addr len ctag : Nat) (payload : List Byte)
  | bar2 (bytes : List Byte)
  | mgmt (tag status : Nat) (res0 res1 : W64)
  | stat (v : W64)
  | report (ctx cause : Nat) (swarm : Option Swarm)
  | nvme (id ns peer : Nat) (write : Bool) (lba blocks : Nat) (data : List Byte)
deriving DecidableEq, Repr

/-- A loaded descriptor (R281): the context and the descriptor's VA. -/
structure Loaded where
  ctx : Nat
  va : Nat
  desc : KDesc
deriving DecidableEq, Repr

/-- A place in the order that the events of one clock keep (R83, R144, R184): the class, then the swarm's index in its colony, then
the swarm. -/
structure Turn where
  cls : Nat
  idx : Nat
  sw : Nat
deriving DecidableEq, Repr

/-- What has taken effect in the present clock, for the orders that events of one clock keep (R30, R83, R144, R184, R201): the swarms that
have issued, with their cores and quarters, the last place taken in the order of R83, R144 and R184, whether a starvation expiry has come, the
ports popped from (R360), the comb cells that swarms have accessed as (colony, cell), the bits of SR.COPYST that have been set as
(colony, bit) and the swarms whose SR.NONRES has been (R359), the objects, as (ASID, VA), whose region a REL has read (R309), the
colonies that have issued LAUNCH (R198), those that a pre-emption has stopped (R217), and those told to lend (R269). -/
structure Clock where
  issued : List (Nat × (Nat × Nat × Nat) × Nat)
  last : Option Turn
  expired : Bool
  popped : List Nat
  cells : List (Nat × Nat)
  copyst : List (Nat × Nat)
  nonres : List Nat
  rels : List (Nat × Nat)
  launched : List Nat
  stopped : List Nat
  told : List Nat
deriving DecidableEq, Repr

/-- A write of firmware that a port holds, its bounce buffer being full or its page undrained (R111, R112). -/
structure HeldWrite where
  asid : Nat
  va : Nat
  bytes : List Byte
  /-- The command that this SIGVAL ends, with its status and results (R255). -/
  ends : Option (CmdRef × Nat × W64 × W64)
deriving DecidableEq, Repr

/-- A service request that waits until the record of the launch before it has been examined (R260). -/
structure SvcReq where
  entry : Nat
  peer : Nat
  payload : List Byte
deriving DecidableEq, Repr

/-- The device. -/
structure State where
  mem : List Host.Cell
  poison : List Nat
  fresh : Nat
  cur : Nat
  clk : Clock
  inbox : List Instr
  swarms : List Swarm
  colonies : List Colony
  fields : List FieldSt
  ctxs : List Ctx
  colls : List Coll
  mmas : List MmaOp
  dies : List Die
  ports : List Port
  upd : List UpdCopy
  ioDir : List DirEntry
  links : List Link
  ioLink : Link
  stage : Nat
  stkDead : W32
  dieDead : W32
  portDead : W32
  stackMap : List (Bool × Nat)
  homeHash : List W64
  pwrCap : Nat
  /-- The writes of PWRCAP, newest first: reference cycle and ceiling (R238). -/
  pwrHist : List (Nat × Nat)
  shareAt : Nat
  pwrEvents : Nat
  pwrMeas : Nat
  apertures : List W64
  peers : List (Nat × Peer)
  svcs : List Svc
  svcWait : List SvcReq
  mgmtQ : List Cmd
  fwHeld : List HeldWrite
  queues : List Queue
  qlog : List QLog
  qlogOver : Nat
  linkLog : List LinkLog
  linkLogOver : Nat
  ioFlog : List FaultLog
  ioFlogOver : Nat
  ioCycle : Nat
  patch : Nat
  loaded : List Loaded
  posted : List Posted
  nextPosted : Nat
  psns : List (Nat × Nat × Nat)
  /-- Arrived frames that a home holds, in order of arrival (R256, R258). -/
  rx : List Pkt
  reducs : List Reduc
  nextReduc : Nat
  stors : List Stor
  nextStor : Nat
  nextField : Nat
  nextPlaced : Nat
  out : List Msg
deriving DecidableEq, Repr

/-! ### Reset -/

/-- A core right after reset: tiles unowned and zero (R79), caches empty. -/
def CoreSt.reset : CoreSt := ⟨[⟨none, none, [], []⟩, ⟨none, none, [], []⟩], [], [], [], 0, 0⟩

/-- A cluster right after reset: AGESTAT 0 (Table 14.9), twelve cores. -/
def Cluster.reset : Cluster := ⟨0, false, false, 0, 0, List.replicate 12 CoreSt.reset⟩

/-- A compute die right after reset: PSTATE.CUR 6, every other field 0 (Table 16.7). -/
def Die.reset : Die :=
  ⟨0, 0, [], 0, none, none, false, 0, false, false, 0, 6, 0, 0, none, 0, false, 0, List.replicate 4 Cluster.reset⟩

/-- A memory-port die right after reset. -/
def Port.reset : Port := ⟨[], [], [], [], 0, 0, none, none, [], [], 0⟩

/-- A link before bring-up: OFF (log 9). -/
def Link.reset : Link := ⟨0, false, 0, 0, 0, none⟩

/-- A free service table entry. -/
def Svc.reset : Svc := ⟨0, 0, 0, 0, 0, 0, []⟩

/-- A clock in which nothing has happened yet. -/
def Clock.reset : Clock := ⟨[], none, false, [], [], [], [], [], [], [], []⟩

/-- The device right after reset (R267): stage 0, nothing placed, every register at the value its table states, and
the values of log 9 where no table states one. -/
def State.reset : State where
  mem := []
  poison := []
  fresh := 0
  cur := 0
  clk := Clock.reset
  inbox := []
  swarms := []
  colonies := []
  fields := []
  ctxs := []
  colls := []
  mmas := []
  dies := List.replicate 4 Die.reset
  ports := List.replicate 8 Port.reset
  upd := []
  ioDir := []
  links := List.replicate 12 Link.reset
  ioLink := Link.reset
  stage := 0
  stkDead := 0
  dieDead := 0
  portDead := 0
  stackMap := [(false, 0), (false, 1), (false, 2), (false, 3), (false, 4), (false, 5), (false, 6), (false, 7)]
  homeHash := [0x249249249, 0x492492492, 0x924924924]
  pwrCap := 200
  pwrHist := [(0, 200)]
  shareAt := 0
  pwrEvents := 0
  pwrMeas := 0
  apertures := 0xFC0000003 :: List.replicate 63 0
  peers := []
  svcs := List.replicate 256 Svc.reset
  svcWait := []
  mgmtQ := []
  fwHeld := []
  queues := []
  qlog := []
  qlogOver := 0
  linkLog := []
  linkLogOver := 0
  ioFlog := []
  ioFlogOver := 0
  ioCycle := 0
  patch := 0
  loaded := []
  posted := []
  nextPosted := 0
  psns := []
  rx := []
  reducs := []
  nextReduc := 0
  stors := []
  nextStor := 0
  nextField := 1
  nextPlaced := 0
  out := []

end Sys2Proof.Machine
end

