-- ==== Sys2Proof/Machine/Base.lean ====
section
/-! DEFINITION. The named operations over sparse memories, lanes, masks, levels, flags and swarms; trap records and
context faults (R215). -/

namespace Sys2Proof.Machine

/-! ### Sparse maps in canonical form -/

/-- The value at a key; `d` where the list has no entry. -/
def spGet {α : Type} (d : α) : List (Nat × α) → Nat → α
  | [], _ => d
  | (k, v) :: r, a => if k = a then v else spGet d r a

/-- Stores a value and keeps the canonical form: keys rising, no entry equal to `d`. -/
def spPut {α : Type} [DecidableEq α] (d : α) : List (Nat × α) → Nat → α → List (Nat × α)
  | [], a, x => if x = d then [] else [(a, x)]
  | (k, v) :: r, a, x =>
    if a < k then (if x = d then (k, v) :: r else (a, x) :: (k, v) :: r)
    else if a = k then (if x = d then r else (a, x) :: r)
    else (k, v) :: spPut d r a x

/-- The canonical form: keys strictly rising above `lo`, and no entry equal to `d`. -/
def spWfFrom {α : Type} [DecidableEq α] (d : α) : Nat → List (Nat × α) → Bool
  | _, [] => true
  | lo, (k, v) :: r => decide (lo ≤ k) && decide (v ≠ d) && spWfFrom d (k + 1) r

/-- A byte of memory nothing has listed reads 0 (log 1). -/
def memDefault : Byte := 0

/-- One byte of memory. -/
def memGet (m : List Host.Cell) (a : Nat) : Byte := spGet memDefault m a
/-- Writes one byte of memory. -/
def memPut (m : List Host.Cell) (a : Nat) (b : Byte) : List Host.Cell := spPut memDefault m a b
/-- Memory is in canonical form. -/
def Memory.wf (m : List Host.Cell) : Bool := spWfFrom memDefault 0 m

/-- `n` bytes from `a`, lowest address first. -/
def memBytes (m : List Host.Cell) (a : Nat) : Nat → List Byte
  | 0 => []
  | n + 1 => memGet m a :: memBytes m (a + 1) n

/-- Writes bytes from `a` up. -/
def memPutBytes (m : List Host.Cell) (a : Nat) : List Byte → List Host.Cell
  | [] => m
  | b :: bs => memPutBytes (memPut m a b) (a + 1) bs

/-- Inserts into an ascending list without repeats. -/
def insNat (n : Nat) : List Nat → List Nat
  | [] => [n]
  | x :: r => if n < x then n :: x :: r else if n = x then x :: r else x :: insNat n r

/-- Bytes as a little-endian number (R284). -/
def leNat : List Byte → Nat
  | [] => 0
  | b :: bs => b.toNat + 256 * leNat bs

/-- The low `n` bytes of a number, little-endian. -/
def leBytes : Nat → Nat → List Byte
  | 0, _ => []
  | n + 1, v => BitVec.ofNat 8 v :: leBytes n (v / 256)

/-- A 64-bit word as eight bytes. -/
def wordBytes (w : W64) : List Byte := leBytes 8 w.toNat

/-! ### Lanes and masks -/

/-- The lanes 0 to 63. -/
def laneList : List Nat := List.range 64

/-- Every lane. -/
def allLanes : W64 := BitVec.allOnes 64

/-- Lane `l` is in the mask. -/
def has (m : W64) (l : Nat) : Bool := m.getLsbD l

/-- The lanes of a mask, ascending. -/
def lanesOf (m : W64) : List Nat := laneList.filter (has m)

/-- The mask of the lanes that satisfy a test. -/
def maskOf (p : Nat → Bool) : W64 :=
  laneList.foldr (fun l acc => if p l then acc ||| BitVec.twoPow 64 l else acc) 0

/-- One value per lane. -/
def lanes (f : Nat → W32) : List W32 := laneList.map f

/-- Element of lane `l`. -/
def el (v : List W32) (l : Nat) : W32 := v.getD l 0

/-- Wide element of lane `l`. -/
def el64 (v : List W64) (l : Nat) : W64 := v.getD l 0

/-- The same value in every lane. -/
def splat (x : W32) : List W32 := lanes fun _ => x

/-- New elements in the lanes of the mask, old ones elsewhere (R43, R47). -/
def mergeLanes (m : W64) (new old : List W32) : List W32 := lanes fun l => if has m l then el new l else el old l

/-- Lowest lane of a mask, 0 when empty. -/
def lowLane (m : W64) : Nat := (lanesOf m).headD 0

/-- High half of a 64-bit value. -/
def hi32 (w : W64) : W32 := (w >>> 32).setWidth 32
/-- Low half of a 64-bit value. -/
def lo32 (w : W64) : W32 := w.setWidth 32
/-- A 64-bit value of its halves. -/
def join64 (h l : W32) : W64 := h ++ l

/-! ### Levels -/

/-- An entry of zeros (R45, R54). -/
def Slot.zero : Slot := ⟨splat 0, false, none, false⟩

/-- The four arm records, clear. -/
def armsClear : List Arm := List.replicate 4 ⟨false, 0⟩

/-- The mask a selector names: k0 holds every lane (R9). -/
def Level.mask (lv : Level) (k : Nat) : W64 := if k = 0 then allLanes else lv.masks.getD (k - 1) 0

/-- Writes a mask register; k0 is never written. -/
def Level.setMask (lv : Level) (k : Nat) (v : W64) : Level :=
  if k = 0 then lv else { lv with masks := lv.masks.set (k - 1) v }

/-- The queue depth D. -/
def Level.depth (lv : Level) : Nat := lv.queue.length

/-- Counts one push in the current arm of an open fork (R49). -/
def Level.countPush (lv : Level) : Level :=
  if lv.fork then { lv with arms := lv.arms.modify lv.cur fun a => { a with count := min 127 (a.count + 1) } } else lv

/-- One push (R37, R43): the oldest slot comes to age 0, keeps its elements until the result lands, and takes the taint
rule. `busy` names the operation that will write it. The whole slot is written, so it holds no poison afterwards (R44). -/
def Level.push (lv : Level) (mask : W64) (taint : Bool) (busy : Option (Nat × Nat)) : Level :=
  let old := lv.queue.getLastD Slot.zero
  let new : Slot := ⟨old.data, taint || (mask != allLanes && old.taint), busy, false⟩
  { lv with queue := new :: lv.queue.dropLast }.countPush

/-- A push whose data is there at once: all lanes, used by RET (R56). -/
def Level.pushNow (lv : Level) (sl : Slot) : Level :=
  { lv with queue := sl :: lv.queue.dropLast }.countPush

/-- Part numbers from here up mark a copy of a slot that no result will write (R211). -/
def copyPart : Nat := 1000

/-- A result is still to be written into this slot (R39). -/
def Slot.inFlight (s : Slot) : Bool :=
  match s.busy with
  | none => false
  | some b => b.2 < copyPart

/-- A slot as a new level is seeded with it: a copy of an incomplete slot stays incomplete (R211). -/
def Slot.seed (s : Slot) : Slot := { s with busy := s.busy.map fun b => (b.1, b.2 + copyPart) }

/-- The slots a push of `n` entries would overwrite are complete (R39). -/
def Level.canPush (lv : Level) (n : Nat) : Bool :=
  (lv.queue.reverse.take n).all fun s => !s.inFlight

/-- A partial push over these slots reads poison (R44): it reads each old slot and merges. -/
def Level.pushReads (lv : Level) (mask : W64) (n : Nat) : Bool :=
  mask != allLanes && (lv.queue.reverse.take n).any Slot.bad

/-- Writes the data of push `part` of operation `id` into its slot. -/
def Slot.land (id part : Nat) (mask : W64) (data : List W32) (s : Slot) : Slot :=
  if s.busy = some (id, part) then ⟨mergeLanes mask data s.data, s.taint, none, s.bad⟩ else s

/-- Lands one result in a level's queue and window. -/
def Level.land (id part : Nat) (mask : W64) (data : List W32) (lv : Level) : Level :=
  { lv with queue := lv.queue.map (Slot.land id part mask data), win := lv.win.map (Slot.land id part mask data) }

/-- A fresh level as CALL opens it (R54): the seeded ages, no window, the caller's masks, fork closed. -/
def Level.callee (lv : Level) (nargs : Nat) (ret : BitVec 52) : Level where
  queue := (lv.queue.take nargs).map Slot.seed ++ List.replicate (lv.depth - nargs) Slot.zero
  win := []
  wopen := false
  masks := lv.masks
  fork := false
  cur := 0
  arms := armsClear
  retpc := ret
  spilled := false

/-! ### Swarms -/

/-- Applies a change to swarm `i`. -/
def State.updSwarm (s : State) (i : Nat) (f : Swarm → Swarm) : State := { s with swarms := s.swarms.modify i f }
/-- Applies a change to colony `i`. -/
def State.updColony (s : State) (i : Nat) (f : Colony → Colony) : State := { s with colonies := s.colonies.modify i f }
/-- Applies a change to field `i`. -/
def State.updField (s : State) (i : Nat) (f : FieldSt → FieldSt) : State := { s with fields := s.fields.modify i f }
/-- Applies a change to die `i`. -/
def State.updDie (s : State) (i : Nat) (f : Die → Die) : State := { s with dies := s.dies.modify i f }
/-- Applies a change to port `i`. -/
def State.updPort (s : State) (i : Nat) (f : Port → Port) : State := { s with ports := s.ports.modify i f }
/-- Applies a change to one core. -/
def State.updCore (s : State) (k : Nat × Nat × Nat) (f : CoreSt → CoreSt) : State :=
  s.updDie k.1 fun d => { d with clusters := d.clusters.modify k.2.1 fun c => { c with cores := c.cores.modify k.2.2 f } }
/-- One core. -/
def State.core (s : State) (k : Nat × Nat × Nat) : CoreSt :=
  match s.dies[k.1]? with
  | none => CoreSt.reset
  | some d =>
    match d.clusters[k.2.1]? with
    | none => CoreSt.reset
    | some c => c.cores.getD k.2.2 CoreSt.reset

/-- Index of the context with a handle. -/
def State.ctxIdx (s : State) (h : Nat) : Option Nat := s.ctxs.findIdx? fun c => c.handle == h && c.live
/-- The live context with a handle. -/
def State.ctx? (s : State) (h : Nat) : Option Ctx := s.ctxs.find? fun c => c.handle == h && c.live
/-- Applies a change to the context with a handle. -/
def State.updCtx (s : State) (h : Nat) (f : Ctx → Ctx) : State :=
  { s with ctxs := s.ctxs.map fun c => if c.handle == h && c.live then f c else c }

/-- The call depth (R60). -/
def Swarm.depth (w : Swarm) : Nat := w.under.length + 1
/-- A scalar register as it stands; out of range reads 0. -/
def Swarm.sget (w : Swarm) (n : Nat) : W64 := w.scalars.getD n 0
/-- Writes a scalar register; the whole word is written, so its poison goes (R219). -/
def Swarm.sset (w : Swarm) (n : Nat) (v : W64) : Swarm :=
  { w with scalars := w.scalars.set n v, badScalars := w.badScalars.filter (· != n) }
/-- A flag counter. -/
def Swarm.flag (w : Swarm) (n : Nat) : Nat := w.flags.getD n 0

/-- Scalars an operation in flight still owes (R212). -/
def OpBody.owed : OpBody → List Nat
  | .result _ sc _ _ => sc.map Prod.fst
  | .cload _ _ d => [d]
  | .taskPush _ _ _ d => [d]
  | .taskPop _ d => [d, d + 1, d + 2]
  | _ => []

/-- An operation whose vector result or mask write is still to land (R57, R333). -/
def OpBody.owesVector : OpBody → Bool
  | .result v _ km _ => !v.isEmpty || km.isSome
  | .load .. | .atom .. | .atom2 .. | .mrd .. => true
  | _ => false

/-- A producer of scalar `n` has not completed (R38, R203). -/
def Swarm.sBusy (w : Swarm) (n : Nat) : Bool := w.ops.any fun o => o.body.owed.contains n

/-- No vector result is in flight to the current level (R57). -/
def Swarm.drained (w : Swarm) : Bool := w.ops.all fun o => !o.body.owesVector

/-- No scalar write is owed (R212). -/
def Swarm.scalarsLanded (w : Swarm) : Bool := w.ops.all fun o => o.body.owed.isEmpty

/-! ### Flags (R201, R212) -/

/-- Counts a flag up. -/
def Swarm.incFlag (w : Swarm) (f : Option (Fin 12)) : Swarm :=
  match f with
  | none => w
  | some n => { w with flags := w.flags.modify n.val (· + 1) }

/-- Ends an operation: its flag counts down, in the set-aside copy when it was issued before the trap; an issue check sees
that from the next clock on (R201): `fell` lists the flags until then, those of the set-aside copy with 12 added. -/
def Swarm.endOp (w : Swarm) (o : Op) : Swarm :=
  let w := { w with ops := w.ops.filter fun p => p.id != o.id }
  match o.flag with
  | none => w
  | some n =>
    if o.aside then
      { w with trap := { w.trap with flags := w.trap.flags.modify n.val (· - 1) }, fell := (n.val + 12) :: w.fell }
    else { w with flags := w.flags.modify n.val (· - 1), fell := n.val :: w.fell }

/-! ### Traps -/

/-- A trap about to be taken (Table 14.1): code, cause, lowest lane, mask, INFO; `pc` and `deferred` for a report. -/
structure Trap where
  code : Nat
  cause : Nat
  lane : Nat
  mask : W64
  info : W64
  pc : Option (BitVec 52)
  deferred : Bool
deriving DecidableEq, Repr

/-- A precise trap that names no lane. -/
def Trap.plain (code cause : Nat) (info : Nat) : Trap := ⟨code, cause, 0, 0, BitVec.ofNat 64 info, none, false⟩
/-- No trap: an instruction's operands deliver an uncorrectable error, which its colony consumes (R44, R219). -/
def Trap.ecc : Trap := .plain 0x100 0 0
/-- ILLOP with a cause of Table 20.10. -/
def Trap.illop (cause : Nat) : Trap := .plain 1 cause 0
/-- A precise trap that names lanes and an address. -/
def Trap.lanes (code cause : Nat) (m : W64) (info : Nat) : Trap :=
  ⟨code, cause, lowLane m, m, BitVec.ofNat 64 info, none, false⟩

/-- TREC0 (Table 14.3). -/
def Trap.rec0 (t : Trap) : W64 :=
  BitVec.ofNat 8 t.code ++ BitVec.ofNat 8 t.cause ++ (0 : BitVec 8) ++ BitVec.ofNat 6 t.lane ++ BitVec.ofBool t.deferred
    ++ (0 : BitVec 33)

/-- The colonies of a context. -/
def State.inCtx (s : State) (h : Nat) (c : Colony) : Bool :=
  match s.fields[c.field]? with
  | none => false
  | some f => f.ctx == h

/-- A colony as a fault of context `h` leaves it (R215): stopped, its reservations released. -/
def State.stopCol (s : State) (h : Nat) (c : Colony) : Colony :=
  if s.inCtx h c && c.status != .retired then { c with status := .stopped, resv := none, lentResv := [], stop := none } else c

/-- The context has taken no fault yet. -/
def State.sound (s : State) (h : Nat) : Bool :=
  match s.ctx? h with
  | none => false
  | some c => c.fault.isNone

/-- A context fault (R215): every colony of the context stops, reservations are released, and firmware reports the cause and
the state of the swarm concerned, when there is one. A context keeps its first fault. -/
def faultOf (sw : Option Nat) (h cause : Nat) (s : State) : State :=
  { s with
    colonies := s.colonies.map (s.stopCol h)
    out := if s.sound h then s.out ++ [Msg.report h cause (sw.bind fun i => s.swarms[i]?)] else s.out }.updCtx h fun c =>
      if c.fault.isNone then { c with fault := some cause } else c

/-- A context fault that concerns no swarm. -/
def contextFault (h cause : Nat) (s : State) : State := faultOf none h cause s

/-- The context handle of a swarm. -/
def State.ctxOf (s : State) (i : Nat) : Nat :=
  match s.swarms[i]? with
  | none => 0
  | some w =>
    match s.colonies[w.colony]? with
    | none => 0
    | some c =>
      match s.fields[c.field]? with
      | none => 0
      | some f => f.ctx

/-- A context fault that swarm `i` meets (R215). -/
def swarmFault (i cause : Nat) (s : State) : State := faultOf (some i) (s.ctxOf i) cause s

end Sys2Proof.Machine
end

