-- ==== Sys2Proof/Machine/Fp.lean ====
section
/-! DEFINITION. Floating point (spec 04): the formats of Tables 4.1-4.3, exact values as integers times powers of two,
rounding onto the extended grid (R69), IEEE arithmetic (R64, R324, R325), comparisons, the special functions of
Table 22.3 with their bounds (R336), and the conversions of R69-R73. -/

namespace Sys2Proof.Machine

/-- A format: trailing bits `t`, bias, largest finite magnitude code, code of infinity if it has one, NaN code, and the
position of the sign bit (none when unsigned). `ieee` formats take every code above infinity as NaN. -/
structure FFmt where
  t : Nat
  bias : Nat
  maxCode : Nat
  inf : Option Nat
  nan : Nat
  sign : Option Nat
  ieee : Bool
deriving DecidableEq, Repr

/-- Table 4.1. -/
def fmtF32 : FFmt := ⟨23, 127, 0x7F7FFFFF, some 0x7F800000, 0x7FC00000, some 31, true⟩
/-- Table 4.1. -/
def fmtF16 : FFmt := ⟨10, 15, 0x7BFF, some 0x7C00, 0x7E00, some 15, true⟩
/-- Table 4.1. -/
def fmtBf16 : FFmt := ⟨7, 127, 0x7F7F, some 0x7F80, 0x7FC0, some 15, true⟩

/-- R65, R66: binary8 of precision `p`. -/
def fmtB8 (inf uns : Bool) (p : Nat) : FFmt :=
  if uns then ⟨p - 1, 2 ^ (8 - p), if inf then 0xFD else 0xFE, if inf then some 0xFE else none, 0xFF, none, false⟩
  else ⟨p - 1, 2 ^ (7 - p), if inf then 0x7E else 0x7F, if inf then some 0x7F else none, 0x80, some 7, false⟩

/-- A value: NaN, an infinity, or (−1)^neg × m × 2^e. -/
inductive FV
  | nan
  | inf (neg : Bool)
  | fin (neg : Bool) (m : Nat) (e : Int)
deriving DecidableEq, Repr

/-- Sign and magnitude of a code. -/
def FFmt.split (f : FFmt) (c : Nat) : Bool × Nat :=
  match f.sign with
  | none => (false, c)
  | some b => (c.testBit b, c % 2 ^ b)

/-- The value of a code (R63, R65, R66). -/
def FFmt.decode (f : FFmt) (c : Nat) : FV :=
  let (neg, mag) := f.split c
  if !f.ieee && c = f.nan then .nan
  else if f.inf = some mag then .inf neg
  else if f.ieee && mag > f.maxCode then .nan
  else
    let ex := mag / 2 ^ f.t
    if ex = 0 then .fin neg (mag % 2 ^ f.t) (1 - (f.bias : Int) - f.t)
    else .fin neg (2 ^ f.t + mag % 2 ^ f.t) ((ex : Int) - f.bias - f.t)

/-- A code of a sign and a magnitude. -/
def FFmt.withSign (f : FFmt) (neg : Bool) (mag : Nat) : Nat :=
  match f.sign with
  | none => mag
  | some b => mag + neg.toNat * 2 ^ b

/-- floor(log2) of a positive number. -/
def flog2 (m : Nat) : Int := (Nat.log2 m : Nat)

/-- Magnitude code, on the extended grid, of m × 2^q with q a grid exponent (R69). -/
def FFmt.gridCode (f : FFmt) (m : Nat) (q : Int) : Nat :=
  let m' := if m ≥ 2 ^ (f.t + 1) then m / 2 else m
  let q' := if m ≥ 2 ^ (f.t + 1) then q + 1 else q
  if m' < 2 ^ f.t then m' else (q' + f.bias + f.t).toNat * 2 ^ f.t + (m' - 2 ^ f.t)

/-- Rounds the positive m × 2^e (plus a sticky fraction below) onto the extended grid under a rounding mode; the answer is
a magnitude code, which may lie beyond the largest finite one (R69). -/
def FFmt.roundMag (f : FFmt) (rm : RM) (neg : Bool) (m : Nat) (e : Int) (sticky : Bool) : Nat :=
  if m = 0 then 0
  else
    let q := max (1 - (f.bias : Int) - f.t) (flog2 m + e - f.t)
    if q ≤ e then f.gridCode (m * 2 ^ (e - q).toNat) q
    else
      let d := (q - e).toNat
      let lo := m / 2 ^ d
      let rem := m % 2 ^ d
      let half := 2 ^ (d - 1)
      let inexact := rem != 0 || sticky
      let above := rem > half || (rem = half && sticky)
      let tie := rem = half && !sticky
      let lowOdd := (f.gridCode lo q) % 2 = 1
      let up := match rm with
        | .rne => above || (tie && lowOdd)
        | .rtz => false
        | .rdn => neg && inexact
        | .rup => !neg && inexact
      f.gridCode (if up then lo + 1 else lo) q

/-- IEEE overflow by direction (R64, R325). -/
def FFmt.overflow (f : FFmt) (rm : RM) (neg : Bool) : Nat :=
  let toInf := match rm with
    | .rne => true
    | .rtz => false
    | .rdn => neg
    | .rup => !neg
  if toInf then f.withSign neg (f.inf.getD f.maxCode) else f.withSign neg f.maxCode

/-- Rounds a value into an IEEE format (R64, R325). -/
def FFmt.round (f : FFmt) (rm : RM) : FV → Nat
  | .nan => f.nan
  | .inf neg => f.withSign neg (f.inf.getD f.maxCode)
  | .fin neg m e =>
    let c := f.roundMag rm neg m e false
    if c > f.maxCode then f.overflow rm neg else f.withSign neg c

/-- Sign and magnitude of z × 2^e; `zneg` is the sign of an exact zero. -/
def FV.ofInt (z : Int) (e : Int) (zneg : Bool) : FV := if z = 0 then .fin zneg 0 e else .fin (z < 0) z.natAbs e

/-- The signed integer of a finite value scaled to exponent `e0` ≤ e. -/
def scaled (neg : Bool) (m : Nat) (e e0 : Int) : Int :=
  let v : Int := (m * 2 ^ (e - e0).toNat : Nat)
  if neg then -v else v

/-- Exact sum; an exact zero of operands of opposite sign is −0 only under RDN (R325). -/
def FV.add (rm : RM) : FV → FV → FV
  | .nan, _ | _, .nan => .nan
  | .inf a, .inf b => if a = b then .inf a else .nan
  | .inf a, _ => .inf a
  | _, .inf b => .inf b
  | .fin n1 m1 e1, .fin n2 m2 e2 =>
    let e := min e1 e2
    let zneg := if n1 = n2 then n1 else rm = .rdn
    .ofInt (scaled n1 m1 e1 e + scaled n2 m2 e2 e) e zneg

/-- Negation. -/
def FV.neg : FV → FV
  | .nan => .nan
  | .inf a => .inf !a
  | .fin a m e => .fin (!a) m e

/-- Exact product. -/
def FV.mul : FV → FV → FV
  | .nan, _ | _, .nan => .nan
  | .inf a, .inf b => .inf (a != b)
  | .inf a, .fin b m _ => if m = 0 then .nan else .inf (a != b)
  | .fin a m _, .inf b => if m = 0 then .nan else .inf (a != b)
  | .fin a m1 e1, .fin b m2 e2 => .fin (a != b) (m1 * m2) (e1 + e2)

/-- Comparison of two values that are not NaN: x < y as numbers. -/
def FV.lt : FV → FV → Bool
  | .inf a, .inf b => a && !b
  | .inf a, _ => a
  | _, .inf b => !b
  | .fin n1 m1 e1, .fin n2 m2 e2 =>
    let e := min e1 e2
    scaled n1 m1 e1 e < scaled n2 m2 e2 e
  | _, _ => false

/-- Equality as numbers; −0 equals +0, NaN equals nothing. -/
def FV.numEq : FV → FV → Bool
  | .nan, _ | _, .nan => false
  | x, y => !x.lt y && !y.lt x

/-- Is it a NaN? -/
def FV.isNan : FV → Bool
  | .nan => true
  | _ => false

/-- Is it a zero? -/
def FV.isZero : FV → Bool
  | .fin _ 0 _ => true
  | _ => false

/-! ### Elements of the vector types -/

/-- Format of a vector float type. -/
def fpFmt : FpT → FFmt
  | .f32 => fmtF32
  | .f16x2 => fmtF16
  | .bf16x2 => fmtBf16

/-- Applies an operation on codes to an f32 element or to both halves of a packed one (R63, R324). -/
def perHalf (t : FpT) (f : FFmt → Nat → Nat → Nat → Nat) (x y z : W32) : W32 :=
  match t with
  | .f32 => BitVec.ofNat 32 (f fmtF32 x.toNat y.toNat z.toNat)
  | .f16x2 | .bf16x2 =>
    let g := fpFmt t
    let h := fun (k : Nat) (v : W32) => v.toNat / 2 ^ (16 * k) % 2 ^ 16
    BitVec.ofNat 32 (f g (h 0 x) (h 0 y) (h 0 z) % 2 ^ 16 + f g (h 1 x) (h 1 y) (h 1 z) % 2 ^ 16 * 2 ^ 16)

/-- FADD on one code (R324). -/
def fAddCode (rm : RM) (f : FFmt) (x y _z : Nat) : Nat := f.round rm (FV.add rm (f.decode x) (f.decode y))
/-- FSUB. -/
def fSubCode (rm : RM) (f : FFmt) (x y _z : Nat) : Nat := f.round rm (FV.add rm (f.decode x) (f.decode y).neg)
/-- FMUL. -/
def fMulCode (rm : RM) (f : FFmt) (x y _z : Nat) : Nat := f.round rm (FV.mul (f.decode x) (f.decode y))
/-- FFMA: one rounding of x × y + z. -/
def fMaCode (rm : RM) (f : FFmt) (x y z : Nat) : Nat :=
  f.round rm (FV.add rm (FV.mul (f.decode x) (f.decode y)) (f.decode z))

/-- FMIN and FMAX (R325): NaN gives way, −0 below +0, an operand unchanged. -/
def fMinMaxCode (isMax : Bool) (f : FFmt) (x y _z : Nat) : Nat :=
  let a := f.decode x
  let b := f.decode y
  if a.isNan && b.isNan then f.nan
  else if a.isNan then y
  else if b.isNan then x
  else
    let aLess := a.lt b || (!b.lt a && (f.split x).1 && !(f.split y).1)
    if isMax then (if aLess then y else x) else if aLess then x else y

/-- f32 addition to nearest even. -/
def addF32 (a b : W32) : W32 := BitVec.ofNat 32 (fAddCode .rne fmtF32 a.toNat b.toNat 0)

/-! ### Special functions (R336) -/

/-- floor of the square root, one bit a step from bit `k` down. -/
def isqrtFrom (n : Nat) : Nat → Nat → Nat
  | 0, r => r
  | k + 1, r =>
    let r' := r + 2 ^ k
    isqrtFrom n k (if r' * r' ≤ n then r' else r)

/-- floor of the square root. -/
def isqrt (n : Nat) : Nat := isqrtFrom n (Nat.log2 n / 2 + 1) 0

/-- Fraction bits of the fixed-point helpers. -/
def fxBits : Nat := 96
/-- 1.0 in fixed point. -/
def fxOne : Nat := 2 ^ fxBits
/-- π in fixed point. -/
def fxPi : Nat := 248902613312231085230521944622
/-- ln 2 in fixed point. -/
def fxLn2 : Nat := 54916777467707473351141471128

/-- exp of y in [0, 1): Taylor, `n` more terms after term `term` of index k. -/
def fxExp (y : Nat) : Nat → Nat → Nat → Nat
  | 0, _, _ => 0
  | n + 1, k, term => term + fxExp y n (k + 1) (term * y / fxOne / (k + 1))

/-- sin or cos of y in [0, π/2]: alternating Taylor terms, returned as (sum of + terms, sum of − terms). -/
def fxTrig (y2 : Nat) : Nat → Nat → Nat → Nat × Nat
  | 0, _, _ => (0, 0)
  | n + 1, k, term =>
    let (p, m) := fxTrig y2 n (k + 2) (term * y2 / fxOne / ((k + 1) * (k + 2)))
    (term + m, p)

/-- atanh series of z ≤ 1/3: z + z³/3 + …. -/
def fxAtanh (z2 : Nat) : Nat → Nat → Nat → Nat
  | 0, _, _ => 0
  | n + 1, k, pw => pw / k + fxAtanh z2 n (k + 2) (pw * z2 / fxOne)

/-- A close approximation of the exact result, as (negative, m, e); none where an exact value of Table 22.3 holds. -/
structure Approx where
  neg : Bool
  m : Nat
  e : Int
deriving DecidableEq, Repr

/-- 2^x for x = ±m·2^e with |x| < 256: the integer below x, which is the binade, and a fixed-point fraction. -/
def approxExp2 (neg : Bool) (m : Nat) (e : Int) : Approx :=
  let v : Int := if neg then -(m : Int) else m
  let x := if e + fxBits ≥ 0 then v * 2 ^ (e + fxBits).toNat else v / 2 ^ (-(e + fxBits)).toNat
  let n := x / (fxOne : Int)
  let f := (x - n * fxOne).toNat
  ⟨false, fxExp (f * fxLn2 / fxOne) 40 0 fxOne, n - fxBits⟩

/-- log2 of a positive m·2^e. -/
def approxLog2 (m : Nat) (e : Int) : Approx :=
  let k := Nat.log2 m
  let ex : Int := e + k
  let v := m * 2 ^ (fxBits - k)
  let z := (v - fxOne) * fxOne / (v + fxOne)
  let l := 2 * fxAtanh (z * z / fxOne) 60 1 z * fxOne / fxLn2
  let r : Int := ex * fxOne + (l : Int)
  ⟨r < 0, r.natAbs, -(fxBits : Int)⟩

/-- sin(πf) for f = m·2^e in (0, 1/2), which lies below 1; a tiny f is answered by πf. -/
def approxSin (m : Nat) (e : Int) : Approx :=
  if flog2 m + e < -30 then ⟨false, m * fxPi, e - fxBits⟩
  else
    let f := if e + fxBits ≥ 0 then m * 2 ^ (e + fxBits).toNat else m / 2 ^ (-(e + fxBits)).toNat
    let y := f * fxPi / fxOne
    let (p, q) := fxTrig (y * y / fxOne) 24 1 y
    ⟨false, min (p - q) (fxOne - 1), -(fxBits : Int)⟩

/-- tanh of m·2^e > 0: a small x is answered by x - x³/3 + 2x⁵/15, which lies below x, a large one by 1 less a little. -/
def approxTanh (m : Nat) (e : Int) : Approx :=
  if flog2 m + e < -10 then
    let d := (-e).toNat
    ⟨false, m * (15 * 2 ^ (4 * d) + 2 * m ^ 4 - 5 * m ^ 2 * 2 ^ (2 * d)) * 2 ^ 64 / 15, e - 4 * d - 64⟩
  else if flog2 m + e ≥ 5 then ⟨false, fxOne - 1, -(fxBits : Int)⟩
  else
    let x := if e + fxBits ≥ 0 then m * 2 ^ (e + fxBits).toNat else m / 2 ^ (-(e + fxBits)).toNat
    let y := 2 * x * fxOne / fxLn2
    let n := y / fxOne
    let ex := fxExp (y % fxOne * fxLn2 / fxOne) 40 0 fxOne * 2 ^ n
    ⟨false, (ex - fxOne) * fxOne / (ex + fxOne), -(fxBits : Int)⟩

/-- The reduction of x = m·2^e to units of 1/2 turn: x mod 2 as (floor of 2x mod 4, remainder numerator, exponent). -/
def reduceHalf (m : Nat) (e : Int) : Nat × Nat × Int :=
  if e ≥ 1 then (0, 0, 0)
  else
    let d := (-e).toNat
    let r := m % 2 ^ (d + 1)
    let q := 2 * r / 2 ^ d
    (q, r - q * 2 ^ d / 2, e)

/-- sinpi of a positive magnitude: the quadrant decides sign and reflection. -/
def approxSinpi (m : Nat) (e : Int) : Approx :=
  let (q, r, e') := reduceHalf m e
  let half : Nat := 2 ^ (-e').toNat
  let r' := if q % 2 = 0 then r else (half - 2 * r) / 2
  { approxSin r' e' with neg := q ≥ 2 }

/-- cospi of a positive magnitude: sinpi half a unit further on. -/
def approxCospi (m : Nat) (e : Int) : Approx :=
  let (q, r, e') := reduceHalf m e
  let half : Nat := 2 ^ (-e').toNat
  let r' := if q % 2 = 0 then (half - 2 * r) / 2 else r
  { approxSin r' e' with neg := q = 1 || q = 2 }

/-- 1/(m·2^e). -/
def approxRcp (neg : Bool) (m : Nat) (e : Int) : Approx := ⟨neg, 2 ^ (Nat.log2 m + 80) / m, -e - (Nat.log2 m + 80 : Nat)⟩

/-- 1/√(m·2^e). -/
def approxRsqrt (m : Nat) (e : Int) : Approx :=
  let odd := e % 2 != 0
  let m' := if odd then 2 * m else m
  let e' := if odd then e - 1 else e
  ⟨false, isqrt (2 ^ (2 * (Nat.log2 m' + 60)) / m'), -(e' / 2) - (Nat.log2 m' + 60 : Nat)⟩

/-- √(m·2^e) rounded to nearest even. -/
def sqrtCode (m : Nat) (e : Int) : Nat :=
  let sh : Nat := 60 + (if (e - 60) % 2 = 0 then 0 else 1)
  let n : Nat := m * 2 ^ sh
  let r := isqrt n
  fmtF32.roundMag .rne false r ((e - sh) / 2) (r * r != n)

/-- f32 ulp exponent of the exact result's binade (R336): an approximation lies in the binade of what it approximates. -/
def Approx.ulpExp (a : Approx) : Int := max (-149) (flog2 a.m + a.e - 23)

/-- The value of a code lies within `b` units in the last place of the exact result (R336). The approximation errs by less than
2^-30 units, which are taken off the bound, so that no code beyond the exact bound passes (log 8). -/
def Approx.within (a : Approx) (b : Nat) (code : Nat) : Bool :=
  match fmtF32.decode code with
  | .fin n m e =>
    let u := a.ulpExp - 30
    let e0 := min (min e a.e) u
    let d := (scaled n m e e0 - scaled a.neg a.m a.e e0).natAbs
    d ≤ (b * 2 ^ 30 - 1) * 2 ^ (u - e0).toNat
  | _ => false

/-- The answer of a bounded function: the hardware's own value where it keeps the bound, the nearest value otherwise. -/
def bounded (fn : FfnFn) (x : W32) (b : Nat) (a : Approx) : W32 :=
  let raw := Config.ffnRaw fn x
  if a.within b raw.toNat then raw else BitVec.ofNat 32 (fmtF32.round .rne (.fin a.neg a.m a.e))

/-- A finite value is an integer. -/
def isInteger (m : Nat) (e : Int) : Bool := e ≥ 0 || m % 2 ^ (-e).toNat = 0

/-- A power of two. -/
def isPow2 (m : Nat) : Bool := m != 0 && m = 2 ^ Nat.log2 m

/-- A code as an f32 element. -/
def f32Of (n : Nat) : W32 := BitVec.ofNat 32 n
/-- The canonical NaN of f32. -/
def f32Nan : W32 := 0x7FC00000
/-- 1.0. -/
def f32One (neg : Bool) : W32 := if neg then 0xBF800000 else 0x3F800000
/-- A signed zero. -/
def f32Zero (neg : Bool) : W32 := if neg then 0x80000000 else 0
/-- A signed infinity. -/
def f32Inf (neg : Bool) : W32 := if neg then 0xFF800000 else 0x7F800000
/-- An exact dyadic as f32. -/
def f32Exact (neg : Bool) (m : Nat) (e : Int) : W32 := f32Of (fmtF32.round .rne (.fin neg m e))

/-- FFN of one element (Table 22.3): the values fixed exactly, then the bounded ones. -/
def ffnEl (fn : FfnFn) (x : W32) : W32 :=
  match fmtF32.decode x.toNat with
  | .nan => f32Nan
  | .inf neg =>
    match fn with
    | .rcp => f32Zero neg
    | .rsqrt => if neg then f32Nan else f32Zero false
    | .sqrt | .log2 => if neg then f32Nan else f32Inf false
    | .exp2 => if neg then f32Zero false else f32Inf false
    | .sinpi | .cospi => f32Nan
    | .tanh => f32One neg
  | .fin neg m e =>
    if m = 0 then
      match fn with
      | .rcp | .rsqrt => f32Inf neg
      | .sqrt | .sinpi | .tanh => f32Zero neg
      | .exp2 | .cospi => f32One false
      | .log2 => f32Inf true
    else match fn with
      | .rcp => if isPow2 m then f32Exact neg 1 (-(e + Nat.log2 m)) else bounded fn x 1 (approxRcp neg m e)
      | .rsqrt => if neg then f32Nan else bounded fn x 1 (approxRsqrt m e)
      | .sqrt => if neg then f32Nan else f32Of (sqrtCode m e)
      | .exp2 =>
        if !neg && !(FV.lt (.fin neg m e) (.fin false 128 0)) then f32Inf false
        else if FV.lt (.fin neg m e) (.fin true 160 0) then bounded fn x 2 ⟨false, 1, -160⟩
        else if isInteger m e then
          let k : Int := scaled neg m e (min e 0) / 2 ^ (-(min e 0)).toNat
          if k ≥ -149 then f32Exact false 1 k else bounded fn x 2 (approxExp2 neg m e)
        else bounded fn x 2 (approxExp2 neg m e)
      | .log2 =>
        if neg then f32Nan
        else if isPow2 m then
          let k := e + Nat.log2 m
          f32Exact (k < 0) k.natAbs 0
        else bounded fn x 2 (approxLog2 m e)
      | .sinpi =>
        if isInteger m e then f32Zero neg
        else if isInteger m (e + 1) then
          f32One (neg != ((reduceHalf m e).1 ≥ 2))
        else
          let a := approxSinpi m e
          bounded fn x 2 { a with neg := a.neg != neg }
      | .cospi =>
        if isInteger m e then f32One ((reduceHalf m e).1 = 2)
        else if isInteger m (e + 1) then f32Zero false
        else bounded fn x 2 (approxCospi m e)
      | .tanh =>
        let a := approxTanh m e
        bounded fn x 2 { a with neg := neg }

/-! ### Conversions (R69-R73) -/

/-- An integer kind: (signed, bits). -/
def tdInt : TDesc → Option (Bool × Nat)
  | .s8 => some (true, 8)
  | .n8 => some (false, 8)
  | .s16 => some (true, 16)
  | .n16 => some (false, 16)
  | .s32 => some (true, 32)
  | .n32 => some (false, 32)
  | .s64 => some (true, 64)
  | .n64 => some (false, 64)
  | _ => none

/-- The float format of a descriptor. -/
def tdFmt : TDesc → FFmt
  | .f16 => fmtF16
  | .bf16 => fmtBf16
  | .b8 inf uns p => fmtB8 inf uns p.val
  | _ => fmtF32

/-- Bits a descriptor reads or writes. -/
def tdBits : TDesc → Nat
  | .s8 | .n8 | .b8 .. => 8
  | .s16 | .n16 | .f16 | .bf16 => 16
  | .s32 | .n32 | .f32 => 32
  | .s64 | .n64 => 64

/-- The value of the source bits (Table 21.4). -/
def srcValue (d : TDesc) (w : Nat) : FV :=
  let b := w % 2 ^ tdBits d
  match tdInt d with
  | some (true, n) => FV.ofInt (sextNat n b) 0 false
  | some (false, _) => .fin false b 0
  | none => (tdFmt d).decode b

/-- An out-of-range result by policy (Table 4.5); none is CVTOVF. -/
def outOfRange (d : TDesc) (ov : OV) (neg : Bool) : Option Nat :=
  match tdInt d with
  | some (sg, n) =>
    let lo := if sg then 2 ^ (n - 1) else 0
    let hi := if sg then 2 ^ (n - 1) - 1 else 2 ^ n - 1
    match ov with
    | .ovtrap => none
    | .ovnan => some lo
    | _ => some (if neg then lo else hi)
  | none =>
    let f := tdFmt d
    match ov with
    | .ovtrap => none
    | .ovnan => some f.nan
    | .sat => some (if neg && f.sign.isNone then 0 else f.withSign neg f.maxCode)
    | .ovinf => some (if neg && f.sign.isNone then 0 else f.withSign neg (f.inf.getD f.maxCode))

/-- m × 2^e rounded to an integer magnitude under RM (R71); a tie goes to the even integer. -/
def roundInt (rm : RM) (neg : Bool) (m : Nat) (e : Int) : Nat :=
  if e ≥ 0 then m * 2 ^ e.toNat
  else
    let d := (-e).toNat
    let lo := m / 2 ^ d
    let rem := m % 2 ^ d
    let half := 2 ^ (d - 1)
    let up := match rm with
      | .rne => rem > half || (rem = half && lo % 2 = 1)
      | .rtz => false
      | .rdn => neg && rem != 0
      | .rup => !neg && rem != 0
    if up then lo + 1 else lo

/-- The conversion of one value (R69-R71): the destination's bits, or none for CVTOVF. R71 says only that a zero converts to
zero: in f32, f16 and bf16 a -0 keeps its sign here (DESIGN CHOICE, log 62). -/
def convert (d : TDesc) (rm : RM) (ov : OV) (v : FV) : Option Nat :=
  match tdInt d with
  | some (sg, n) =>
    match v with
    | .nan => outOfRange d (if ov = .ovtrap then .ovtrap else .sat) true
    | .inf neg => outOfRange d ov neg
    | .fin neg m e =>
      let z : Int := if neg then -(roundInt rm neg m e : Int) else (roundInt rm neg m e : Int)
      let lo : Int := if sg then -(2 ^ (n - 1) : Nat) else 0
      let hi : Int := if sg then (2 ^ (n - 1) : Nat) - 1 else (2 ^ n : Nat) - 1
      if z < lo then outOfRange d ov true
      else if z > hi then outOfRange d ov false
      else some (z % (2 ^ n : Nat)).toNat
  | none =>
    let f := tdFmt d
    match v with
    | .nan => some f.nan
    | .inf neg =>
      if f.inf.isSome && !(neg && f.sign.isNone) then some (f.withSign neg (f.inf.getD 0)) else outOfRange d ov neg
    | .fin neg m e =>
      if m = 0 then some (if f.ieee then f.withSign neg 0 else 0)
      else
        let c := f.roundMag rm neg m e false
        if c = 0 then some (if f.ieee then f.withSign neg 0 else 0)
        else if neg && f.sign.isNone then outOfRange d ov true
        else if c > f.maxCode then outOfRange d ov neg
        else some (f.withSign neg c)

/-- The bits of a conversion placed in a destination of the descriptor's width (Table 21.4). -/
def placeBits (d : TDesc) (b : Nat) : Nat :=
  match d with
  | .s8 | .s16 | .s32 => (sextNat (tdBits d) b % (2 ^ 32 : Nat)).toNat
  | _ => b % 2 ^ tdBits d

end Sys2Proof.Machine
end

