-- ==== Sys2Proof/Machine/Mem.lean ====
section
/-! DEFINITION. Global memory: home ports (R99), frames and walks (R101-R104, R113), the system region (R245, R248,
R258), L1 lines of bound memory (R105, R120), the directory (R121), the bounce buffer (R111), update-only copies (R167)
and the fault logs (R116). -/

namespace Sys2Proof.Machine

/-- Parity of the low `n` bits. -/
def parityBits : Nat → Nat → Bool
  | 0, _ => false
  | n + 1, v => xor (v.testBit n) (parityBits n v)

/-- The home port of a virtual address (R99). -/
def State.home (s : State) (va : Nat) : Nat :=
  let u := va / 2 ^ 16 % 2 ^ 36
  let b := fun k => (parityBits 36 (u &&& (s.homeHash.getD k 0).toNat)).toNat
  b 0 + 2 * b 1 + 4 * b 2

/-- The backing stack of a port (R102, Table 6.9). -/
def State.backOf (s : State) (p : Nat) : Nat := (s.stackMap.getD p (false, p)).2

/-- Half of a stack: offsets from here up belong to the port it backs (R102). -/
def backHalf : Nat := 0x596800000
/-- Bytes of a stack (Table 6.2). -/
def stackSize : Nat := 0xB2D05E000

/-- What a walk finds; `bad` is an entry with an uncorrectable error (Table 14.5, cause 7). -/
inductive Walk
  | nonres
  | err
  | bad
  | ok (m : MapRec) (leafPa : Nat)
deriving DecidableEq, Repr

/-- A 64 KiB frame keeps R101. Of HBM every frame whose first byte lies in the stack counts, the partial last one too (DESIGN CHOICE,
log 95), and so do a stack's own frames of its upper half while it backs a dead port (DESIGN CHOICE, log 96). -/
def State.frameOk (s : State) (va pa : Nat) : Bool :=
  let h := s.home va
  let off := pa % 2 ^ 36
  match pa / 2 ^ 44 % 4 with
  | 0 => pa / 2 ^ 39 % 32 == 0 && pa / 2 ^ 36 % 8 == s.backOf h && off < stackSize
      && (s.backOf h == h || backHalf ≤ off)
  | 1 => pa / 2 ^ 39 % 32 == 0 && pa / 2 ^ 36 % 8 == h
      && off < (match s.ports[h]? with
        | none => 0
        | some p => p.carve * 2 ^ 25)
  | 3 => true
  | _ => false

/-- Frame of the unit of `va` inside a 2 MiB or 1 GiB page of `size` bytes with frame offset F; none when it breaks
R101. -/
def State.bigFrame (s : State) (va f size : Nat) : Option Nat :=
  let u := va % size / 2 ^ 16
  let h := s.home va
  if f / 2 ^ 44 % 4 = 3 then some (f + u * 2 ^ 16)
  else if f / 2 ^ 36 != 0 || f % (size / 8) != 0 then none
  else if (s.stackMap.any Prod.fst) && f + size / 8 > backHalf then none
  else
    let off := f + u / 8 * 2 ^ 16 + (if s.backOf h == h then 0 else backHalf)
    if off < stackSize then some (s.backOf h * 2 ^ 36 + off) else none

/-- One page-table entry, read directly from memory (R104). -/
def State.pte (s : State) (pa : Nat) : Nat := leNat (memBytes s.mem pa 8)

/-- Poisoned units of 16 bytes that a range touches (R219). -/
def State.poisoned (s : State) (pa n : Nat) : Bool := s.poison.any fun u => u * 16 < pa + n && pa < u * 16 + 16

/-- The leaf's permissions and frame (Table 6.4). -/
def leafRec (asid va e pa : Nat) : MapRec :=
  ⟨if e.testBit 4 then 0xFFFF else asid, va / 2 ^ 16, pa, e.testBit 2, e.testBit 5, e.testBit 3, e.testBit 4,
    e.testBit 7⟩

/-- A leaf entry at a level that maps pages of `size` bytes. -/
def State.leaf (s : State) (asid va e entryPa size : Nat) : Walk :=
  if e / 2 ^ 8 % 2 ^ 8 != 0 then .err
  else
    let f := e / 2 ^ 16 % 2 ^ 30 * 2 ^ 16
    if size = 2 ^ 16 then
      if s.frameOk va f then .ok (leafRec asid va e f) entryPa else .err
    else match s.bigFrame va f size with
      | none => .err
      | some pa => .ok (leafRec asid va e pa) entryPa

/-- The levels of a walk below L0: (low bit of the index, index bits, page size of a leaf). -/
def walkLevels : List (Nat × Nat × Nat) := [(30, 9, 2 ^ 30), (21, 9, 2 ^ 21), (16, 5, 2 ^ 16)]

/-- Walks the remaining levels from a table (R103). -/
def State.walkFrom (s : State) (asid va : Nat) : List (Nat × Nat × Nat) → Nat → Walk
  | [], _ => .err
  | (lo, bits, size) :: r, table =>
    let pa := table + 8 * (va / 2 ^ lo % 2 ^ bits)
    let e := s.pte pa
    if s.poisoned pa 8 then .bad
    else if e % 2 = 0 then .nonres
    else if e / 2 ^ 46 != 0 then .err
    else if e.testBit 1 then (if r.isEmpty then .err else s.walkFrom asid va r (e / 2 ^ 8 % 2 ^ 38 * 2 ^ 8))
    else s.leaf asid va e pa size

/-- The walk of an address from a context's root (R103). -/
def State.walk (s : State) (asid root va : Nat) : Walk :=
  let pa := root + 8 * (va / 2 ^ 39 % 2 ^ 13)
  let e := s.pte pa
  if s.poisoned pa 8 then .bad
  else if e % 2 = 0 then .nonres
  else if e / 2 ^ 46 != 0 || !e.testBit 1 then .err
  else s.walkFrom asid va walkLevels (e / 2 ^ 8 % 2 ^ 38 * 2 ^ 8)

/-- Base of the self window (R248). -/
def selfBase : Nat := 0x3FFF00000000
/-- Queue SRAM inside the self window. -/
def sramBase : Nat := 0x3FFF10000000

/-- The fixed translation of ASID 0 (R248). -/
def sramWalk (va : Nat) : Walk :=
  if 0xFC0000000 ≤ va && va < 0xFC0100000 then
    .ok ⟨0, va / 2 ^ 16, sramBase + (va / 2 ^ 16 * 2 ^ 16 - 0xFC0000000), true, true, false, false, true⟩ 0
  else .err

/-- The live context of an ASID. -/
def State.ctxOfAsid (s : State) (asid : Nat) : Option Ctx := s.ctxs.find? fun c => c.asid == asid && c.live

/-- Table 16.3. -/
def lkOff : Nat := 0
/-- Table 16.3. -/
def lkWaking : Nat := 1
/-- Table 16.3. -/
def lkActive : Nat := 2
/-- Table 16.3. -/
def lkSilent : Nat := 3
/-- Table 16.3. -/
def lkDead : Nat := 4

/-- Socket of the I/O die. -/
def ioSock : Nat := 20

/-- Link port of a socket: 0-11, or 20 for the I/O die. -/
def State.link? (s : State) (sock : Nat) : Option Link := if sock = ioSock then some s.ioLink else s.links[sock]?

/-- Socket of a home port's link. -/
def State.homeSock (s : State) (va : Nat) : Nat := 4 + s.home va

/-- The router answers a request for a socket itself, "absent" or "dead" (Table 16.3): nothing can be reached there, and the access ends
as at a walk error (DESIGN CHOICE, log 91). -/
def State.answered (s : State) (sock : Nat) : Bool :=
  match s.link? sock with
  | none => false
  | some l => l.state == lkOff || l.state == lkDead

/-- The frame of a translation can be reached: one of the system region stands behind the I/O die. -/
def State.reaches (s : State) (m : MapRec) : Bool := m.pa / 2 ^ 44 != 3 || !s.answered ioSock

/-- The walk in the address space of a context. -/
def State.walkCtx (s : State) (asid va : Nat) : Walk :=
  match s.ctxOfAsid asid with
    | none => .err
    | some c =>
      -- the self-window page that CTXCREATE maps (R248)
      if va / 2 ^ 16 = c.selfVa / 2 ^ 16 then
        .ok ⟨asid, va / 2 ^ 16, selfBase, true, true, false, false, true⟩ 0
      else s.walk asid c.root va

/-- The walk of any address space, as far as its frame can be reached. -/
def State.walkAny (s : State) (asid va : Nat) : Walk :=
  if asid = 0 then (if s.answered ioSock then .err else sramWalk va)
  else if s.answered (s.homeSock va) then .err
  else match s.walkCtx asid va with
    | .ok m leafPa => if s.reaches m then .ok m leafPa else .err
    | w => w

/-- A translation a port holds (R104, R105); ASID 0 has its fixed one alone (R248). -/
def State.heldMap (s : State) (asid va : Nat) : Option MapRec :=
  match if asid = 0 || s.answered (s.homeSock va) then none else s.ports[s.home va]? with
  | none => none
  | some p => (p.maps.find? fun m => (m.asid == asid || m.asid == 0xFFFF) && m.unit == va / 2 ^ 16).filter s.reaches

/-- The translation of an address, held or walked. -/
def State.mapOf (s : State) (asid va : Nat) : Option MapRec :=
  match s.heldMap asid va with
  | some m => some m
  | none =>
    match s.walkAny asid va with
    | .ok m _ => some m
    | _ => none

/-- Tag under which an address is logged: 0xFFFF for a G page (Table 6.6). -/
def State.tagOf (s : State) (asid va : Nat) : Nat :=
  match s.mapOf asid va with
  | none => asid
  | some m => m.asid

/-- The address space maps the address by this frame, with G = 1. -/
def State.sharesG (s : State) (asid va pa : Nat) : Bool :=
  match s.walkAny asid va with
  | .ok m _ => m.g && m.pa == pa
  | _ => false

/-- An entry belongs to the page of an address space at `va`: it came from that space, or both map one G page (R106). -/
def State.ofPage (s : State) (asid va : Nat) (b : Bounce) : Bool :=
  b.unit == va / 2 ^ 16 && (b.asid == asid || (match s.walkAny asid va with
    | .ok m _ => m.g && s.sharesG b.asid va m.pa
    | _ => false))

/-- Bounce entries of a page that no DRAIN has applied (R112); the fixed translation of ASID 0 has none (R248). -/
def State.bounced (s : State) (asid va : Nat) : Bool :=
  asid != 0 && (match s.ports[s.home va]? with
    | none => false
    | some p => p.bounce.any (s.ofPage asid va))

/-- What an access's translation gives. -/
inductive Tr
  | nonres
  | err
  /-- Held until DRAIN (R112). -/
  | held
  | ok (m : MapRec)
deriving DecidableEq, Repr

/-- Sets bits of a page-table entry, as the walker does (R104). -/
def State.setPte (s : State) (pa bits : Nat) : State :=
  { s with mem := memPutBytes s.mem pa (leBytes 8 (s.pte pa ||| bits)) }

/-- Keeps a translation at its home. -/
def State.keepMap (s : State) (va : Nat) (m : MapRec) : State :=
  s.updPort (s.home va) fun p =>
    { p with maps := m :: p.maps.filter fun x => !(x.asid == m.asid && x.unit == m.unit) }

/-- Translates at the home (R104): a held translation, or a walk that sets A, and D on a fill for a write. An uncorrectable
error of the walk is the context's fault, of cause 7; its access then finds nothing (DESIGN CHOICE, log 63). -/
def State.translate (s : State) (asid va : Nat) (write : Bool) : State × Tr :=
  match s.heldMap asid va with
  | some m =>
    if write && m.w && !m.dset then
      match s.walkAny asid va with
      | .ok _ leafPa => ((s.setPte leafPa 0xC0).keepMap va { m with dset := true }, .ok m)
      | _ => (s, .ok m)
    else (s, .ok m)
  | none =>
    match s.walkAny asid va with
    | .nonres => (s, .nonres)
    | .err => (s, .err)
    | .bad => (match s.ctxOfAsid asid with
      | none => s
      | some c => contextFault c.handle 7 s, .nonres)
    | .ok m leafPa =>
      if s.bounced asid va then (s, .held)
      else if asid = 0 || m.pa = selfBase then (s, .ok m)
      else
        let d := write && m.w
        ((s.setPte leafPa (if d then 0xC0 else 0x40)).keepMap va { m with dset := m.dset || d }, .ok m)

/-- Physical address of an access inside its mapped unit. -/
def MapRec.paOf (m : MapRec) (va : Nat) : Nat := m.pa + va % 2 ^ 16

/-! ### Update-only copies (R167) -/

/-- Removes the element at an index. -/
def dropAt {α : Type} : List α → Nat → List α
  | [], _ => []
  | _ :: r, 0 => r
  | x :: r, n + 1 => x :: dropAt r n

/-! ### Logs -/

/-- Writes an entry into a port's fault log, a ring of 4,096 (R116). -/
def State.logPort (s : State) (p : Nat) (va asid kind cause : Nat) (who : Who) : State :=
  s.updPort p fun q =>
    let e : FaultLog := ⟨va, asid, kind, cause, who, q.refCycle⟩
    if q.flog.length < 4096 then { q with flog := q.flog ++ [e] }
    else { q with flog := q.flog.tail ++ [e], flogOver := q.flogOver + 1 }

/-- Writes an entry into the I/O die's fault log (R116). -/
def State.logIo (s : State) (va asid kind cause : Nat) (who : Who) : State :=
  let e : FaultLog := ⟨va, asid, kind, cause, who, s.ioCycle⟩
  if s.ioFlog.length < 4096 then { s with ioFlog := s.ioFlog ++ [e] }
  else { s with ioFlog := s.ioFlog.tail ++ [e], ioFlogOver := s.ioFlogOver + 1 }

/-- Writes an entry into the queue log, a ring of 4,096 (R247, R248). -/
def State.logQueue (s : State) (kind qid : Nat) (v : W64) : State :=
  if s.qlog.length < 4096 then { s with qlog := s.qlog ++ [⟨kind, qid, v⟩] }
  else { s with qlog := s.qlog.tail ++ [⟨kind, qid, v⟩], qlogOver := s.qlogOver + 1 }

/-- An access attributed to nobody. -/
def Who.none : Who := ⟨0, 0, 0, 0⟩

/-! ### The system region -/

/-- BOOTSTAT as the host reads it (Table 17.7). -/
def State.bootstat (s : State) : Nat :=
  s.stkDead.toNat * 2 ^ 16 + s.dieDead.toNat * 2 ^ 12 + s.portDead.toNat * 2 ^ 3 + s.stage

/-- A doorbell register as it reads (Table 17.1). -/
def Queue.doorbell (q : Queue) : Nat := q.chead * 2 ^ 32 + q.head * 2 ^ 16 + q.tail

/-- A physical address in the fabric windows of the peers (R258, R259). -/
def isPeerPa (pa : Nat) : Bool := pa / 2 ^ 43 == 7 && pa / 2 ^ 32 % 2 ^ 11 != 0x7FF
/-- A physical address in the self window, outside the queue SRAM (R248). -/
def isSelfReg (pa : Nat) : Bool := selfBase ≤ pa && pa < selfBase + 0x10000

/-- Reads bytes of a self-window register page (R248): BOOTSTAT at 0, doorbells from 0x1000. -/
def State.selfByte (s : State) (o : Nat) : Byte :=
  if o < 8 then BitVec.ofNat 8 (s.bootstat / 2 ^ (8 * o))
  else if 0x1000 ≤ o && o < 0x3000 then
    match s.queues.find? fun q => q.qid == (o - 0x1000) / 8 with
    | none => 0
    | some q => BitVec.ofNat 8 (q.doorbell / 2 ^ (8 * (o % 8)))
  else 0

/-- The page-table entries of a table of `n` that memory lists: (index, entry). -/
def State.tableEntries (s : State) (table n : Nat) : List (Nat × Nat) :=
  ((s.mem.filter fun c => table ≤ c.1 && c.1 < table + 8 * n).foldl (fun acc c => insNat ((c.1 - table) / 8) acc) []).map
    fun k => (k, s.pte (table + 8 * k))

/-- The units of a leaf of `size` bytes at `va` that lie in the frame of `pa`. -/
def State.leafUnits (s : State) (asid va e size pa : Nat) : List MapRec :=
  let f := e / 2 ^ 16 % 2 ^ 30 * 2 ^ 16
  let near := (List.range 8).map fun k => (pa % 2 ^ 36 + 2 ^ 36 - f % 2 ^ 36) % 2 ^ 36 % backHalf / 2 ^ 16 * 8 + k
  let us := if size = 2 ^ 16 then [0] else if f / 2 ^ 44 % 4 = 3 then [(pa - f) / 2 ^ 16] else near
  (us.filter fun u => u * 2 ^ 16 < size).filterMap fun u =>
    match s.leaf asid (va + u * 2 ^ 16) e 0 size with
    | .ok m _ => if m.pa / 2 ^ 16 = pa / 2 ^ 16 then some m else none
    | _ => none

/-- The translations of a table and those below it that lead to the frame of `pa`. -/
def State.mapsBelow (s : State) (asid pa : Nat) : List (Nat × Nat × Nat) → Nat → Nat → List MapRec
  | [], _, _ => []
  | (lo, bits, size) :: r, va, table =>
    (s.tableEntries table (2 ^ bits)).flatMap fun x =>
      let va1 := va + x.1 * 2 ^ lo
      if x.2 % 2 = 0 || x.2 / 2 ^ 46 != 0 then []
      else if x.2.testBit 1 then s.mapsBelow asid pa r va1 (x.2 / 2 ^ 8 % 2 ^ 38 * 2 ^ 8)
      else s.leafUnits asid va1 x.2 size pa

/-- The translations to the frame of `pa` that the page tables of a context hold. -/
def State.tableMaps (s : State) (pa : Nat) (c : Ctx) : List MapRec :=
  (s.tableEntries c.root (2 ^ 13)).flatMap fun x =>
    if x.2 % 2 = 0 || x.2 / 2 ^ 46 != 0 || !x.2.testBit 1 then []
    else s.mapsBelow c.asid pa walkLevels (x.1 * 2 ^ 39) (x.2 / 2 ^ 8 % 2 ^ 38 * 2 ^ 8)

/-- The 64 KiB frame of an address is mapped under two (VA, ASID) tags, at least one of them writable, by translations the
ports hold or by page tables: an unsupported synonym, whose bytes read as unspecified values (R106). -/
def State.synonym (s : State) (pa : Nat) : Bool :=
  let ms := ((s.ports.flatMap (·.maps)).filter fun m => m.pa / 2 ^ 16 == pa / 2 ^ 16)
    ++ (s.ctxs.filter (·.live)).flatMap (s.tableMaps pa)
  ms.any fun a => a.w && ms.any fun b => b.asid != a.asid || b.unit != a.unit

/-- Reads `n` bytes of physical space, inside one frame. A load of a peer's window returns free values: the spec gives
none (log 21); a read of an unsupported synonym returns unspecified ones (R106, log 61). -/
def State.physRead (s : State) (pa n : Nat) : List Byte :=
  if isSelfReg pa then (List.range n).map fun k => s.selfByte (pa - selfBase + k)
  else if isPeerPa pa || s.synonym pa then (List.range n).map fun k => Config.freeByte (s.fresh + pa + k)
  else memBytes s.mem pa n

/-! ### Home accesses -/

/-- The home combines every update-only copy of the words it is about to serve (R167): in an order the spec leaves
open when there are several. -/
def State.combine (pa n : Nat) : Nat → State → State
  | 0, s => s
  | fuel + 1, s =>
    let hits := (s.upd.zipIdx.filter fun (u, _) => u.pa < pa + n && pa < u.pa + 4).map Prod.snd
    match hits with
    | [] => s
    | _ =>
      let k := hits.getD (Config.freeNat s.fresh % hits.length) 0
      match s.upd[k]? with
      | none => s
      | some u =>
        let old := BitVec.ofNat 32 (leNat (memBytes s.mem u.pa 4))
        State.combine pa n fuel
          { s with mem := memPutBytes s.mem u.pa (leBytes 4 (addF32 old u.sum).toNat)
                   upd := dropAt s.upd k
                   fresh := s.fresh + 1 }

/-- A physical address in the queue SRAM, whose home is the I/O die (R248). -/
def isSram (pa : Nat) : Bool := sramBase ≤ pa && pa < sramBase + 2 ^ 20

/-- Lines of the page are kept coherent by a directory: those of coherent memory and of the queue SRAM (R121, R248). -/
def MapRec.tracked (m : MapRec) : Bool := isSram m.pa || (m.c && m.pa / 2 ^ 44 != 3)

/-- How a directory names a line: by its address and tag, in the queue SRAM by its place there. -/
def dirTag (m : MapRec) (va : Nat) : Nat × Nat := if isSram m.pa then (0, m.paOf va / 64) else (m.asid, va / 64)

/-- The I/O die as the home of a directory, beside the ports 0-7. -/
def ioHome : Nat := 8

/-- The home whose directory keeps a line. -/
def State.dirNo (s : State) (m : MapRec) (va : Nat) : Nat := if isSram m.pa then ioHome else s.home va

/-- Changes the directory of a home. -/
def State.updDirAt (s : State) (h : Nat) (f : List DirEntry → List DirEntry) : State :=
  if h = ioHome then { s with ioDir := f s.ioDir } else s.updPort h fun p => { p with dir := f p.dir }

/-- The directory of a home. -/
def State.dirAt (s : State) (h : Nat) : List DirEntry :=
  if h = ioHome then s.ioDir
  else match s.ports[h]? with
    | none => []
    | some p => p.dir

/-- Changes the directory that keeps a line; a line that none keeps leaves all as they are. -/
def State.updDir (s : State) (m : MapRec) (va : Nat) (f : List DirEntry → List DirEntry) : State :=
  if m.tracked then s.updDirAt (s.dirNo m va) f else s

/-- The directory that keeps a line. -/
def State.dirOf (s : State) (m : MapRec) (va : Nat) : List DirEntry := s.dirAt (s.dirNo m va)

/-- The entry is that of a line. -/
def DirEntry.is (t : Nat × Nat) (d : DirEntry) : Bool := d.asid == t.1 && d.line == t.2

/-- Lines a directory slice holds (R121). -/
def dirMax : Nat := 1048576
/-- Ways of a compute die's snoop filter (R121). -/
def filterWays : Nat := 16
/-- Sets of a compute die's snoop filter: 262,144 lines of 16 ways (R121). -/
def filterSets : Nat := 262144 / filterWays

/-- The set of a snoop filter that a line falls into. -/
def filterSet (t : Nat × Nat) : Nat := Config.filterSet t.1 t.2 % filterSets

/-- A die's snoop filter gives up an entry: its cores lose the line, and the home its sharer bit. -/
def DirEntry.dropDie (die : Nat) (d : DirEntry) : DirEntry :=
  { d with
    dies := d.dies.filter (· != die)
    cores := d.cores.filter fun k => k.1.1 != die
    owner := match d.owner with
      | none => none
      | some k => if k.1 = die then none else some k
    state := match d.owner with
      | none => d.state
      | some k => if k.1 = die then .shared else d.state }

/-- The entry still covers somebody. -/
def DirEntry.covers (d : DirEntry) : Bool := !d.dies.isEmpty || d.io

/-- The entries of one set of a die's snoop filter, with their homes. -/
def State.filterLines (s : State) (die set : Nat) : List (Nat × DirEntry) :=
  (List.range (ioHome + 1)).flatMap fun h =>
    ((s.dirAt h).filter fun d => d.dies.contains die && filterSet (d.asid, d.line) == set).map fun d => (h, d)

/-- Room for a line in its directory slice (R121): a full one first evicts an entry of its choosing, invalidating the line in every
core the entry covers. -/
def State.sliceRoom (s : State) (m : MapRec) (va : Nat) : State :=
  if !m.tracked || (s.dirOf m va).length < dirMax || (s.dirOf m va).any (DirEntry.is (dirTag m va)) then s
  else s.updDir m va fun es => dropAt es (Config.freeNat s.fresh % dirMax)

/-- Room for a line in a die's snoop filter (R121): a full set first evicts an entry of its choosing from that die's cores. -/
def State.filterRoom (s : State) (m : MapRec) (va die : Nat) : State :=
  let mine := s.filterLines die (filterSet (dirTag m va))
  if !m.tracked || mine.length < filterWays || mine.any (fun x => x.2.is (dirTag m va)) then s
  else match mine[Config.freeNat (s.fresh + 1) % filterWays]? with
    | none => s
    | some (h, d) => s.updDirAt h fun es => (es.map fun x => if x = d then x.dropDie die else x).filter DirEntry.covers

/-- A core's L1 holds a coherent line, as its die's snoop filter records (R121). -/
def State.coreHas (s : State) (m : MapRec) (va : Nat) (k : Nat × Nat × Nat) : Bool :=
  (s.dirOf m va).any fun d => d.is (dirTag m va) && d.cores.any fun c => decide (c.1 = k)

/-- The entry after a read by a core (R121): its own modified line stays as it is; another owner's becomes shared. -/
def DirEntry.readBy (k : Nat × Nat × Nat) (filler : Nat) (d : DirEntry) : DirEntry :=
  if d.owner = some k then d
  else
    { d with
      state := .shared
      owner := none
      dies := if d.dies.contains k.1 then d.dies else k.1 :: d.dies
      cores := if d.cores.any fun c => decide (c.1 = k) then d.cores else (k, filler) :: d.cores }

/-- Directory effect of a read by a core (R121), whose line the swarm `filler` fills (R204). -/
def State.dirRead (s : State) (m : MapRec) (va : Nat) (k : Nat × Nat × Nat) (filler : Nat) : State :=
  let t := dirTag m va
  ((s.sliceRoom m va).filterRoom m va k.1).updDir m va fun es =>
    match es.find? (DirEntry.is t) with
    | none => ⟨t.1, t.2, .shared, [k.1], false, none, [(k, filler)]⟩ :: es
    | some d => d.readBy k filler :: es.filter fun x => !(x.is t)

/-- Directory effect of a write by a core (R121): every other sharer is invalidated. -/
def State.dirWrite (s : State) (m : MapRec) (va : Nat) (k : Nat × Nat × Nat) (filler : Nat) : State :=
  let t := dirTag m va
  ((s.sliceRoom m va).filterRoom m va k.1).updDir m va fun es =>
    ⟨t.1, t.2, .modified, [k.1], false, some k, [(k, filler)]⟩ :: es.filter fun x => !(x.is t)

/-- Directory effect of an access at the home itself (atomics, engines, host): no core keeps a copy of a written line; a line
the host reads becomes shared, the I/O die being a sharer beside those it has. -/
def State.dirHome (s : State) (m : MapRec) (va : Nat) (io : Bool) : State :=
  let t := dirTag m va
  if io then
    (s.sliceRoom m va).updDir m va fun es =>
      match es.find? (DirEntry.is t) with
      | none => ⟨t.1, t.2, .shared, [], true, none, []⟩ :: es
      | some d => { d with state := .shared, io := true, owner := none } :: es.filter fun x => !(x.is t)
  else s.updDir m va fun es => es.filter fun x => !(x.is t)

/-- The same for a range of `n` bytes on one page, line by line. -/
def State.dirLines (s : State) (m : MapRec) (va n : Nat) (io : Bool) : State :=
  (List.range ((va + n + 63) / 64 - va / 64)).foldl (fun s k => s.dirHome m ((va / 64 + k) * 64) io) s

/-- Entries of a bounce buffer (R111). -/
def bounceMax : Nat := 32768

/-- Room in a port's bounce buffer (R111). -/
def State.bounceRoom (s : State) (va : Nat) : Bool :=
  match s.ports[s.home va]? with
  | none => false
  | some p => p.bounce.length < bounceMax

/-- Accepts an entry into the home's bounce buffer (R111). -/
def State.bounce (s : State) (asid va : Nat) (k : BounceKind) (who : Who) : State :=
  s.updPort (s.home va) fun p => { p with bounce := p.bounce ++ [⟨asid, va / 2 ^ 16, k, who⟩] }

/-- Bytes from an address up with their addresses. -/
def addrBytes (va : Nat) (bs : List Byte) : List (Nat × Byte) := bs.zipIdx.map fun p => (va + p.2, p.1)

/-- The entry holds bytes of a line, written by the same instruction. -/
def Bounce.takes (asid line : Nat) (who : Who) (b : Bounce) : Bool :=
  b.asid == asid && decide (b.who = who) && (match b.kind with
    | .bytes ((a, _) :: _) _ => a / 64 == line
    | _ => false)

/-- More bytes of its line join an entry. -/
def BounceKind.join (bs : List (Nat × Byte)) (bad : List Nat) : BounceKind → BounceKind
  | .bytes old b => .bytes (old ++ bs) (bad.foldl (fun acc u => insNat u acc) b)
  | k => k

/-- Accepts bytes of one 64-byte line with their poisoned units (R111, R219): they join the last entry when that is the line's, of
the same instruction. -/
def State.bounceLine (s : State) (asid line : Nat) (bs : List (Nat × Byte)) (bad : List Nat) (who : Who) : State :=
  s.updPort (s.home (line * 64)) fun p =>
    match p.bounce.getLast? with
    | some b =>
      if b.takes asid line who then { p with bounce := p.bounce.dropLast ++ [{ b with kind := b.kind.join bs bad }] }
      else { p with bounce := p.bounce ++ [⟨asid, line / 1024, .bytes bs bad, who⟩] }
    | none => { p with bounce := p.bounce ++ [⟨asid, line / 1024, .bytes bs bad, who⟩] }

/-- Cuts addressed bytes into runs of one line each. -/
def lineRuns : List (Nat × Byte) → List (Nat × List (Nat × Byte))
  | [] => []
  | x :: r =>
    match lineRuns r with
    | [] => [(x.1 / 64, [x])]
    | (l, ys) :: rest => if l = x.1 / 64 then (l, x :: ys) :: rest else (x.1 / 64, [x]) :: (l, ys) :: rest

/-- Accepts bytes into the bounce buffers, one entry for each 64-byte line (R111). -/
def State.bounceBytes (s : State) (asid va : Nat) (bs : List Byte) (who : Who) : State :=
  (lineRuns (addrBytes va bs)).foldl (fun s r => s.bounceLine asid r.1 r.2 [] who) s

/-! ### What a home holds (R111, R112, R231, R232) -/

/-- A request through this link is not served now: the link is waking or silent, or dozes and must wake first (Table 16.3). -/
def Link.holdsBack (l : Link) : Bool := l.state == lkWaking || l.state == lkSilent || l.doze

/-- The link of a socket holds requests back. -/
def State.linkHeld (s : State) (sock : Nat) : Bool :=
  match s.link? sock with
  | none => false
  | some l => l.holdsBack

/-- The sockets a home must snoop for an access (R121): those of all sharers for a write, of the owner for a read. -/
def State.snooped (s : State) (asid va : Nat) (write : Bool) : List Nat :=
  match s.mapOf asid va with
  | none => []
  | some m => if !m.tracked then [] else ((s.dirOf m va).filter (DirEntry.is (dirTag m va))).flatMap fun d =>
    (if write || decide (d.state = .modified) then d.dies else []) ++ (if write && d.io then [ioSock] else [])

/-- The address lies in the system region, behind the I/O die (R245). -/
def State.toSystem (s : State) (asid va : Nat) : Bool := (s.mapOf asid va).any fun m => m.pa / 2 ^ 44 == 3

/-- The sockets that an access addresses. -/
def State.addressed (s : State) (asid va : Nat) (write : Bool) : List Nat :=
  (if asid = 0 then [] else [s.homeSock va]) ++ (if s.toSystem asid va then [ioSock] else []) ++ s.snooped asid va write

/-- The page of an address is not resident (V = 0): a write there needs a place in the home's bounce buffer (R111). -/
def State.isAway (s : State) (asid va : Nat) : Bool := (s.heldMap asid va).isNone && decide (s.walkAny asid va = .nonres)

/-- A home does not serve an access to this address now: its page has undrained entries, or a link on its way serves nobody. -/
def State.blocked (s : State) (asid va : Nat) (write : Bool) : Bool :=
  (s.addressed asid va write).any s.linkHeld
  || ((s.heldMap asid va).isNone && (s.mapOf asid va).isSome && s.bounced asid va)

/-- The home holds an access to this address now: it does not serve it, or its bounce buffer has no room for one entry. -/
def State.holds (s : State) (asid va : Nat) (write : Bool) : Bool :=
  s.blocked asid va write || (write && s.isAway asid va && !s.bounceRoom va)

/-- Writes on their way to homes: addresses, each marked when it takes a bounce entry of its own, in order; of others, those of
one line that follow one another share an entry. -/
abbrev Sends := List (Nat × Bool)

/-- Entries that the writes at one port need (R111). -/
def bounceEntries : Sends → Nat
  | [] => 0
  | [_] => 1
  | a :: b :: r => (if a.1 / 64 == b.1 / 64 && !a.2 && !b.2 then 0 else 1) + bounceEntries (b :: r)

/-- Every home has room for the bounce entries of these writes, made one group after another (R111). -/
def State.fits (s : State) (asid : Nat) (gs : List Sends) : Bool :=
  (List.range 8).all fun p => match s.ports[p]? with
    | none => true
    | some q =>
      let n := (gs.map fun g => bounceEntries (g.filter fun x => s.home x.1 == p && s.isAway asid x.1)).sum
      n == 0 || decide (q.bounce.length + n ≤ bounceMax)

/-- All these writes can be made now: no home holds one (R111, R112, R231). -/
def State.sendsOk (s : State) (asid : Nat) (gs : List Sends) : Bool :=
  (gs.all fun g => g.all fun x => !s.blocked asid x.1 true) && s.fits asid gs

/-- Writes of bytes at these addresses, in this order. -/
def sendsOf (vas : List Nat) : Sends := vas.map fun v => (v, false)

/-! ### Fabric frames and posted stores (R257-R259) -/

/-- Next PSN toward a peer and port (Table 17.4). -/
def State.nextPsn (s : State) (peer port : Nat) : State × Nat :=
  match s.psns.find? fun t => t.1 == peer && t.2.1 == port with
  | none => ({ s with psns := (peer, port, 1) :: s.psns }, 0)
  | some t =>
    ({ s with psns := s.psns.map fun x => if x.1 == peer && x.2.1 == port then (peer, port, x.2.2 + 1) else x }, t.2.2)

/-- Destination UDP port of every Torjor frame (R257). -/
def torjorPort : Nat := 27210

/-- Sends a Torjor frame to a peer (R257, R258): PEER names this device in the receiver's table. -/
def State.sendPeer (s : State) (peer op addr ctag : Nat) (payload : List Byte) : State × Nat :=
  match s.peers.find? fun p => p.1 == peer with
  | none => (s, 0)
  | some (_, p) =>
    let (s1, psn) := s.nextPsn peer p.port
    ({ s1 with out := s1.out ++ [.frame p.port p.v6 p.addrHi p.addrLo p.udp torjorPort 1 op (Config.ownIndex peer) psn addr payload.length
      ctag payload] },
      psn)

/-- A posted fabric store (R258, R259): sent to the peer, and counted until acknowledged; with no valid entry it fails
with a context fault of cause 8. -/
def State.postStore (s : State) (h swarm pa va : Nat) (who : Who) (bs : List Byte) : State :=
  let peer := pa / 2 ^ 32 % 2 ^ 11
  let off := pa % 2 ^ 32
  match s.peers.find? fun p => p.1 == peer with
  | none =>
    let asid := match s.ctx? h with
      | none => 0
      | some c => c.asid
    contextFault h 8 (s.logIo va (s.tagOf asid va) 10 4 who)
  | some _ =>
    let (s1, psn) := s.sendPeer peer 0x02 off 0 bs
    { s1 with
      posted := s1.posted ++ [⟨s1.nextPosted, h, who.field, swarm, peer, psn, va, off, bs, who, s1.ioCycle⟩]
      nextPosted := s1.nextPosted + 1
      fields := s1.fields.map fun f => if f.id == who.field && f.ctx == h then { f with posted := f.posted + 1 } else f }

/-- Posted stores of a range, one for each 64-byte line of it. -/
def State.postLines (s : State) (h swarm pa va : Nat) (who : Who) (bs : List Byte) : State :=
  (lineRuns (addrBytes va bs)).foldl (fun s r => match r.2 with
    | [] => s
    | x :: _ => s.postStore h swarm (pa + (x.1 - va)) x.1 who (r.2.map Prod.snd)) s

/-! ### Firmware's writes and the completion of commands (R247, R250, R255) -/

/-- Handle of the context of an ASID; 0 for none. -/
def State.handleOf (s : State) (asid : Nat) : Nat :=
  match s.ctxOfAsid asid with
  | none => 0
  | some c => c.handle

/-- Bytes that remain on the page of an address. -/
def pageLeft (va : Nat) : Nat := 2 ^ 16 - va % 2 ^ 16

/-- Writes bytes of memory. A unit of 16 bytes that is wholly written holds no poison afterwards (R219). -/
def State.putMem (s : State) (pa : Nat) (bs : List Byte) : State :=
  { s with
    mem := memPutBytes s.mem pa bs
    poison := if bs.length < 16 then s.poison
      else s.poison.filter fun u => !(decide (pa ≤ 16 * u) && decide (16 * u + 16 ≤ pa + bs.length)) }

/-- A swarm number that is no swarm's: for a posted store that is not a swarm's own. -/
def nobody : Nat := 2 ^ 64

/-- Firmware writes bytes of one page, coherently, at their home: a non-resident page's go to the bounce buffer; refused
bytes are dropped and logged as an engine's. -/
def State.fwNow (s : State) (asid va : Nat) (bs : List Byte) : State :=
  match s.translate asid va true with
  | (s1, .ok m) =>
    let pa := m.paOf va
    if m.w then
      if isPeerPa pa then s1.postLines (s1.handleOf asid) nobody pa va Who.none bs
      -- firmware owns no alias of a doorbell (R248)
      else if isSelfReg pa then s1.logQueue 1 ((pa - selfBase - 0x1000) / 8) (BitVec.ofNat 64 (leNat bs))
      else ((State.combine pa bs.length s1.upd.length s1).putMem pa bs).dirLines m va bs.length false
    else s1.logPort (s1.home va) va m.asid 4 0 Who.none
  | (s1, .err) => s1.logPort (s1.home va) va asid 4 2 Who.none
  | (s1, _) => s1.bounceBytes asid va bs Who.none

/-- The first address in each line of a range. -/
def lineStarts (va n : Nat) : List Nat := (List.range ((va + n + 63) / 64 - va / 64)).map fun k => max va ((va / 64 + k) * 64)

/-- The home holds firmware's write (R111, R112); firmware's writes of one space stay in order. -/
def State.fwWaits (s : State) (asid va n : Nat) : Bool :=
  s.fwHeld.any (fun h => h.asid == asid) || !s.sendsOk asid [sendsOf (lineStarts va n)]

/-- A write of firmware to one page: now, or once its home no longer holds it. -/
def State.fwChunk (s : State) (asid va : Nat) (bs : List Byte) : State :=
  if s.fwWaits asid va bs.length then { s with fwHeld := s.fwHeld ++ [⟨asid, va, bs, none⟩] } else s.fwNow asid va bs

/-- Firmware writes bytes, page by page. -/
def State.fwPages (asid : Nat) : Nat → Nat → List Byte → State → State
  | 0, _, _, s => s
  | fuel + 1, va, bs, s =>
    if bs.isEmpty then s
    else State.fwPages asid fuel (va + pageLeft va) (bs.drop (pageLeft va)) (s.fwChunk asid va (bs.take (pageLeft va)))

/-- Firmware writes bytes at a VA of an address space. -/
def State.fwWrite (s : State) (asid va : Nat) (bs : List Byte) : State :=
  State.fwPages asid (bs.length / 2 ^ 16 + 2) va bs s

/-- ASID of a context handle; firmware's for 0. -/
def State.asidOfCtx (s : State) (h : Nat) : Nat :=
  match s.ctx? h with
  | none => 0
  | some c => c.asid

/-- Changes the queue pair with a number. -/
def State.updQueue (s : State) (qid : Nat) (f : Queue → Queue) : State :=
  { s with queues := s.queues.map fun q => if q.qid == qid then f q else q }

/-- The queue pair with a number. -/
def State.queue? (s : State) (qid : Nat) : Option Queue := s.queues.find? fun q => q.qid == qid

/-- A completion entry (Table 17.8). -/
def complEntry (tag status sqhead : Nat) (r0 r1 : W64) (phase : Bool) : List Byte :=
  leBytes 8 (status * 2 ^ 32 + tag) ++ wordBytes r0 ++ wordBytes r1 ++ leBytes 8 (phase.toNat * 2 ^ 16 + sqhead)
    ++ List.replicate 32 0

/-- Writes finished completion entries in ring order, while the ring has room (R250, R255). -/
def State.writeEntries (qid : Nat) : Nat → State → State
  | 0, s => s
  | fuel + 1, s =>
    match s.queue? qid with
    | none => s
    | some q =>
      match q.pend with
      | [] => s
      | p :: r =>
        match p.done with
        | none => s
        | some (st, r0, r1) =>
          let next := (q.cidx + 1) % 2 ^ q.n
          if next = q.chead then s
          else
            let s1 := s.fwWrite (s.asidOfCtx q.space) (q.cq + 64 * q.cidx) (complEntry p.tag st p.sqhead r0 r1 q.phase)
            State.writeEntries qid fuel (s1.updQueue qid fun q =>
              { q with pend := r, cidx := next, phase := if next = 0 then !q.phase else q.phase })

/-- Every finished entry of a pair that has room. -/
def State.flushQueue (s : State) (qid : Nat) : State :=
  match s.queue? qid with
  | none => s
  | some q => State.writeEntries qid q.pend.length s

/-- Gives a consumed command its result (R249): the entry of a queue pair, or the management port's answer. -/
def State.setDone (s : State) (r : CmdRef) (st : Nat) (r0 r1 : W64) : State :=
  match r.src with
  | .mgmt => { s with out := s.out ++ [.mgmt r.tag st r0 r1] }
  | .queue qid =>
    s.updQueue qid fun q => { q with pend := q.pend.map fun p =>
      if p.slot == r.slot then { p with done := some (st, r0, r1) } else p }

/-- A command that ends with this status signals it: SIGVAL at SIGVA when it succeeds, unless its context has taken a fault (R215,
R255). -/
def State.signalDue (s : State) (r : CmdRef) (st : Nat) : Bool := st == 0 && r.sigva != 0 && (r.ctx == 0 || s.sound r.ctx)

/-- A home holds the SIGVAL of a command that ends. -/
def State.signalWaits (s : State) (r : CmdRef) (st : Nat) : Bool := s.signalDue r st && s.fwWaits (s.asidOfCtx r.ctx) r.sigva 8

/-- A command ends: its SIGVAL, then its result (R255). -/
def State.conclude (s : State) (r : CmdRef) (st : Nat) (r0 r1 : W64) : State :=
  (if s.signalDue r st then s.fwWrite (s.asidOfCtx r.ctx) r.sigva (leBytes 8 r.sigval) else s).setDone r st r0 r1

/-- A deletion that waits for a pair's in-flight entries may end: only its own entry is left, if it came by that pair. -/
def Queue.deletable (q : Queue) : Option CmdRef :=
  match q.deleting with
  | none => none
  | some r =>
    let own := r.src == .queue q.qid
    if (q.pend.all fun p => own && p.slot == r.slot && p.done.isNone) && (!own || (q.cidx + 1) % 2 ^ q.n != q.chead) then
      some r
    else none

/-- Deletions that have become possible complete (QDELETE, Table 17.3). -/
def State.finishDeletes : Nat → State → State
  | 0, s => s
  | fuel + 1, s =>
    match s.queues.find? fun q => q.deletable.any fun r => !s.signalWaits r 0 with
    | none => s
    | some q =>
      match q.deletable with
      | none => s
      | some r =>
        let s1 := s.conclude r 0 0 0
        let s2 := match r.src with
          | .queue k => s1.flushQueue k
          | .mgmt => s1
        State.finishDeletes fuel { s2 with queues := s2.queues.filter fun x => x.qid != q.qid }

/-- Writes what entries it can of a pair, and ends deletions that waited for them. -/
def State.flushAll (s : State) (qid : Nat) : State := State.finishDeletes s.queues.length (s.flushQueue qid)

/-- Completion of a command (R255): SIGVAL, then the completion entry; both wait while a home holds the SIGVAL. -/
def State.complete (s : State) (r : CmdRef) (st : Nat) (r0 r1 : W64) : State :=
  if s.signalWaits r st then
    { s with fwHeld := s.fwHeld ++ [⟨s.asidOfCtx r.ctx, r.sigva, leBytes 8 r.sigval, some (r, st, r0, r1)⟩] }
  else
    let s1 := s.conclude r st r0 r1
    match r.src with
    | .queue qid => s1.flushAll qid
    | .mgmt => s1

/-- Firmware's held writes that the homes no longer hold are made, in their order; a held SIGVAL ends its command. -/
def State.retryHeld : List HeldWrite → State → State
  | [], s => s
  | h :: r, s => State.retryHeld r (match h.ends with
    | none => s.fwChunk h.asid h.va h.bytes
    | some (x, st, r0, r1) => s.complete x st r0 r1)

/-- Tries firmware's held writes again, and the deletions that waited for one. -/
def State.retryFw (s : State) : State :=
  if s.fwHeld.isEmpty then s
  else
    let s1 := State.retryHeld s.fwHeld { s with fwHeld := [] }
    State.finishDeletes s1.queues.length s1

/-! ### Writes to the system region (R247, R248, R258, R259) -/

/-- A doorbell write (R247, R250): TAIL and CHEAD; an index of 2^n or more is ignored and logged. Entries that waited for
room are written. -/
def State.ring (s : State) (qid : Nat) (v : W64) : State :=
  match s.queues.find? fun q => q.qid == qid with
  | none => s.logQueue 0 qid v
  | some q =>
    let tail := v.toNat % 2 ^ 16
    let ch := v.toNat / 2 ^ 32 % 2 ^ 16
    if tail ≥ 2 ^ q.n || ch ≥ 2 ^ q.n then s.logQueue 0 qid v
    else (s.updQueue qid fun x => { x with tail := tail, chead := ch }).flushAll qid

/-- Who may ring: the owner of the pair (R248). -/
def State.aliasStore (s : State) (asid pa : Nat) (bs : List Byte) : State :=
  let o := pa - selfBase
  if 0x1000 ≤ o && o < 0x3000 then
    let qid := (o - 0x1000) / 8
    let owner := s.handleOf asid
    match s.queues.find? fun q => q.qid == qid with
    | none => s.logQueue 1 qid (BitVec.ofNat 64 (leNat bs))
    | some q =>
      if q.owner != owner then s.logQueue 1 qid (BitVec.ofNat 64 (leNat bs))
      else
        let k := o % 8
        let old := leBytes 8 q.doorbell
        let new := (List.range 8).map fun j => if k ≤ j && j < k + bs.length then bs.getD (j - k) 0 else old.getD j 0
        s.ring qid (BitVec.ofNat 64 (leNat new))
  else s

/-- Writes bytes of physical space that are not a fabric window. -/
def State.physWrite (s : State) (asid pa : Nat) (bs : List Byte) : State :=
  if isSelfReg pa then s.aliasStore asid pa bs else s.putMem pa bs

/-! ### L1 lines of bound memory -/

/-- Tags under which a context's lines stand: its ASID, or 0xFFFF of G pages (R105). -/
def L1Line.of (asid : Nat) (l : L1Line) : Bool := l.asid == asid || l.asid == 0xFFFF

/-- The line of an address in an L1. -/
def CoreSt.line? (c : CoreSt) (asid va : Nat) : Option L1Line :=
  c.l1.find? fun l => l.of asid && l.line == va / 64

/-- The line of an address in an instruction cache, tagged by VA and ASID (R299). -/
def CoreSt.iline? (c : CoreSt) (asid va : Nat) : Option ILine :=
  c.icache.find? fun l => (l.asid == asid || l.asid == 0xFFFF) && l.line == va / 64

/-- Puts a line into an L1, replacing its older form. -/
def CoreSt.putLine (c : CoreSt) (l : L1Line) : CoreSt :=
  { c with l1 := l :: c.l1.filter fun x => !(x.asid == l.asid && x.line == l.line) }

/-- Mask of `n` bytes from byte `o` of a line. -/
def byteMask (o n : Nat) : W64 := maskOf fun l => decide (o ≤ l) && decide (l < o + n)

/-- The line can serve these bytes; through a tainted address only its dirty ones (R163). -/
def L1Line.serves (l : L1Line) (m : W64) (tainted : Bool) : Bool :=
  if tainted then m &&& ~~~l.dirty == 0 else m &&& ~~~l.have_ == 0

/-- Bytes of a line. -/
def L1Line.slice (l : L1Line) (o n : Nat) : List Byte := (l.bytes.drop o).take n

/-- Bytes that a line of a core's L1 serves at an address: those of the line, or unspecified ones where its frame is an
unsupported synonym (R106). -/
def State.lineRead (s : State) (l : L1Line) (asid va n : Nat) : List Byte :=
  match s.heldMap asid va with
  | none => l.slice (va % 64) n
  | some m =>
    if s.synonym (m.paOf va) then (List.range n).map fun k => Config.freeByte (s.fresh + m.paOf va + k)
    else l.slice (va % 64) n

/-- Writes bytes into a line and marks them dirty. -/
def L1Line.write (l : L1Line) (o : Nat) (bs : List Byte) : L1Line :=
  let m := byteMask o bs.length
  { l with
    bytes := (List.range 64).map fun k => if has m k then bs.getD (k - o) 0 else l.bytes.getD k 0
    have_ := l.have_ ||| m
    dirty := l.dirty ||| m }

/-- Fills the clean bytes of a line from memory; it cannot serve those of a poisoned unit (R219). -/
def L1Line.fill (l : L1Line) (bs : List Byte) (bad : W64) : L1Line :=
  { l with
    bytes := (List.range 64).map fun k => if has l.dirty k then l.bytes.getD k 0 else bs.getD k 0
    have_ := l.dirty ||| ~~~bad }

/-- An access to these bytes reads a poisoned unit of the line. -/
def L1Line.poisoned (l : L1Line) (o n : Nat) : Bool := l.bad.any fun u => u * 16 < o + n && o < u * 16 + 16

/-- The bytes of a line of memory that lie in poisoned units. -/
def State.poisonMask (s : State) (pa : Nat) : W64 :=
  if s.poison.isEmpty then 0 else maskOf fun k => s.poison.contains ((pa + k) / 16)

/-- Poison as a write-back of a line leaves it: its bad units carry theirs home, its wholly written ones clear what stood there
(R219). -/
def L1Line.poisonAfter (l : L1Line) (pa : Nat) (ps : List Nat) : List Nat :=
  (List.range 4).foldl (fun ps k =>
    let ds := (List.range 16).map fun j => has l.dirty (16 * k + j)
    if l.bad.contains k && ds.any id then insNat (pa / 16 + k) ps
    else if ds.all id then ps.filter (· != pa / 16 + k) else ps) ps

/-- What ACQ does to bound lines (R155): clean ones go, dirty ones keep only their dirty bytes. -/
def CoreSt.acquire (c : CoreSt) (asid : Nat) : CoreSt :=
  { c with l1 := (c.l1.filter fun l => !(l.of asid) || l.dirty != 0).map fun l =>
      if l.of asid then { l with have_ := l.dirty } else l }

/-- ACQ's effect on a core's bound lines of an address space (R155). -/
def State.acqLines (s : State) (k : Nat × Nat × Nat) (asid : Nat) : State := s.updCore k fun c => c.acquire asid

/-- Outcome of one access of a lane. -/
inductive Res
  | ok (bs : List Byte)
  | nonres
  | fault (cause : Nat)
  /-- The home holds the access (R111, R112). -/
  | held
  | poison
deriving DecidableEq, Repr

/-- A write at the home (R159): update-only copies are combined first. -/
def State.homeWrite (s : State) (m : MapRec) (asid va : Nat) (bs : List Byte) : State :=
  let pa := m.paOf va
  (State.combine pa bs.length s.upd.length s).physWrite asid pa bs

/-- Bytes land on a resident page: in a fabric window they are posted (R258, R259), elsewhere written at the home, no core keeping a
copy of their lines. -/
def State.landBytes (s : State) (m : MapRec) (asid h swarm va : Nat) (who : Who) (bs : List Byte) : State :=
  if isPeerPa (m.paOf va) then s.postLines h swarm (m.paOf va) va who bs
  else (s.homeWrite m asid va bs).dirLines m va bs.length false

/-- Cuts addressed bytes into runs of successive addresses inside one line. -/
def byteRuns : List (Nat × Byte) → List (Nat × List Byte)
  | [] => []
  | x :: r =>
    match byteRuns r with
    | [] => [(x.1, [x.2])]
    | (a, bs) :: rest => if a = x.1 + 1 && a % 64 != 0 then (x.1, x.2 :: bs) :: rest else (x.1, [x.2]) :: (a, bs) :: rest

/-- Addressed bytes land on a resident page, run by run. -/
def State.landRuns (s : State) (m : MapRec) (asid h swarm : Nat) (who : Who) (bs : List (Nat × Byte)) : State :=
  (byteRuns bs).foldl (fun s r => s.landBytes m asid h swarm r.1 who r.2) s

/-- A line writes its dirty bytes back to its home (R105, R115): the state, and the cause and VA of a fault. -/
def State.writeBackLine (s : State) (k : Nat × Nat × Nat) (asid : Nat) (l : L1Line) (who : Who) :
    State × Option (Nat × Nat) :=
  let clean := fun s : State => s.updCore k fun c => c.putLine { l with dirty := 0, bad := [] }
  let va := l.line * 64
  let dirtyBytes := (lanesOf l.dirty).map fun o => (va + o, l.bytes.getD o 0)
  if l.dirty == 0 then (s, none)
  else
    let first := va + lowLane l.dirty
    match s.translate asid va true with
    | (s1, .ok m) =>
      if !m.w then (clean s1, some (0, first))
      -- a page that leads to a fabric window or to a register by now
      else if isPeerPa m.pa || isSelfReg m.pa then
        (clean (s1.landRuns m asid (s1.handleOf asid) nobody who dirtyBytes), none)
      else
        let s2 := State.combine (m.paOf va) 64 s1.upd.length s1
        (clean ({ s2 with mem := dirtyBytes.foldl (fun mm (a, b) => memPut mm (m.paOf a) b) s2.mem
                          poison := l.poisonAfter (m.paOf va) s2.poison }.dirLines m va 64 false), none)
    | (s1, .err) => (clean s1, some (2, first))
    | (s1, _) => (clean (s1.bounceLine asid l.line dirtyBytes (l.bad.map fun u => l.line * 4 + u) who), none)

/-- Writes back a list of lines; the faults met, in order. -/
def State.writeBackAll (k : Nat × Nat × Nat) (asid : Nat) (who : Who) : List L1Line → State → State × List (Nat × Nat)
  | [], s => (s, [])
  | l :: r, s =>
    let (s1, f) := s.writeBackLine k asid l who
    let (s2, fs) := State.writeBackAll k asid who r s1
    match f with
    | none => (s2, fs)
    | some x => (s2, x :: fs)

/-- The dirty bound lines of an address space in a core's L1, chosen by a test on the line. -/
def State.dirtyLines (s : State) (k : Nat × Nat × Nat) (asid : Nat) (p : Nat → Bool) : List L1Line :=
  (s.core k).l1.filter fun l => l.of asid && l.dirty != 0 && p l.line

/-- Write-backs of lines. -/
def sendsOfLines (ls : List L1Line) : Sends := sendsOf (ls.map fun l => l.line * 64)

/-- The dirty lines that a write-back would take can all go now: no home holds one (R111, R112, R231). -/
def State.mayFlush (s : State) (k : Nat × Nat × Nat) (asid : Nat) (p : Nat → Bool) : Bool :=
  s.sendsOk asid [sendsOfLines (s.dirtyLines k asid p)]

/-- An L1 miss: one that hits the swarm's own victim tag raises its score (R204). -/
def State.noteMiss (s : State) (k : Nat × Nat × Nat) (asid va filler : Nat) : State :=
  if (s.core k).victims.any fun v => v.asid == asid && v.line == va / 64 && v.swarm == filler then
    s.updSwarm filler fun w => { w with score := w.score + 1 }
  else s

/-- Reads a bound or coherent location for a swarm's core (R104, R109, R120, R121, R163). -/
def State.coreRead (s : State) (k : Nat × Nat × Nat) (asid va n filler : Nat)
    (tainted : Bool) : State × Res :=
  let o := va % 64
  let m := byteMask o n
  match (s.core k).line? asid va with
  | some l =>
    if l.serves m tainted then (s, if l.poisoned o n then .poison else .ok (s.lineRead l asid va n))
    else if s.holds asid va false then (s, .held)
    else
      match s.translate asid va false with
      | (s1, .ok mr) =>
        if s1.poisoned (mr.paOf va) n then (s1, .poison)
        else
          let base := mr.paOf (va / 64 * 64)
          let l2 := l.fill (s1.physRead base 64) (s1.poisonMask base)
          (s1.updCore k fun c => c.putLine l2, if l2.poisoned o n then .poison else .ok (l2.slice o n))
      | (s1, .nonres) => (s1, .nonres)
      | (s1, .err) => (s1, .fault 2)
      | (s1, .held) => (s1, .held)
  | none =>
    if s.holds asid va false then (s, .held)
    else match s.translate asid va false with
    | (s1, .nonres) => (s1, .nonres)
    | (s1, .err) => (s1, .fault 2)
    | (s1, .held) => (s1, .held)
    | (s1, .ok mr) =>
      let pa := mr.paOf va
      if s1.poisoned pa n then (s1, .poison)
      else if mr.c || mr.pa / 2 ^ 44 == 3 then
        let s2 := State.combine pa n s1.upd.length s1
        let s3 := if s2.coreHas mr va k then s2 else s2.noteMiss k mr.asid va filler
        (s3.dirRead mr va k filler, .ok (s2.physRead pa n))
      else
        let base := mr.paOf (va / 64 * 64)
        let l : L1Line := ⟨mr.asid, va / 64, mr.w, s1.physRead base 64, ~~~s1.poisonMask base, 0, [], filler⟩
        ((s1.noteMiss k mr.asid va filler).updCore k fun c => c.putLine l, .ok (l.slice o n))

/-- A home's answer to a write, before it is made: the memory type decides where it goes (R111, R113). -/
inductive WriteTo
  | l1 (m : MapRec)
  | home (m : MapRec)
  | peer (pa : Nat)
  /-- Into the bounce buffer: the page is not resident, or has entries there that come first. -/
  | bounce
  | fault (cause : Nat)
deriving DecidableEq, Repr

/-- Asks the home for write permission (R113). -/
def State.askWrite (s : State) (asid va : Nat) : State × WriteTo :=
  match s.translate asid va true with
  | (s1, .nonres) | (s1, .held) => (s1, .bounce)
  | (s1, .err) => (s1, .fault 2)
  | (s1, .ok m) =>
    if !m.w then (s1, .fault 0)
    else if isPeerPa (m.paOf va) then (s1, .peer (m.paOf va))
    else if m.c || m.pa / 2 ^ 44 == 3 then (s1, .home m)
    else (s1, .l1 m)

/-- A write into a core's bound line, which has this tag and W (R105, R113). -/
def State.l1Write (s : State) (k : Nat × Nat × Nat) (tag : Nat) (w : Bool) (va filler : Nat) (bs : List Byte) : State :=
  let s1 := match (s.core k).line? tag va with
    | some _ => s
    | none => s.noteMiss k tag va filler
  s1.updCore k fun c =>
    let l := match c.line? tag va with
      | some l => l
      | none => ⟨tag, va / 64, w, List.replicate 64 0, 0, 0, [], filler⟩
    c.putLine ({ l with w := w }.write (va % 64) bs)

/-- The line of an address in a core's L1 that holds W: a store there asks no home (R113). -/
def State.hitW (s : State) (k : Nat × Nat × Nat) (asid va : Nat) : Option L1Line :=
  ((s.core k).line? asid va).filter fun l => l.w

/-- A line without some of its bytes: they are read from the home again. -/
def L1Line.forget (m : W64) (l : L1Line) : L1Line := { l with have_ := l.have_ &&& ~~~m, dirty := l.dirty &&& ~~~m }

/-- A core's L1 gives up bytes of one line, older than what their home has been sent (R158, R162). -/
def State.forgetBytes (s : State) (asid va n : Nat) (k : Nat × Nat × Nat) : State :=
  let one := fun l : L1Line => if l.of asid && l.line == va / 64 then l.forget (byteMask (va % 64) n) else l
  s.updCore k fun c => { c with l1 := c.l1.map one }

/-! ### Reading without effect -/

/-- Bytes of a home's frame, its update-only copies combined (R167). -/
def State.combined (s : State) (pa n : Nat) : List Byte := (State.combine pa n s.upd.length s).physRead pa n

/-- Bytes a coherent read at the home would return now; none when the page is not readable there. -/
def State.peek (s : State) (asid va n : Nat) : Option (List Byte) :=
  match s.heldMap asid va with
  | some m => some (s.combined (m.paOf va) n)
  | none =>
    match s.walkAny asid va with
    | .ok m _ => if s.bounced asid va then none else some (s.combined (m.paOf va) n)
    | _ => none

/-- One 64-bit word, read so. -/
def State.peekWord (s : State) (asid va : Nat) : Option Nat := (s.peek asid va 8).map leNat

/-! ### Faults of an access, and objects at their homes -/

/-- A faulting lane: lanes from 64 up stand for a write-back, which names none. -/
structure LaneFault where
  lane : Nat
  cause : Nat
  va : Nat
deriving DecidableEq, Repr

/-- The causes of Table 6.6 that an access meets. -/
def faultCauses : List Nat := [0, 2, 3]

/-- The lowest of a list of addresses. -/
def lowest : List Nat → Nat
  | [] => 0
  | a :: r => r.foldl min a

/-- Logs the faults at their homes: one entry for each home and cause, naming the lowest byte (R116). -/
def State.logFaults (s : State) (asid kind : Nat) (who : Who) (fs : List LaneFault) : State :=
  (List.range 8).foldl (fun s p => faultCauses.foldl (fun s c =>
    match fs.filter fun f => f.cause == c && s.home f.va == p with
    | [] => s
    | f :: r =>
      let va := lowest ((f :: r).map LaneFault.va)
      s.logPort p va (s.tagOf asid va) kind c who) s) s

/-- What an access to an object or by an atomic finds at a home (R110, R153, R304). -/
inductive AtHome
  | ok (m : MapRec)
  | nonres
  | fault (cause : Nat)
deriving DecidableEq, Repr

/-- The home of a sync object (R153): not coherent is cause 3, not writable cause 0. -/
def State.objHome (s : State) (asid va : Nat) : State × AtHome :=
  match s.translate asid va true with
  | (s1, .ok m) => (s1, if !m.c then .fault 3 else if !m.w then .fault 0 else .ok m)
  | (s1, .err) => (s1, .fault 2)
  | (s1, _) => (s1, .nonres)

/-- Writes one word of a line at its home. -/
def State.putWord (s : State) (m : MapRec) (asid va k v : Nat) : State :=
  (s.homeWrite m asid (va + 8 * k) (leBytes 8 v)).dirHome m va false

/-- One word of a line at its home. -/
def State.getWord (s : State) (m : MapRec) (va k : Nat) : Nat := leNat (s.physRead (m.paOf (va + 8 * k)) 8)

/-- Word 3 of an object as REL writes it (Table 9.2). -/
def relWord (sc : Nat) (ext : Bool) (field colony cls : Nat) : Nat :=
  field % 2 ^ 32 * 2 ^ 32 + colony % 2 ^ 16 * 2 ^ 16 + ext.toNat * 2 ^ 5 + cls * 2 ^ 3 + sc

/-- What REL writes (Table 9.2): SEQ + 1, and the releaser. -/
def State.relAt (s : State) (m : MapRec) (asid va sc : Nat) (ext : Bool) (field colony cls : Nat) : State :=
  (s.putWord m asid va 0 ((s.getWord m va 0 + 1) % 2 ^ 64)).putWord m asid va 3 (relWord sc ext field colony cls)

end Sys2Proof.Machine
end

