-- ==== Sys2Proof/Machine/Comb.lean ====
section
/-! DEFINITION. The comb of a colony (R122-R128), its rings (R135, R136), and its named barriers as pure functions of
the colony (R129-R132, R137). -/

namespace Sys2Proof.Machine

/-! ### Rings -/

/-- BASE of Table 7.6. -/
def Ring.base (r : Ring) : Nat := fld r.w0.toNat 0 24
/-- SLOT of Table 7.6. -/
def Ring.slot (r : Ring) : Nat := fld r.w0.toNat 24 20
/-- Slot count N. -/
def Ring.n (r : Ring) : Nat := fld r.w0.toNat 44 4 + 1
/-- Ring stage count RS. -/
def Ring.rs (r : Ring) : Nat := fld r.w0.toNat 48 3 + 1
/-- The ring barrier. -/
def Ring.bar (r : Ring) : Nat := fld r.w0.toNat 51 5
/-- Producer class. -/
def Ring.pclass (r : Ring) : Nat := fld r.w0.toNat 56 2
/-- Engine arrivals per generation of stage `s`. -/
def Ring.eng (r : Ring) (s : Nat) : Nat := fld r.w1.toNat (4 * s) 4
/-- Stage pointer p_s. -/
def Ring.ptr (r : Ring) (s : Nat) : Nat := (r.ptrs.getD s 0).toNat
/-- Bytes of the ring's region. -/
def Ring.size (r : Ring) : Nat := r.n * r.slot
/-- The address lies in the ring's region (R136). -/
def Ring.holds (r : Ring) (a : Nat) : Bool := r.base ≤ a && a < r.base + r.size

/-- The defined rings of a table, with their numbers. -/
def ringsOf (rs : List (Option Ring)) : List (Nat × Ring) := rs.zipIdx.filterMap fun p => p.1.map fun r => (p.2, r)

/-- The ring of a table whose region holds a comb address. -/
def ringIn (rs : List (Option Ring)) (a : Nat) : Option (Nat × Ring) := (ringsOf rs).find? fun p => p.2.holds a

/-- The defined rings of a colony, with their numbers. -/
def Colony.ringList (c : Colony) : List (Nat × Ring) := ringsOf c.rings

/-- The ring whose region holds a comb address. -/
def Colony.ringAt (c : Colony) (a : Nat) : Option (Nat × Ring) := ringIn c.rings a

/-- A comb address mapped with a stage pointer (R136). -/
def Ring.map (r : Ring) (p a : Nat) : Nat :=
  let o := a - r.base
  r.base + (o / r.slot + p) % r.n * r.slot + o % r.slot

/-- A comb address as a swarm of stage `s` uses it under a table of rings (R136): the table as it stands for vector accesses, or
as it stood at their issue for copy slices and matrix operations, which a later RING.DEF or BAR.INIT does not reach (R145). -/
def mapRings (rs : List (Option Ring)) (s a : Nat) : Nat :=
  match ringIn rs a with
  | none => a
  | some (_, r) => r.map (r.ptr s) a

/-- A comb address as a swarm of stage `s` uses it now (R136). -/
def Colony.mapAddr (c : Colony) (s a : Nat) : Nat := mapRings c.rings s a

/-- The releaser class recorded for the cell of an address (Table 2.5). -/
def Colony.cellClass (c : Colony) (cls a : Nat) : Nat :=
  match c.ringAt a with
  | none => cls
  | some (_, r) => r.pclass

/-! ### Cells and bytes -/

/-- One comb byte. -/
def Colony.combByte (c : Colony) (a : Nat) : Byte := spGet 0 c.comb a
/-- Reads comb bytes. -/
def Colony.combRead (c : Colony) (a n : Nat) : List Byte := (List.range n).map fun k => c.combByte (a + k)
/-- One write to comb bytes at die cycle `now`: of several writes to a byte the last stays, and the byte as it stood before is kept for
the reads under way (R93, R125, R146). -/
def Colony.combPut (c : Colony) (now : Nat) (ws : List (Nat × Byte)) : Colony :=
  { c with
    comb := ws.foldl (fun m p => spPut 0 m p.1 p.2) c.comb
    combOld := c.combOld ++ ws.map fun p => ⟨p.1, c.combByte p.1, c.combSeq, now⟩
    combSeq := c.combSeq + 1 }

/-- Bytes with their addresses, from `a` up. -/
def bytesAt (a : Nat) (bs : List Byte) : List (Nat × Byte) := bs.zipIdx.map fun p => (a + p.2, p.1)

/-- Writes comb bytes at die cycle `now`. -/
def Colony.combWrite (c : Colony) (now a : Nat) (bs : List Byte) : Colony := c.combPut now (bytesAt a bs)

/-- The values that an engine or matrix read of a byte may take, when it began at write number `since` and ends at cycle `now`:
what the byte held then or after any write since, but nothing written in this very clock (R93, R141, R146). -/
def Colony.combChoices (c : Colony) (now since a : Nat) : List Byte :=
  let olds := c.combOld.filter fun o => o.addr == a
  (olds.filter fun o => since ≤ o.seq && o.cycle != now).map CombOld.byte
    ++ (match olds.find? fun o => o.cycle == now with
        | none => [c.combByte a]
        | some o => [o.byte])

/-- A byte as such a read finds it: which of the values is free (`occ` numbers the occasion). -/
def Colony.combSeen (c : Colony) (now since occ a : Nat) : Byte :=
  let xs := c.combChoices now since a
  xs.getD (Config.freeNat (occ + a) % xs.length) 0

/-- Bytes as such a read finds them. -/
def Colony.combReadAt (c : Colony) (now since occ a n : Nat) : List Byte :=
  (List.range n).map fun k => c.combSeen now since occ (a + k)

/-- Sets a cell's state. -/
def Colony.setCell (full : Bool) (c : Colony) (cell : Nat) : Colony :=
  { c with full := if full then insNat cell c.full else c.full.filter (· != cell) }

/-- A cell is full. -/
def Colony.isFull (c : Colony) (cell : Nat) : Bool := c.full.contains cell

/-- The mapped byte addresses of an access. -/
def CombAccess.addrs : CombAccess → List Nat
  | .load _ _ a => a
  | .store _ a _ => a

/-- Its lanes. -/
def CombAccess.mask : CombAccess → W64
  | .load _ m _ => m
  | .store m _ _ => m

/-- The cells an access touches, each once (R125). -/
def CombAccess.cells (x : CombAccess) : List Nat :=
  (lanesOf x.mask).foldl (fun acc l => insNat (x.addrs.getD l 0 / 16) acc) []

/-- Every cell is in the awaited state (R127): full for a load, empty for a store. -/
def Colony.combReady (c : Colony) : CombAccess → Bool
  | .load t m a => (CombAccess.load t m a).cells.all c.isFull
  | .store m a d => (CombAccess.store m a d).cells.all fun x => !c.isFull x

/-- Bytes read by a comb load, per lane. -/
def Colony.combLoad (c : Colony) (m : W64) (addrs : List Nat) : List W32 :=
  lanes fun l => if has m l then BitVec.ofNat 32 (leNat (c.combRead (addrs.getD l 0) 4)) else 0

/-- Bytes written by a comb store, lanes ascending, so that the highest lane's value stays (R125). -/
def Colony.combStore (c : Colony) (now : Nat) (m : W64) (addrs : List Nat) (data : List W32) : Colony :=
  c.combPut now ((lanesOf m).flatMap fun l => bytesAt (addrs.getD l 0) (leBytes 4 (el data l).toNat))

/-- A poisoned cell stands in an access's way (R219). -/
def Colony.combPoisoned (c : Colony) (x : CombAccess) : Bool := x.cells.any c.combPoison.contains

/-- The bank of a cell (R123), from SR.COMBHASH. -/
def bankOf (hash cell : Nat) : Nat :=
  let h1 := cell / 2 ^ fld hash 0 4 % 256
  let h2 := cell / 2 ^ fld hash 4 4 % 256
  Nat.xor (Nat.xor (cell % 256) h1) (h2 &&& (fld hash 8 5 * 8))

/-- Clocks an access occupies the banks (R124). -/
def bankClocks (hash : Nat) (cells : List Nat) : Nat :=
  cells.foldl (fun n c => max n (cells.countP fun d => bankOf hash d == bankOf hash c)) 1

/-! ### Barriers -/

/-- A barrier as at placement (R129); it records member class CONC (R307). -/
def Bar.clear : Bar := ⟨false, 0, 0, 0, 0, 0, 0, 0, 0, [], none, []⟩

/-- A barrier by number. -/
def Colony.bar (c : Colony) (b : Nat) : Bar := c.bars.getD b Bar.clear
/-- Changes a barrier. -/
def Colony.updBar (c : Colony) (b : Nat) (f : Bar → Bar) : Colony := { c with bars := c.bars.modify b f }

/-- `p` is ahead of `t` as 32-bit counters (R136). -/
def ahead (p t : Nat) : Bool :=
  let d := (p + (2 ^ 32 - t % 2 ^ 32)) % 2 ^ 32
  d != 0 && d < 2 ^ 31

/-- The pending token of a swarm. -/
def Bar.token? (b : Bar) (w : Nat) : Option Nat := (b.tokens.find? fun t => t.1 == w).map Prod.snd
/-- Takes a swarm's token away. -/
def Bar.dropToken (b : Bar) (w : Nat) : Bar := { b with tokens := b.tokens.filter fun t => t.1 != w }
/-- Sets a swarm's token. -/
def Bar.setToken (b : Bar) (w t : Nat) : Bar := { b.dropToken w with tokens := (w, t) :: (b.dropToken w).tokens }

/-- The generation completes when every arrival is in (R131); held engine arrivals count in the next one. -/
def Bar.complete (b : Bar) : Bar :=
  if b.sArr = b.m && b.eArr = b.e then
    let k := min b.eHeld b.e
    { b with gen := b.gen + 1, sArr := 0, eArr := k, eHeld := b.eHeld - k }
  else b

/-- An arrival of a swarm at an ordinary barrier (R131). -/
def Bar.arrive (w : Nat) (b : Bar) : Bar := { b.setToken w b.gen.toNat with sArr := b.sArr + 1 }.complete

/-- An engine arrival at an ordinary barrier (R131). -/
def Bar.engine (b : Bar) : Bar :=
  if b.eArr < b.e then { b with eArr := b.eArr + 1 }.complete else { b with eHeld := b.eHeld + 1 }

/-- BAR.INVAL (R132): the counts and held arrivals go, GEN stays, the epoch advances. -/
def Bar.inval (b : Bar) : Bar :=
  { b with
    valid := false
    epoch := b.epoch + 1
    sArr := 0
    eArr := 0
    eHeld := 0
    stages := b.stages.map fun _ => (0, 0, 0) }

/-- The ring a barrier serves. -/
def Colony.ringOf (c : Colony) (b : Nat) : Option (Nat × Ring) :=
  match (c.bar b).ring with
  | none => none
  | some k => match c.rings.getD k none with
    | none => none
    | some r => some (k, r)

/-- What holds a ring stage back (R137). -/
inductive StageHold
  | arrivals
  | distance
  | clear
deriving DecidableEq, Repr

/-- Does the generation of stage `s` complete (R137)? `ns` is the stage layout. -/
def ringHold (ns : List Nat) (r : Ring) (b : Bar) (s : Nat) : StageHold :=
  let (sa, ea, _) := b.stages.getD s (0, 0, 0)
  let p := r.ptr s
  if sa != ns.getD s 0 || ea != r.eng s
      || ((List.range s).any fun e => ahead (p + 1) (r.ptr e)) then .arrivals
  else if ((List.range r.rs).any fun l => decide (s < l) && decide ((p + 1 + (2 ^ 32 - r.ptr l)) % 2 ^ 32 > r.n - 1)) then
    .distance
  else .clear

/-- One stage advances: its pointer increments, its counts clear, held engine arrivals count in the next generation. -/
def advanceStage (s : Nat) (r : Ring) (b : Bar) : Ring × Bar :=
  let (_, _, h) := b.stages.getD s (0, 0, 0)
  let k := min h (r.eng s)
  ({ r with ptrs := r.ptrs.modify s (· + 1) }, { b with stages := b.stages.set s (0, k, h - k) })

/-- Every stage whose completion holds advances, the later ones first (R137). -/
def advanceRing (ns : List Nat) : Nat → Ring → Bar → Ring × Bar
  | 0, r, b => (r, b)
  | fuel + 1, r, b =>
    match (List.range r.rs).reverse.find? (fun s => ringHold ns r b s = .clear) with
    | none => (r, b)
    | some s => let (r1, b1) := advanceStage s r b
                advanceRing ns fuel r1 b1

/-- Advances of one event: each of 8 stages at most 16 times. -/
def ringFuel : Nat := 128

/-- Advances the ring of barrier `b`. -/
def Colony.advance (ns : List Nat) (b : Nat) (c : Colony) : Colony :=
  match c.ringOf b with
  | none => c
  | some (k, r) =>
    let (r1, b1) := advanceRing ns ringFuel r (c.bar b)
    { c.updBar b fun _ => b1 with rings := c.rings.set k (some r1) }

/-- A swarm's arrival (R131, R137): `w` its index, `st` its stage. -/
def Colony.arrive (ns : List Nat) (b w st : Nat) (c : Colony) : Colony :=
  match c.ringOf b with
  | none => c.updBar b (Bar.arrive w)
  | some (_, r) =>
    (c.updBar b fun x => { x.setToken w (r.ptr st) with
      stages := x.stages.modify st fun t => (t.1 + 1, t.2.1, t.2.2) }).advance ns b

/-- An engine operation's arrival (R131, R137, R318): dropped when its epoch is past or the barrier is not valid, else
counted or held. -/
def Colony.engineArrive (ns : List Nat) (b epoch st : Nat) (c : Colony) : Colony :=
  if !(c.bar b).valid || (c.bar b).epoch != epoch then { c with bardrop := c.bardrop + 1 }
  else match c.ringOf b with
    | none => c.updBar b Bar.engine
    | some (_, r) =>
      let bump := fun t : Nat × Nat × Nat =>
        if t.2.1 < r.eng st then (t.1, t.2.1 + 1, t.2.2) else (t.1, t.2.1, t.2.2 + 1)
      (c.updBar b fun x => { x with stages := x.stages.modify st bump }).advance ns b

/-- Generation count a swarm of stage `st` compares with: GEN, or p_s on a ring barrier. -/
def Colony.genOf (c : Colony) (b st : Nat) : Nat :=
  match c.ringOf b with
  | none => (c.bar b).gen.toNat
  | some (_, r) => r.ptr st

/-- Every earlier stage of a ring is ahead (R137). -/
def Colony.aheadAll (c : Colony) (b st : Nat) : Bool :=
  match c.ringOf b with
  | none => true
  | some (_, r) => (List.range st).all fun e => ahead (r.ptr e) (r.ptr st)

/-! ### Timelines (R143) -/

/-- The largest n such that every number from 1 to n is in the list. -/
def prefixDone (done : List Nat) : Nat → Nat → Nat
  | 0, n => n
  | fuel + 1, n => if done.contains (n + 1) then prefixDone done fuel (n + 1) else n

/-- A timeline counter of the colony (Table 24.1). -/
def Colony.timeline (c : Colony) : TlSel → W64
  | .copy i => let d := c.copyDone.getD i.val []
               BitVec.ofNat 64 (prefixDone d d.length 0)
  | .matrix => BitVec.ofNat 64 (prefixDone c.mmaDone c.mmaDone.length 0)
  | .coll i => c.collTl.getD i.val 0
  | .launch => BitVec.ofNat 64 c.launchTl

end Sys2Proof.Machine
end

