-- ==== Sys2Proof/Machine/Colony.lean ====
section
/-! DEFINITION. Swarms and colonies as placement makes them (R8, R16, R45, R122, R201), the store buffer of a
restartable colony (R220, R221), and what the consumption of an uncorrectable error does (R219, R222). -/

namespace Sys2Proof.Machine

/-! ### Placement state -/

/-- A trap state at reset (Table 14.3). -/
def TrapState.clear : TrapState := ⟨0, 0, 0, 0, 0, false, List.replicate 12 0⟩

/-- A free lane of a reserving loop. -/
def RLane.free : RLane := ⟨none, false, []⟩

/-- Stage of a swarm index under a layout (R13). -/
def stageOf : List Nat → Nat → Nat
  | [], _ => 0
  | n :: r, i => if i < n then 0 else 1 + stageOf r (i - n)

/-- The entry level (R8, R45): every entry and slot zero, masks clear, the window open with W slots. -/
def Level.entry (d w : Nat) : Level where
  queue := List.replicate d Slot.zero
  win := List.replicate w Slot.zero
  wopen := true
  masks := List.replicate 15 0
  fork := false
  cur := 0
  arms := armsClear
  retpc := 0
  spilled := false

/-- Granules of Table 2.2. -/
def roundUp (n g : Nat) : Nat := (n + g - 1) / g * g

/-- The launch record's arguments from s0 upward, then zeros (R8). -/
def startScalars (k : Nat) (args : List W64) : List W64 := (args ++ List.replicate k 0).take k

/-- A swarm at its kernel's first instruction (R8, R118, Tables 2.7, 6.5, 6.7, 7.5, 14.3). -/
def Swarm.start (f : FieldSt) (col colIdx idx quarter : Nat) : Swarm where
  colony := col
  idx := idx
  stage := stageOf f.desc.stages idx
  pc := BitVec.ofNat 52 f.desc.entry
  top := Level.entry f.desc.depth f.desc.frame
  under := []
  scalars := startScalars f.desc.scalars f.args
  flags := List.replicate 12 0
  starveLog2 := 20
  starveLevel := 0
  nonres := false
  privBase := f.privBase + (colIdx * f.desc.swarms + idx) * f.desc.privSize
  privSize := f.desc.privSize
  barstat := 0
  trap := TrapState.clear
  hdepth := 0
  tcfg := List.replicate 3 0
  ucfg := List.replicate 4 0
  ops := []
  nextOp := 0
  faults := []
  faultsFull := false
  entering := false
  wait := none
  starved := none
  lastIssue := none
  hold := none
  quarter := quarter
  readyCount := 0
  placed := 0
  fell := []
  badScalars := []
  score := 0
  admitted := true
  lanes := List.replicate 64 RLane.free
  wave := false
  ended := false

/-- A colony accepted and not yet placed; its comb is zero, every cell empty, every barrier invalid, no ring defined
(R122, R129). `count` is SR.RESTART.COUNT. -/
def Colony.start (field index : Nat) (d : KDesc) (count : Nat) (replay : List (Nat × Nat)) : Colony where
  field := field
  index := index
  status := .waiting
  admitted := false
  resv := none
  lent := false
  toldBy := none
  lendNo := 0
  lentResv := []
  lenders := []
  place := none
  stop := none
  rotatedAt := none
  comb := []
  full := []
  combPoison := []
  combOld := []
  combSeq := 0
  bars := List.replicate d.bars Bar.clear
  rings := List.replicate d.rings none
  rsv := none
  copyIssued := [0, 0, 0, 0]
  copyDone := [[], [], [], []]
  mmaIssued := 0
  mmaDone := []
  collIssued := [0, 0, 0, 0]
  collTl := [0, 0, 0, 0]
  launchQ := []
  launchIssued := 0
  launchTl := 0
  coop := []
  resumes := 0
  bardrop := 0
  copyst := 0
  rst := d.rst
  rstCause := if d.rst then 0 else 1
  rstCount := count
  sbuf := []
  tileLog := []
  tileReplay := replay
  avoid := none
  savedTiles := []
  saveBase := 0
  saveSize := 0

/-! ### Looking up -/

/-- Field of colony `j`. -/
def State.fieldOf (s : State) (j : Nat) : Option FieldSt := do
  let c ← s.colonies[j]?
  s.fields[c.field]?

/-- Context handle of colony `j`. -/
def State.colCtx (s : State) (j : Nat) : Nat :=
  match s.fieldOf j with
  | none => 0
  | some f => f.ctx

/-- ASID of colony `j`'s context. -/
def State.colAsid (s : State) (j : Nat) : Nat :=
  match s.ctx? (s.colCtx j) with
  | none => 0
  | some c => c.asid

/-- Indices of the swarms of colony `j`, ascending. -/
def State.swarmsOf (s : State) (j : Nat) : List Nat :=
  (s.swarms.zipIdx.filter fun p => p.1.colony == j).map Prod.snd

/-- Index of the swarm of colony `j` with an index in the colony. -/
def State.swarmAt (s : State) (j idx : Nat) : Option Nat := s.swarms.findIdx? fun w => w.colony == j && w.idx == idx

/-- Who a swarm is, for logs. -/
def State.whoOf (s : State) (i : Nat) (pc : Nat) : Who :=
  match s.swarms[i]? with
  | none => Who.none
  | some w =>
    match s.colonies[w.colony]?, s.fieldOf w.colony with
    | some c, some f => ⟨f.id, c.index, w.idx, pc⟩
    | _, _ => Who.none

/-- The cores of a span. -/
def Span.coreKeys (p : Span) : List (Nat × Nat × Nat) := p.cores.map fun c => (p.die, p.clus, c)

/-! ### The store buffer (R220, R221) -/

/-- Address of an entry. -/
def Buffered.va : Buffered → Nat
  | .bytes va _ | .rel va .. => va

/-- The entry is a REL, which takes a bounce entry of its own. -/
def Buffered.isRel : Buffered → Bool
  | .bytes .. => false
  | .rel .. => true

/-- Lines held: SR.RESTART.LINES. -/
def Colony.sbufLines (c : Colony) : Nat := (c.sbuf.foldl (fun acc b => insNat (b.va / 64) acc) []).length

/-- Bytes with others over them from a place on. -/
def overwrite (bs : List Byte) (o : Nat) (new : List Byte) : List Byte := bs.take o ++ new ++ bs.drop (o + new.length)

/-- What an entry makes of the bytes of its line. -/
def Buffered.onto (bs : List Byte) : Buffered → List Byte
  | .bytes va new => overwrite bs (va % 64) new
  | .rel _ sc field colony cls =>
    overwrite (overwrite bs 0 (leBytes 8 ((leNat (bs.take 8) + 1) % 2 ^ 64))) 24 (leBytes 8 (relWord sc false field colony cls))

/-- The entries of a colony's buffer on a line, in write order. -/
def Colony.onLine (c : Colony) (line : Nat) : List Buffered := c.sbuf.filter fun b => b.va / 64 == line

/-- Bytes of one line as colony `j` sees them: while it is restartable its buffered ones over memory's, in write order (R220). -/
def State.overlayOf (s : State) (j va : Nat) (bs : List Byte) : List Byte :=
  match s.colonies[j]? with
  | none => bs
  | some c =>
    if !c.rst || (c.onLine (va / 64)).isEmpty then bs
    else
      let under := (s.peek (s.colAsid j) (va / 64 * 64) 64).getD (List.replicate 64 0)
      (((c.onLine (va / 64)).foldl Buffered.onto (overwrite under (va % 64) bs)).drop (va % 64)).take bs.length

/-- Drains one entry (R220, R221): its bytes land on their page, a REL takes effect at its home (R154); both go to the bounce
buffer of a page that is not resident. A refused entry is discarded. -/
def State.drainOne (asid h : Nat) (who : Who) (acc : State × List LaneFault) (b : Buffered) : State × List LaneFault :=
  match b with
  | .bytes va bs =>
    match acc.1.translate asid va true with
    | (s1, .ok m) => if m.w then (s1.landBytes m asid h nobody va who bs, acc.2) else (s1, acc.2 ++ [⟨64, 0, va⟩])
    | (s1, .err) => (s1, acc.2 ++ [⟨64, 2, va⟩])
    | (s1, _) => (s1.bounceBytes asid va bs Who.none, acc.2)
  | .rel va sc field colony cls =>
    match acc.1.objHome asid va with
    | (s1, .ok m) => (s1.relAt m asid va sc false field colony cls, acc.2)
    | (s1, .fault c) => (s1, acc.2 ++ [⟨64, c, va⟩])
    | (s1, .nonres) => (s1.bounce asid va (.rel va sc false field colony cls) Who.none, acc.2)

/-- The cores of a colony read its drained bytes from their homes again: a swarm sees its own drained stores (R162). -/
def State.forgetDrained (s : State) (asid : Nat) (c : Colony) : State :=
  match c.place with
  | none => s
  | some p => c.sbuf.foldl (fun s b => match b with
    | .bytes va bs => p.coreKeys.foldl (fun s k => s.forgetBytes asid va bs.length k) s
    | .rel .. => s) s

/-- Drains the buffer of colony `j` to memory in write order. Refused entries are logged with KIND 7, and are the context fault
of R115. -/
def State.drainBuffer (s : State) (j : Nat) : State :=
  match s.colonies[j]?, s.fieldOf j with
  | some c, some f =>
    let asid := s.colAsid j
    let (s1, fs) := c.sbuf.foldl (State.drainOne asid f.ctx ⟨f.id, c.index, 0, 0⟩) (s, [])
    let s2 := ((s1.updColony j fun c => { c with sbuf := [] }).forgetDrained asid c).logFaults asid 7 Who.none fs
    if fs.isEmpty then s2 else contextFault f.ctx 4 s2
  | _, _ => s

/-- The writes that a drain of colony `j`'s buffer makes. -/
def State.drainSends (s : State) (j : Nat) : Sends :=
  match s.colonies[j]? with
  | none => []
  | some c => if c.rst then c.sbuf.map fun b => (b.va, b.isRel) else []

/-- The buffer of colony `j` can drain now: no home holds one of its writes (R111, R112, R231). -/
def State.drainOk (s : State) (j : Nat) : Bool := s.sendsOk (s.colAsid j) [s.drainSends j]

/-- The colony stops being restartable (R221): the buffer drains, RST clears, CAUSE is set. -/
def State.endRestart (s : State) (j cause : Nat) : State :=
  match s.colonies[j]? with
  | none => s
  | some c =>
    if c.rst then (s.drainBuffer j).updColony j fun c => { c with rst := false, rstCause := cause } else s

/-! ### Errors (R219, R222) -/

/-- Tokens held by the swarms of a colony return to the units (R35, Table 5.1). -/
def Tile.dropTokens (is : List Nat) (t : Tile) : Tile :=
  match t.token with
  | none => t
  | some k => if is.contains k then { t with token := none } else t

/-- A tile as a colony leaves it: unowned when it was the colony's (R84). -/
def Tile.leave (j : Nat) (is : List Nat) (t : Tile) : Tile :=
  if t.owner = some j then ⟨none, none, [], []⟩ else t.dropTokens is

/-- Every core of a span, changed. -/
def State.updSpan (s : State) (p : Span) (f : CoreSt → CoreSt) : State :=
  p.coreKeys.foldl (fun s k => s.updCore k f) s

/-- Everything colony `j` has in the engines and units is dropped; a matrix unit stays occupied as if it had run what it had accepted
(DESIGN CHOICE, log 94). -/
def State.dropEngines (s : State) (j : Nat) : State :=
  { s with
    colls := s.colls.filter fun c => c.colony != j
    mmas := s.mmas.filter fun m => m.colony != j }

/-- A kill of a restartable colony (R222): everything it held is discarded and it waits to be placed afresh, on another
cluster, with COUNT one higher. -/
def State.kill (s : State) (j : Nat) : State :=
  match s.colonies[j]?, s.fieldOf j with
  | some c, some f =>
    let is := s.swarmsOf j
    let s1 := match c.place with
      | none => s
      | some p => s.updSpan p fun k => { k with tiles := k.tiles.map (Tile.leave j is) }
    let s2 := s1.dropEngines j
    let s3 := is.foldl (fun s i => s.updSwarm i fun w => { w with ops := [], wait := none, starved := none, ended := true }) s2
    s3.updColony j fun c =>
      { Colony.start c.field c.index f.desc (c.rstCount + 1) (c.tileLog ++ c.tileReplay) with
        admitted := true
        resv := c.resv
        lenders := c.lenders
        lendNo := c.lendNo
        lentResv := c.lentResv
        saveBase := c.saveBase
        saveSize := c.saveSize
        avoid := c.place.map fun p => (p.die, p.clus) }
  | _, _ => s

/-- Colony `j` consumes an uncorrectable error, by swarm `sw` or by an engine: a kill and relaunch while it is restartable and
COUNT is below 3, else a context fault of cause 6 or 5 (R222, Table 14.5). -/
def State.consumeBy (s : State) (j : Nat) (sw : Option Nat) : State :=
  match s.colonies[j]? with
  | none => s
  | some c =>
    if !c.rst then faultOf sw (s.colCtx j) 5 s
    else if c.rstCount ≥ 3 then faultOf sw (s.colCtx j) 6 s
    else s.kill j

/-- Colony `j` consumes an error that no one swarm has met. -/
def State.consume (s : State) (j : Nat) : State := s.consumeBy j none

end Sys2Proof.Machine
end

