-- ==== Sys2Proof/Machine/Ops.lean ====
section
/-! DEFINITION. Resident levels and the spill stack (R58, R59), taking a trap (R211, R212), returning from one (R213),
and landing and ending an operation in flight. -/

namespace Sys2Proof.Machine

/-! ### Resident levels (R58) -/

/-- Bytes of a spilled level (R59). -/
def Level.size (lv : Level) : Nat := 256 + 256 * (lv.depth + lv.win.length)

/-- Taint bits of slots `lo` to `lo + 63` as a word. -/
def taintWord (l : List Slot) (lo : Nat) : W64 :=
  maskOf fun k => match l[lo + k]? with
    | none => false
    | some s => s.taint

/-- Control record of a level, 32 words (Table 3.4). -/
def Level.control (lv : Level) : List W64 :=
  let arm := fun k => match lv.arms[k]? with
    | none => 0
    | some a => (a.opened.toNat * 128 + a.count) * 2 ^ (8 * k)
  [lv.retpc.setWidth 64,
    BitVec.ofNat 64 (lv.win.length * 2 ^ 32 + lv.fork.toNat * 8 + lv.wopen.toNat * 4 + lv.cur),
    BitVec.ofNat 64 (arm 0 + arm 1 + arm 2 + arm 3)]
  ++ lv.masks ++ [taintWord lv.queue 0]
  ++ (List.range 5).map (fun k => taintWord lv.win (64 * k)) ++ List.replicate 8 0

/-- Bytes of a slot: element of lane l at 4l, little-endian (R59). -/
def Slot.image (s : Slot) : List Byte := s.data.flatMap fun x => leBytes 4 x.toNat

/-- A level in records of 256 bytes (R59): control record, queue from age 0, window from slot 0. -/
def Level.image (lv : Level) : List (List Byte) :=
  lv.control.flatMap wordBytes :: (lv.queue ++ lv.win).map Slot.image

/-- The records of a level that carry poison with them (R219). -/
def Level.badRecords (lv : Level) : List Bool := false :: (lv.queue ++ lv.win).map Slot.bad

/-- Record `n` of an image. -/
def recordAt (img : List Byte) (n : Nat) : List Byte := (img.drop (256 * n)).take 256

/-- Word `n` of a record. -/
def wordAt (r : List Byte) (n : Nat) : W64 := BitVec.ofNat 64 (leNat ((r.drop (8 * n)).take 8))

/-- A slot of its record and its taint bit (R59). -/
def Slot.ofImage (r : List Byte) (taint : Bool) : Slot :=
  ⟨lanes fun l => BitVec.ofNat 32 (leNat ((r.drop (4 * l)).take 4)), taint, none, false⟩

/-- A level of its image (R59, Table 3.4), with a queue of `d` slots. -/
def Level.ofImage (d : Nat) (img : List Byte) : Level :=
  let c := recordAt img 0
  let w1 := (wordAt c 1).toNat
  let arm := fun k => fld (wordAt c 2).toNat (8 * k) 8
  { queue := (List.range d).map fun n => Slot.ofImage (recordAt img (1 + n)) ((wordAt c 18).getLsbD n)
    win := (List.range (fld w1 32 9)).map fun n => Slot.ofImage (recordAt img (1 + d + n)) ((wordAt c (19 + n / 64)).getLsbD (n % 64))
    wopen := w1.testBit 2
    masks := (List.range 15).map fun k => wordAt c (3 + k)
    fork := w1.testBit 3
    cur := fld w1 0 2
    arms := (List.range 4).map fun k => ⟨(arm k).testBit 7, arm k % 128⟩
    retpc := (wordAt c 0).setWidth 52
    spilled := false }

/-- What a run of spill stack accesses met: done, with the bytes read; a page that refuses, with the cause for the fault log
(none where it is not resident) and its address; or an uncorrectable error. -/
inductive Spill
  | ok (bs : List Byte)
  | refused (cause : Option Nat) (va tag : Nat)
  | poison
deriving DecidableEq, Repr

/-- Sets poison on the units of 16 bytes of a record. -/
def State.markRecord (s : State) (pa : Nat) : State :=
  { s with poison := (List.range 16).foldl (fun ps k => insNat (pa / 16 + k) ps) s.poison }

/-- Writes records of 256 bytes from `va` up in a bound private area; a record marked bad takes its poison along (R219). -/
def State.writeRecords (asid : Nat) : Nat → List (List Byte × Bool) → State → State × Spill
  | _, [], s => (s, .ok [])
  | va, r :: rs, s =>
    match s.translate asid va true with
    | (s1, .ok m) =>
      if m.w then
        let s2 := s1.putMem (m.paOf va) r.1
        State.writeRecords asid (va + 256) rs (if r.2 then s2.markRecord (m.paOf va) else s2)
      else (s1, .refused (some 0) va m.asid)
    | (s1, .err) => (s1, .refused (some 2) va asid)
    | (s1, _) => (s1, .refused none va asid)

/-- Reads `n` records of 256 bytes. -/
def State.readRecords (asid : Nat) : Nat → Nat → State → State × Spill
  | _, 0, s => (s, .ok [])
  | va, n + 1, s =>
    match s.translate asid va false with
    | (s1, .ok m) =>
      if s1.poisoned (m.paOf va) 256 then (s1, .poison)
      else match State.readRecords asid (va + 256) n s1 with
        | (s2, .ok r) => (s2, .ok (s1.physRead (m.paOf va) 256 ++ r))
        | x => x
    | (s1, .err) => (s1, .refused (some 2) va asid)
    | (s1, _) => (s1, .refused none va asid)

/-- Context handle of swarm `i`'s ASID. -/
def State.asidOf (s : State) (i : Nat) : Nat :=
  match s.ctx? (s.ctxOf i) with
  | none => 0
  | some c => c.asid

/-- Descriptor of a swarm's field. -/
def State.descOf (s : State) (i : Nat) : Option KDesc := do
  let w ← s.swarms[i]?
  let c ← s.colonies[w.colony]?
  let f ← s.fields[c.field]?
  return f.desc

/-- The levels of a swarm do not all fit in the register file (R58). -/
def Swarm.overfull (w : Swarm) (frame : Nat) : Bool :=
  let res := w.top :: w.under.filter fun l => !l.spilled
  decide (res.length > 4) || decide ((res.map fun l => l.win.length).sum > frame)

/-- Position in `under` of the oldest resident level. -/
def Swarm.oldest? (w : Swarm) : Option Nat := ((w.under.zipIdx.filter fun p => !p.1.spilled).getLast?).map Prod.snd

/-- Offset in the spill stack of the level at a position: every older level lies below it. -/
def Swarm.spillOffset (w : Swarm) (p : Nat) : Nat := ((w.under.drop (p + 1)).map Level.size).sum

/-- A spill or refill that its page refused: the fault log entry of a permission fault (R116: KIND 7 for a spill and 0 for a
refill, log 64), and the context fault of R58, or of cause 7 for an uncorrectable error. -/
def State.spillFault (s : State) (i kind : Nat) : Spill → State
  | .ok _ => s
  | .poison => swarmFault i 7 s
  | .refused none _ _ => swarmFault i 3 s
  | .refused (some c) va tag => swarmFault i 3 (s.logPort (s.home va) va tag kind c ⟨0, 0, 0, 0⟩)

/-- Writes a level at an offset of the spill stack; a spill past the area is the context fault of R118. The flag says that it
was done. -/
def State.spillTo (s : State) (i off : Nat) (lv : Level) : State × Bool :=
  match s.swarms[i]? with
  | none => (s, false)
  | some w =>
    if off + lv.size > w.privSize then (swarmFault i 3 s, false)
    else match s.writeRecords (s.asidOf i) (w.privBase + off) (lv.image.zip lv.badRecords) with
      | (s1, .ok _) => (s1, true)
      | (s1, x) => (s1.spillFault i 7 x, false)

/-- Writes one level to the spill stack; the flag says that it was done. -/
def State.spillLevel (s : State) (i p : Nat) : State × Bool :=
  match s.swarms[i]? with
  | none => (s, false)
  | some w =>
    match w.under[p]? with
    | none => (s, false)
    | some lv =>
      match s.spillTo i (w.spillOffset p) lv with
      | (s1, true) =>
        (s1.updSwarm i fun w => { w with under := w.under.modify p fun l => { l with spilled := true } }, true)
      | x => x

/-- Spills the oldest resident levels, one at a time, until the rest fit (R58). -/
def State.trim (s : State) (i : Nat) : Nat → State
  | 0 => s
  | fuel + 1 =>
    match s.swarms[i]?, s.descOf i with
    | some w, some d =>
      if w.overfull d.frame then
        match w.oldest? with
        | none => swarmFault i 3 s
        | some p =>
          match s.spillLevel i p with
          | (s1, true) => s1.trim i fuel
          | (s1, false) => s1
      else s
    | _, _ => s

/-- A slot read back is still incomplete while its result has not landed (R38, R127). -/
def Slot.pendingOf (old : Option Slot) (sl : Slot) : Slot := { sl with busy := old.bind Slot.busy }

/-- A level as the spill stack's bytes give it, with the results that its slots still wait for (R38, R58, R127): those are part of
the swarm's wait, not of the level's image. -/
def Level.reread (old new : Level) : Level :=
  { new with
    queue := new.queue.zipIdx.map fun p => Slot.pendingOf old.queue[p.2]? p.1
    win := new.win.zipIdx.map fun p => Slot.pendingOf old.win[p.2]? p.1 }

/-- Reads the current level back when it had been spilled (R58): what the spill stack's bytes now say. -/
def State.refill (s : State) (i : Nat) : State :=
  match s.swarms[i]?, s.descOf i with
  | some w, some d =>
    if w.top.spilled then
      let off := (w.under.map Level.size).sum
      match s.readRecords (s.asidOf i) (w.privBase + off) (w.top.size / 256) with
      | (s1, .ok img) => s1.updSwarm i fun w => { w with top := w.top.reread (Level.ofImage d.depth img) }
      | (s1, x) => s1.spillFault i 0 x
    else s
  | _, _ => s

/-- A page of an area has entries that no DRAIN has applied (R112): an access of firmware or a spill there is held. -/
def State.areaHeld (s : State) (asid base size : Nat) : Bool :=
  s.ports.any fun p => p.bounce.any fun b =>
    decide (base < (b.unit + 1) * 2 ^ 16) && decide (b.unit * 2 ^ 16 < base + size) && s.holds asid (b.unit * 2 ^ 16) false

/-- A page of the swarm's private area is held. -/
def State.privHeld (s : State) (i : Nat) : Bool :=
  match s.swarms[i]? with
  | none => false
  | some w => s.areaHeld (s.asidOf i) w.privBase w.privSize

/-! ### Traps -/

/-- SR.TVEC of a swarm's context (R211). -/
def State.tvecOf (s : State) (i : Nat) : BitVec 52 :=
  match s.ctx? (s.ctxOf i) with
  | none => 0
  | some c => c.tvec

/-- The handler level opens (R211): flags are set aside and cleared, a level is entered as CALL with nargs = D. -/
def Swarm.enterHandler (w : Swarm) (tvec : BitVec 52) : Swarm :=
  { w with
    trap := { w.trap with flags := w.flags }
    flags := List.replicate 12 0
    ops := w.ops.map fun o => { o with aside := true }
    under := w.top :: w.under
    top := w.top.callee w.top.depth 0
    hdepth := w.depth + 1
    pc := tvec
    lastIssue := none
    entering := false }

/-- Taking a trap (R211): the record and the resume address are written, INTRAP is set, and the handler is entered as
soon as the owed results have landed. A wait the trap stopped (STARVE) is set aside. -/
def Swarm.takeTrap (w : Swarm) (t : Trap) (resume : BitVec 52) : Swarm :=
  { w with
    trap := { w.trap with
      rec0 := t.rec0
      rec1 := (t.pc.getD resume).setWidth 64
      rec2 := t.mask
      rec3 := t.info
      resume := resume
      intrap := true }
    entering := true }

/-- Handler entry goes through once every owed result has landed (R211, R212). -/
def State.tryEnter (s : State) (i : Nat) : State :=
  match s.swarms[i]? with
  | none => s
  | some w =>
    if w.entering && w.drained && w.scalarsLanded && !s.privHeld i then
      (s.updSwarm i fun w => w.enterHandler (s.tvecOf i)).trim i w.depth
    else s

/-- A trap of swarm `i` at `resume`: handler entry, or the context fault of R211 when no handler can run. -/
def takeTrap (i : Nat) (t : Trap) (resume : BitVec 52) (s : State) : State :=
  match s.swarms[i]? with
  | none => s
  | some w =>
    if w.trap.intrap then swarmFault i 1 s
    else if s.tvecOf i = 0 || w.depth ≥ 1024 then swarmFault i 2 s
    else (s.updSwarm i fun w => w.takeTrap t resume).tryEnter i

/-- IRET's return (R213): the set-aside flags come back with their decrements, the handler level is discarded, INTRAP
clears, and a wait that STARVE set aside is resumed when TRESUME still names its instruction (R29). -/
def Swarm.returnTrap (w : Swarm) : Swarm :=
  { w with
    flags := w.trap.flags
    trap := { w.trap with intrap := false }
    ops := w.ops.map fun o => { o with aside := false }
    top := w.under.headD w.top
    under := w.under.tail
    hdepth := 0
    pc := w.trap.resume }

/-! ### Landing and ending operations -/

/-- Writes the scalars of a result. -/
def Swarm.writeScalars (w : Swarm) : List (Nat × W64) → Swarm
  | [] => w
  | (n, v) :: r => (w.sset n v).writeScalars r

/-- Lands push number `part` on in every level. -/
def Swarm.landAll (id : Nat) : Nat → List (W64 × List W32) → Swarm → Swarm
  | _, [], w => w
  | part, (m, d) :: r, w =>
    landAll id (part + 1) r
      { w with top := w.top.land id part m d, under := w.under.map (Level.land id part m d) }

/-- ORs lanes into residency mask `kr` of the current level (R109). -/
def Swarm.orMask (w : Swarm) (kr : Nat) (m : W64) : Swarm :=
  { w with top := w.top.setMask kr (w.top.mask kr ||| m) }

/-- Records a deferred fault (R114, R214): a swarm holds at most 64, and what becomes of one beyond them the spec does not say;
here it is lost (DESIGN CHOICE, log 65). -/
def Swarm.record (w : Swarm) (f : FaultRec) : Swarm :=
  if 64 ≤ w.faults.length then w
  else
    let fs := w.faults ++ [f]
    { w with faults := fs, faultsFull := w.faultsFull || fs.length ≥ 64 }

end Sys2Proof.Machine
end

