-- ==== Sys2Proof/Machine/Operands.lean ====
section
/-! DEFINITION. What an instruction reads: the environment it issues in, every operand form of Table 3.1, 32-bit and
64-bit (R38, R40, R42), scalar registers, taint (R48), and the operand checks (R41, R203, R287). -/

namespace Sys2Proof.Machine

/-- Where an instruction issues: swarm, colony, field, context, span and core. -/
structure Env where
  s : State
  i : Nat
  w : Swarm
  col : Colony
  fld : FieldSt
  ctx : Ctx
  span : Span
  core : Nat × Nat × Nat
deriving DecidableEq, Repr

/-- The core a swarm of a placed colony runs on: span position i mod c (R16). -/
def coreAt (sp : Span) (idx : Nat) : Nat × Nat × Nat :=
  (sp.die, sp.clus, sp.cores.getD (idx % (max 1 sp.cores.length)) 0)

/-- The environment of swarm `i`; none when it is not placed, its colony does not run, or it has ended. -/
def envOf (s : State) (i : Nat) : Option Env := do
  let w ← s.swarms[i]?
  let col ← s.colonies[w.colony]?
  let fld ← s.fields[col.field]?
  let ctx ← s.ctx? fld.ctx
  let sp ← col.place
  if col.status = .running && !w.ended then
    some ⟨s, i, w, col, fld, ctx, sp, coreAt sp w.idx⟩
  else none

/-- The die's cycle count (R150). -/
def Env.cycle (e : Env) : Nat :=
  match e.s.dies[e.span.die]? with
  | none => 0
  | some d => d.cycle

/-- The mask a selector names in the current level. -/
def Env.mask (e : Env) (k : KReg) : W64 := e.w.top.mask k.val

/-- Entry of a free value in place of an incomplete one (R38): occasion `fresh + j`. -/
def Env.freeVec (e : Env) (j : Nat) : List W32 := lanes fun l => Config.freeLane (e.s.fresh + j) l

/-- What a slot reads as: its data, or a free value while its producer is in flight (R38). -/
def Env.slotVal (e : Env) (j : Nat) (sl : Slot) : List W32 := if sl.busy.isSome then e.freeVec j else lanes (el sl.data)

/-- The slot an operand names; none for a special operand. -/
def Env.slot? (e : Env) : Operand → Option Slot
  | .age n => e.w.top.queue[n.val]?
  | .frame n => e.w.top.win[n.val]?
  | _ => none

/-- The slot of the low half of a 64-bit operand (R42). -/
def Env.slotLow? (e : Env) : Operand → Option Slot
  | .age n => e.w.top.queue[n.val + 1]?
  | .frame n => e.w.top.win[n.val + 1]?
  | _ => none

/-- Value of a special operand in a lane (R20, Table 3.1). -/
def Env.special (e : Env) (o : Operand) (l : Nat) : W32 :=
  match o with
  | .lane => BitVec.ofNat 32 l
  | .swarm => BitVec.ofNat 32 e.w.idx
  | .stage => BitVec.ofNat 32 e.w.stage
  | _ => 0

/-- A 32-bit operand. `j` numbers the read within the instruction. -/
def Env.read (e : Env) (j : Nat) (o : Operand) : List W32 :=
  match o with
  | .age _ | .frame _ =>
    match e.slot? o with
    | none => splat 0
    | some sl => e.slotVal j sl
  | _ => lanes (e.special o)

/-- A 64-bit operand: high half at the named code, low half at the next; a special operand is zero-extended (R42). -/
def Env.read64 (e : Env) (j : Nat) (o : Operand) : List W64 :=
  match o with
  | .age _ | .frame _ =>
    let hi := e.read j o
    let lo := match e.slotLow? o with
      | none => splat 0
      | some sl => e.slotVal (j + 8) sl
    laneList.map fun l => join64 (el hi l) (el lo l)
  | _ => laneList.map fun l => join64 0 (e.special o l)

/-- An operand of one or two entries as 64-bit lanes, a 32-bit one zero-extended. -/
def Env.readW (e : Env) (j : Nat) (wide : Bool) (o : Operand) : List W64 :=
  if wide then e.read64 j o else laneList.map fun l => (el (e.read j o) l).setWidth 64

/-- Taint of an operand; special operands carry none (R40, R48). -/
def Env.taint (e : Env) (wide : Bool) (o : Operand) : Bool :=
  let t := fun (x : Option Slot) => match x with
    | none => false
    | some sl => sl.taint
  t (e.slot? o) || (wide && t (e.slotLow? o))

/-- The operand `k` codes further on in its row (R303, R305, R344). -/
def opShift (o : Operand) (k : Nat) : Operand :=
  match o with
  | .age n => .age (Fin.ofNat 64 (n.val + k))
  | .frame n => .frame (Fin.ofNat 320 (n.val + k))
  | _ => o

/-- A scalar register; a free value while its producer is in flight (R38). -/
def Env.scalar (e : Env) (j n : Nat) : W64 :=
  if e.w.sBusy n then Config.freeWord (e.s.fresh + j) else e.w.sget n

/-- What an instruction reads, for the checks of class 4 and 5. -/
inductive Rd
  | vec (o : Operand) (wide : Bool)
  | sc (n : Nat)
deriving DecidableEq, Repr

/-- AGEOOR: age at or beyond D (R40, R42). -/
def Env.ageBad (e : Env) : Rd → Bool
  | .vec (.age n) wide => n.val + wide.toNat ≥ e.w.top.depth
  | _ => false

/-- FRAMEOOR: slot outside the window (R40, R42). -/
def Env.frameBad (e : Env) : Rd → Bool
  | .vec (.frame n) wide => n.val + wide.toNat ≥ e.w.top.win.length
  | _ => false

/-- STALLCHK: the producer has not completed (R203). -/
def Env.rdBusy (e : Env) : Rd → Bool
  | .vec o wide =>
    let b := fun (x : Option Slot) => match x with
      | none => false
      | some sl => sl.busy.isSome
    b (e.slot? o) || (wide && b (e.slotLow? o))
  | .sc n => e.w.sBusy n

/-- The register holds an uncorrectable error (R219). -/
def Env.rdBad (e : Env) : Rd → Bool
  | .vec o wide =>
    let b := fun (x : Option Slot) => match x with
      | none => false
      | some sl => sl.bad
    b (e.slot? o) || (wide && b (e.slotLow? o))
  | .sc n => e.w.badScalars.contains n

/-- INFO of an operand trap (Table 14.3). -/
def Rd.info : Rd → Nat
  | .vec o _ => opndCode o
  | .sc n => 0x400 + n

/-- Classes 3 and 4 of R209 that depend on the swarm: ILLOP cause 5 for a scalar beyond the declared count, then AGEOOR,
then FRAMEOOR (R41). Where several operands fail one check, the spec does not say whose code INFO holds: here it is the first
in the order of the instruction's fields (DESIGN CHOICE, log 66). -/
def Env.oor (e : Env) (scs : List Nat) (rds : List Rd) : Option Trap :=
  if scs.any (fun n => n ≥ e.w.scalars.length) then some (.illop 5)
  else match rds.find? e.ageBad with
    | some r => some (.plain 2 0 r.info)
    | none => (rds.find? e.frameBad).map fun r => .plain 3 0 r.info

/-- Class 5: STALLCHK under SR.CHECK (R203), the first such operand in field order (log 66). -/
def Env.stall (e : Env) (rds : List Rd) : Option Trap :=
  if e.ctx.check then (rds.find? e.rdBusy).map fun r => .plain 4 0 r.info else none

/-- The operands are read: an uncorrectable error in one is consumed (R219). -/
def Env.ecc (e : Env) (rds : List Rd) : Option Trap := if rds.any e.rdBad then some .ecc else none

/-- A push of `n` entries under a mask reads the slots it overwrites when some lane is inactive (R44). -/
def Env.pushEcc (e : Env) (m : W64) (n : Nat) : Option Trap := if e.w.top.pushReads m n then some .ecc else none

/-- Classes 3 to 5 in their order, and then the reading of the operands. -/
def Env.pre (e : Env) (scs : List Nat) (rds : List Rd) : Option Trap :=
  match e.oor scs rds with
  | some t => some t
  | none =>
    match e.stall rds with
    | some t => some t
    | none => e.ecc rds

end Sys2Proof.Machine
end

