-- ==== Sys2Proof/Machine/Flags.lean ====
section
/-! DEFINITION. When an instruction may issue (R201, R285): DIST, WAIT, SETF, the holds of R39, R57, R82 and of a
pending FENCE; and when a deferred fault is reported (R114, R214). -/

namespace Sys2Proof.Machine

/-- What an instruction needs before it issues. -/
structure Need where
  /-- Entries it pushes (R39). -/
  pushes : Nat := 0
  /-- Vector results must have landed (R57). -/
  drained : Bool := false
  /-- Both sets of flags must read zero (R34, R212). -/
  flagsZero : Bool := false
  /-- No matrix operation on this tile in flight (R82). -/
  tile : Option Nat := none
  /-- A global or comb access, held behind a FENCE in flight (R160). -/
  access : Bool := false
  /-- Every earlier access must have completed (R154, R198). -/
  quiet : Bool := false
deriving DecidableEq, Repr

/-- At least max(DIST, 1) cycles since the previous issue of this placement (R201, R285). -/
def Env.distOk (e : Env) (c : Ctrl) : Bool :=
  match e.w.lastIssue with
  | none => true
  | some t => t + max c.dist.val 1 ≤ e.cycle

/-- Every flag of the WAIT mask reads zero; one that has fallen in this clock is seen from the next on (R201). -/
def Env.waitOk (e : Env) (c : Ctrl) : Bool :=
  (List.range 12).all fun n => !c.wait.val.testBit n || (e.w.flag n == 0 && !e.w.fell.contains n)

/-- The SETF flag is below 63, as this clock's issue checks see it; one also in WAIT was found zero. -/
def Env.setfOk (e : Env) (c : Ctrl) : Bool :=
  match c.setf with
  | none => true
  | some n => e.w.flag n.val + e.w.fell.count n.val < 63

/-- No operation whose latency has run out is still to land. -/
def Env.landed (e : Env) : Bool :=
  e.w.ops.all fun o => match o.due with
    | none => true
    | some d => e.cycle < d

/-- The YIELD hold is over (R387). -/
def Env.holdOk (e : Env) : Bool :=
  match e.w.hold with
  | none => true
  | some t => t ≤ e.cycle

/-- Every matrix operation accepted on this core's tile has completed (R82), also an MMA.COOP part that waits for its
other participants. -/
def Env.tileIdle (e : Env) (t : Nat) : Bool :=
  (e.s.mmas.all fun m => m.parts.all fun p => !(decide ((p.die, p.clus, p.core) = e.core) && p.tile == t))
  && e.col.coop.all fun a => match e.s.swarms[a.swarm]? with
    | none => true
    | some w => !(decide (coreAt e.span w.idx = e.core) && a.tile == t)

/-- A FENCE is in flight (R160). -/
def Swarm.fencing (w : Swarm) : Bool := w.ops.any fun o => match o.body with
  | .fence _ => true
  | _ => false

/-- An access to global memory, an object or a task queue (R196). -/
def OpBody.isAccess : OpBody → Bool
  | .load .. | .store .. | .cload .. | .cstore .. | .atom .. | .atom2 .. | .red .. | .bind .. | .rel .. | .fence ..
  | .taskPush .. | .taskPop .. => true
  | _ => false

/-- Bytes of a sync object (R151). -/
def objBytes : Nat := 64

/-- Bytes of an atomic. -/
def atomBytes (wide : Bool) : Nat := if wide then 8 else 4

/-- Bytes of a memory type (Table 20.6). -/
def mtBytes : MT → Nat
  | .s8 | .n8 => 1
  | .s16 | .n16 => 2
  | .w32 => 4
  | .w64 => 8

/-- Bytes an access touches: (first byte, length). -/
def OpBody.span : OpBody → List (Nat × Nat)
  | .load mt _ m vas _ _ | .store mt m vas _ _ => (lanesOf m).map fun l => (vas.getD l 0, mtBytes mt)
  | .cload mt va _ | .cstore mt va _ => [(va, mtBytes mt)]
  | .atom _ wide m vas _ _ _ _ | .red _ wide m vas _ _ => (lanesOf m).map fun l => (vas.getD l 0, atomBytes wide)
  | .atom2 _ wide m v1 v2 .. => (lanesOf m).flatMap fun l => [(v1.getD l 0, atomBytes wide), (v2.getD l 0, atomBytes wide)]
  | .bind va _ | .rel _ va => [(va, objBytes)]
  | _ => []

/-- Two byte ranges share a byte. -/
def meets (a b : Nat × Nat) : Bool := decide (a.1 < b.1 + b.2) && decide (b.1 < a.1 + a.2)

/-- An operation that every Acq of its swarm comes after while it is in flight: a REL (R162), or a TASK.POP, which may return a pair
(R196, R361). -/
def OpBody.acqAfter : OpBody → Bool
  | .rel .. | .taskPop .. => true
  | _ => false

/-- No access of the swarm is in flight. -/
def Swarm.quiet (w : Swarm) : Bool := w.ops.all fun o => !o.body.isAccess

/-- Both sets of flags read zero, as this clock's issue checks see them (R34, R212). -/
def Swarm.allFlagsZero (w : Swarm) : Bool :=
  w.flags.all (· == 0) && (!w.trap.intrap || w.trap.flags.all (· == 0)) && w.fell.isEmpty

/-- The swarm is ready for this instruction (R201); a colony that is to be pre-empted issues nothing (R216). -/
def Env.ready (e : Env) (c : Ctrl) (n : Need) : Bool :=
  e.w.wait.isNone && !e.w.entering && e.col.stop.isNone && e.distOk c && e.waitOk c && e.setfOk c && e.landed && e.holdOk
  && e.w.top.canPush n.pushes
  && (!n.drained || e.w.drained)
  && (!n.flagsZero || e.w.allFlagsZero)
  && (match n.tile with
      | none => true
      | some t => e.tileIdle t)
  && (!n.access || !e.w.fencing)
  && (!n.quiet || e.w.quiet)

/-- A deferred report is owed at this instruction (R114, R214); none inside the handler (R211). `rep` marks the
reporting forms. -/
def Env.reportDue (e : Env) (c : Ctrl) (rep : Bool) : Bool :=
  !e.w.trap.intrap && !e.w.faults.isEmpty
  && (rep || e.w.faultsFull || e.w.faults.any fun f => match f.flag with
        | none => false
        | some n => c.wait.val.testBit n.val)

/-- Recorded faults are reported in issue order, then ascending cause (R114). -/
def faultBefore (a b : FaultRec) : Bool := a.order < b.order || (a.order == b.order && a.cause < b.cause)

/-- The next record to report. -/
def firstFault : List FaultRec → Option FaultRec
  | [] => none
  | f :: r =>
    match firstFault r with
    | none => some f
    | some g => if faultBefore g f then some g else some f

/-- The PERMFLT trap of a record (R114, Table 14.3). -/
def FaultRec.trap (f : FaultRec) : Trap :=
  ⟨10, f.cause, lowLane f.lanes, f.lanes, BitVec.ofNat 64 f.va, some f.pc, true⟩

/-- Takes the first record out of the swarm. -/
def Swarm.dropFault (w : Swarm) (f : FaultRec) : Swarm :=
  let fs := w.faults.erase f
  { w with faults := fs, faultsFull := w.faultsFull && !fs.isEmpty }

end Sys2Proof.Machine
end

