-- ==== Sys2Proof/Machine/Issue.lean ====
section
/-! DEFINITION. The issue of one instruction (R201, R208, R209, R285): readiness, the deferred report, the checks of
its entry in their order, and then either a trap with none of its effects, or its effects, its flag and the pc. -/

namespace Sys2Proof.Machine

/-- What an instruction's entry answers at issue. -/
inductive Act
  /-- A precise trap (R208). -/
  | trap (t : Trap)
  /-- A precise trap whose refusal the home port has logged (R116). -/
  | trapIn (s : State) (t : Trap)
  /-- Held: it does not issue now. -/
  | hold
  /-- It issues: the state with its effects, the operation it leaves in flight with its fixed latency if it has one,
  and the next pc when that is not the next word. -/
  | go (s : State) (op : Option (OpBody × Option Nat)) (pc : Option (BitVec 52))
deriving DecidableEq, Repr

/-- The issuing swarm afterwards: pc, DIST start, counter, and the operation in flight with its flag (R201, R285); `ref` is the
reference cycle (R233). -/
def Swarm.issued (w : Swarm) (c : Ctrl) (cycle ref : Nat) (op : Option (OpBody × Option Nat))
    (pc : Option (BitVec 52)) : Swarm :=
  let w1 := { w with pc := pc.getD (w.pc + 8), lastIssue := some cycle, readyCount := 0, hold := none }
  match op with
  | none => w1
  | some (b, lat) =>
    let o : Op := ⟨w.nextOp, w.pc, c.setf, false, lat.map (cycle + ·), ref, b⟩
    { w1 with ops := w1.ops ++ [o], nextOp := w.nextOp + 1 }.incFlag c.setf

/-- Free values used by one issue. -/
def freshPerIssue : Nat := 256

/-- Completes an issue. -/
def finishIssue (e : Env) (c : Ctrl) (s : State) (op : Option (OpBody × Option Nat)) (pc : Option (BitVec 52)) : State :=
  { s with fresh := s.fresh + freshPerIssue }.updSwarm e.i fun w => w.issued c e.cycle s.ioCycle op pc

/-- The PERMFLT report of the first recorded fault (R114). -/
def reportFault (e : Env) : State :=
  match firstFault e.w.faults with
  | none => e.s
  | some f => takeTrap e.i f.trap e.w.pc (e.s.updSwarm e.i fun w => w.dropFault f)

/-- A trap found at issue is taken; an uncorrectable error of an operand is consumed by the colony instead (R219). -/
def trapAt (e : Env) (t : Trap) (s : State) : State :=
  if t = .ecc then s.consumeBy e.w.colony (some e.i) else takeTrap e.i t e.w.pc s

/-- One issue by the swarm at `cur`. `rep` marks a reporting form; `post` runs after the effects (the waits that they
release). -/
def issueWith (post : State → State) (c : Ctrl) (n : Need) (rep : Bool) (f : Env → Act) (s : State) :
    Host.Outcome State Fault Refusal :=
  match envOf s s.cur with
  | none => .refused .noSwarm
  | some e =>
    if !e.ready c n then .refused .notReady
    else if e.reportDue c rep then .next (reportFault e)
    else match f e with
      | .trap t => .next (trapAt e t s)
      | .trapIn s' t => .next (takeTrap e.i t e.w.pc s')
      | .hold => .refused .notReady
      | .go s' op pc => .next (post (finishIssue e c s' op pc))

/-- An issue that releases nobody. -/
def issue (c : Ctrl) (n : Need) (rep : Bool) (f : Env → Act) (s : State) : Host.Outcome State Fault Refusal :=
  issueWith id c n rep f s

/-- Runs the checks: the first trap that applies, or else the effect. -/
def orTrap (t : Option Trap) (k : Unit → Act) : Act :=
  match t with
  | some t => .trap t
  | none => k ()

/-- A check that raises a trap when it fails. -/
def check (bad : Bool) (t : Trap) : Option Trap := if bad then some t else none

/-- The first trap of a list of checks. -/
def firstTrap (l : List (Option Trap)) : Option Trap := l.findSome? id

/-- One pushed entry: its mask, taint and data. -/
structure Push where
  mask : W64
  taint : Bool
  data : List W32
deriving DecidableEq, Repr

/-- A run of pushes reads a poisoned slot it overwrites (R44). -/
def Level.pushAllReads : List Slot → List Push → Bool
  | sl :: r, p :: ps => (p.mask != allLanes && sl.bad) || Level.pushAllReads r ps
  | _, _ => false

/-- Pushes entries, in order, that operation `id` will write (R38, R43). -/
def Level.pushAll (lv : Level) (id : Nat) : List Push → Nat → Level
  | [], _ => lv
  | p :: r, part => (lv.push p.mask p.taint (some (id, part))).pushAll id r (part + 1)

/-- An instruction that pushes entries with a fixed latency; the slots keep their old elements until the results land
(R38, R43). -/
def pushEntries (e : Env) (ps : List Push) (scs : List (Nat × W64)) (km : Option (Nat × W64)) (lat : Option Nat) : Act :=
  if Level.pushAllReads e.w.top.queue.reverse ps then .trap .ecc
  else .go (e.s.updSwarm e.i fun w => { w with top := w.top.pushAll w.nextOp ps 0 })
    (some (.result (ps.map fun p => (p.mask, p.data)) scs km none, lat)) none

/-- The usual case: every entry under one mask, with one taint. -/
def pushes (e : Env) (mask : W64) (taint : Bool) (vecs : List (List W32)) (lat : Option Nat) : Act :=
  pushEntries e (vecs.map fun v => ⟨mask, taint, v⟩) [] none lat

/-- A scalar result with a fixed latency. -/
def scalarResult (e : Env) (writes : List (Nat × W64)) (lat : Option Nat) : Act :=
  .go e.s (some (.result [] writes none none, lat)) none

/-- A mask result with a fixed latency. -/
def maskResult (e : Env) (kd : Nat) (v : W64) (lat : Option Nat) : Act :=
  .go e.s (some (.result [] [] (some (kd, v)) none, lat)) none

/-- Pushes slots that a variable-latency operation will fill (R38): `n` entries under a mask. -/
def pushSlots (e : Env) (mask : W64) (taint : Bool) (n : Nat) (s : State) : State :=
  s.updSwarm e.i fun w =>
    { w with top := (List.range n).foldl (fun lv p => lv.push mask taint (some (w.nextOp, p))) w.top }

end Sys2Proof.Machine
end

