-- ==== Sys2Proof/Machine/Wait.lean ====
section
/-! DEFINITION. Wait targets (R25-R29): legality (R26, R27), when a wait is satisfied and what it then does (R127, R131,
R137, R143, R155, R180, R198, R200), its row and INFO (Table 14.3), its releasers (Table 2.5), and `settle`, which
performs every wait that has become satisfied, in ascending swarm index (R144). -/

namespace Sys2Proof.Machine

/-! ### Legality -/

/-- Where a wait's target is (Table 2.6). -/
inductive Target
  | own
  /-- Another colony, already admitted, whose field is reserved. -/
  | reserved
  | other
deriving DecidableEq, Repr

/-- Table 2.6: class 0 CONC, 1 PAR, else WEAK. -/
def legalWait (cls : Nat) (t : Target) (allMember : Bool) : Bool :=
  if cls = 0 then true
  else if cls = 1 then t != .other
  else t = .own && allMember

/-- The ILLWAIT trap (R27). -/
def illWait (ok : Bool) : Option Trap := check (!ok) (.plain 7 0 0)

/-! ### Reading at the home -/

/-- A read at the home: the state after its walk, the data or what stopped it, and the page's C bit. -/
def State.readHome (s : State) (asid va n : Nat) : State × Res × Bool :=
  if s.holds asid va false then (s, .held, true)
  else match s.translate asid va false with
  | (s1, .nonres) => (s1, .nonres, true)
  | (s1, .err) => (s1, .fault 2, true)
  | (s1, .held) => (s1, .held, true)
  | (s1, .ok m) =>
    let pa := m.paOf va
    if s1.poisoned pa n then (s1, .poison, m.c)
    else
      let s2 := State.combine pa n s1.upd.length s1
      (s2, .ok (s2.physRead pa n), m.c)

/-- A read of at most two pages: done when both parts are. -/
def State.readAcross (s : State) (asid va n : Nat) : State × Res :=
  let k := min n (pageLeft va)
  match s.readHome asid va k with
  | (s1, .ok bs, _) =>
    if k = n then (s1, .ok bs)
    else match s1.readHome asid (va + k) (n - k) with
      | (s2, .ok cs, _) => (s2, .ok (bs ++ cs))
      | (s2, r, _) => (s2, r)
  | (s1, r, _) => (s1, r)

/-- Words of 64 bits read at the home, one by one; none where a page is not readable. -/
def State.readWords (asid : Nat) : Nat → Nat → State → State × Option (List Nat)
  | _, 0, s => (s, some [])
  | va, n + 1, s =>
    match s.readHome asid va 8 with
    | (s1, .ok bs, _) =>
      match State.readWords asid (va + 8) n s1 with
      | (s2, some ws) => (s2, some (leNat bs :: ws))
      | (s2, none) => (s2, none)
    | (s1, _, _) => (s1, none)

/-! ### Reserving loops: waves (R174, R175, R180) -/

/-- The signature of a line (R175). -/
def sig (va : Nat) : Nat := Nat.xor (Nat.xor (fld va 6 14) (fld va 20 14)) (Nat.xor (fld va 34 14) (fld va 48 4))

/-- A pending or admitted lane with where it is. -/
structure Item where
  item : Nat
  sw : Nat
  lane : Nat
  claims : List Nat
deriving DecidableEq, Repr

/-- The lanes of colony `j` that hold an item, admitted or pending. -/
def State.items (s : State) (j : Nat) (admitted : Bool) : List Item :=
  (s.swarmsOf j).flatMap fun i =>
    match s.swarms[i]? with
    | none => []
    | some w => w.lanes.zipIdx.filterMap fun p =>
      match p.1.item with
      | none => none
      | some x => if p.1.admitted = admitted then some ⟨x, i, p.2, p.1.claims⟩ else none

/-- Two claim lists share a signature (R175). -/
def conflicts (a b : List Nat) : Bool := a.any b.contains

/-- Inserts by item index. -/
def insItem (x : Item) : List Item → List Item
  | [] => [x]
  | y :: r => if x.item ≤ y.item then x :: y :: r else y :: insItem x r

/-- Items in ascending index. -/
def sortItems (l : List Item) : List Item := l.foldr insItem []

/-- The lowest pending item of the colony. -/
def State.lowItem (s : State) (j : Nat) : Option Item := (sortItems (s.items j false)).head?

/-- Claims of the waves in flight. -/
def State.flightClaims (s : State) (j : Nat) : List Nat := (s.items j true).flatMap Item.claims

/-- Claims in use (R174). -/
def State.claimsUsed (s : State) (j : Nat) : Nat :=
  ((s.items j true ++ s.items j false).map fun x => x.claims.length).sum

/-- The lowest pending item is this swarm's and conflicts with a wave in flight (R180). -/
def State.lowBlocked (s : State) (j i : Nat) : Bool :=
  match s.lowItem j with
  | none => false
  | some x => x.sw == i && conflicts x.claims (s.flightClaims j)

/-- The items a new wave admits, in ascending index (R180). -/
def admits (flight : List Nat) (low : Option Item) : List Item → List Nat → List Item
  | [], _ => []
  | x :: r, taken =>
    let isLow := match low with
      | none => false
      | some y => x.item == y.item
    let lowClaims := match low with
      | none => []
      | some y => y.claims
    if conflicts x.claims (taken ++ flight) || (!isLow && conflicts x.claims lowClaims) then
      admits flight low r taken
    else x :: admits flight low r (taken ++ x.claims)

/-- Marks lanes admitted. -/
def Swarm.admitLanes (w : Swarm) (ls : List Nat) : Swarm :=
  { w with
    wave := true
    lanes := w.lanes.zipIdx.map fun p => if ls.contains p.2 then { p.1 with admitted := true } else p.1 }

/-- The lanes that a wave of swarm `i` would admit now (R180). -/
def State.waveLanes (s : State) (j i : Nat) : List Nat :=
  (admits (s.flightClaims j) (s.lowItem j) (sortItems ((s.items j false).filter fun x => x.sw == i)) []).map Item.lane

/-- A wave formed now would admit a lane. -/
def State.waveAdmits (s : State) (j i : Nat) : Bool := !(s.waveLanes j i).isEmpty

/-- Forms a wave of swarm `i` on core `k` (R180): kD, the admitted lanes, and ACQ when any was admitted. -/
def State.formWave (s : State) (j i kd asid : Nat) (k : Nat × Nat × Nat) : State :=
  let ls := s.waveLanes j i
  let s1 := s.updSwarm i fun w =>
    let w1 := w.admitLanes ls
    { w1 with top := w1.top.setMask kd (maskOf fun l => ls.contains l) }
  if ls.isEmpty then s1 else s1.acqLines k asid

/-! ### Rows, INFO and releasers -/

/-- The row of Table 2.5: CAUSE of STARVE. A ring arrival held by distance alone is row 3; one that its pending token holds waits on
the barrier (R307). -/
def WaitKind.row (c : Colony) (ns : List Nat) (st : Nat) : WaitKind → Nat
  | .barGen .. | .barToken .. | .ringWait _ | .ringToken .. => 1
  | .ringGen b _ =>
    match c.ringOf b with
    | none => 1
    | some (_, r) => if ringHold ns r (c.bar b) st = .distance then 3 else 1
  | .comb _ => 2
  | .timeline .. => 4
  | .acq .. => 5
  | .lwait .. => 6
  | .launch .. => 7
  | .rsvWave _ => 8

/-- INFO of a STARVE trap (Table 14.3). -/
def WaitKind.info (s : State) (j : Nat) (c : Colony) (row : Nat) : WaitKind → Nat
  | .barGen b _ | .barToken b _ _ | .ringWait b => b
  | .ringGen b _ | .ringToken b _ _ =>
    if row = 3 then (match (c.bar b).ring with
      | none => b
      | some k => k)
    else b
  | .comb a => a.cells.headD 0 * 16
  | .timeline sel _ => tlSelCode sel
  | .acq _ va _ => va
  | .lwait va _ _ => va
  | .launch _ _ => 0
  | .rsvWave _ => match s.lowItem j with
    | none => 0
    | some x => x.item

/-- Colonies of a field id within a context. -/
def State.colsOfField (s : State) (ctx id : Nat) : List Nat :=
  (s.colonies.zipIdx.filter fun p => match s.fields[p.1.field]? with
    | none => false
    | some f => f.ctx == ctx && f.id == id).map Prod.snd

/-- Engine arrivals are still to come at a barrier (Table 2.5). -/
def Bar.owesEngine (b : Bar) : Bool := decide (b.eArr < b.e)

/-- Whom a first expiry raises (Table 2.5). A raise of engines changes nothing that the spec defines. -/
def State.releasers (s : State) (i : Nat) (k : WaitKind) : List Releaser :=
  match envOf s i with
  | none => []
  | some e =>
    let j := e.w.colony
    let live := (s.swarmsOf j).filter fun x => match s.swarms[x]? with
      | none => false
      | some w => !w.ended
    let those := fun (p : Swarm → Bool) => (live.filter fun x => match s.swarms[x]? with
      | none => false
      | some w => p w).map Releaser.swarm
    match k with
    | .barGen b _ | .barToken b _ _ =>
      those (fun w => (e.col.bar b).token? w.idx != some (e.col.bar b).gen.toNat)
        ++ if (e.col.bar b).owesEngine then [.engines j] else []
    | .ringWait b | .ringGen b _ | .ringToken b _ _ =>
      match e.col.ringOf b with
      | none => live.map Releaser.swarm
      | some (_, r) =>
        let slow := ((List.range r.rs).filter (e.w.stage < ·)).foldl
          (fun m l => if ahead (r.ptr m) (r.ptr l) || m = e.w.stage then l else m) e.w.stage
        if k.row e.col e.fld.desc.stages e.w.stage = 3 then those fun w => w.stage == slow
        else those (fun w => (e.col.bar b).token? w.idx != some (r.ptr w.stage)) ++ [.engines j]
    | .comb _ => live.map Releaser.swarm ++ [.engines j]
    | .timeline .. | .launch .. => [.engines j]
    | .acq _ va _ =>
      match s.peekWord e.ctx.asid (va + 24) with
      | none => []
      | some w3 => ((s.colsOfField e.ctx.handle (fld w3 32 32)).filter fun j => match s.colonies[j]? with
          | none => false
          | some c => c.index == fld w3 16 16).map Releaser.colony
    | .lwait va _ _ =>
      (s.colonies.zipIdx.filter fun p => match s.fields[p.1.field]? with
        | none => false
        | some f => f.ctx == e.ctx.handle && f.recVa == va && f.live && p.1.status != .retired).map fun p =>
          Releaser.colony p.2
    | .rsvWave _ => those Swarm.wave

/-- Whom the waits of a swarm raise: the one it is blocked in, and one that a STARVE trap has set aside (R29). -/
def Swarm.raises (w : Swarm) : List Releaser := w.wait.toList.flatMap Wait.raises ++ w.starved.toList.flatMap Wait.raises

/-- Some swarm's expired wait raises swarm `x` (R29). -/
def State.raised (s : State) (x : Nat) : Bool :=
  match s.swarms[x]? with
  | none => false
  | some w => s.swarms.any fun v => v.raises.contains (.swarm x) || v.raises.contains (.colony w.colony)

/-- Colony `j` holds raised priority: itself, or by one of its swarms (R207). -/
def State.raisedCol (s : State) (j : Nat) : Bool :=
  s.swarms.any fun v => v.raises.any fun r => match r with
    | .colony k => k == j
    | .swarm x => (match s.swarms[x]? with
      | none => false
      | some w => w.colony == j)
    | .engines _ => false

/-- The wait is over or given up: nothing is raised for it any more, and LEVEL reads 0 (R29). -/
def Swarm.calm (w : Swarm) : Swarm := { w with wait := none, starveLevel := 0 }

/-- The wait raises nobody. -/
def Wait.lower (wt : Wait) : Wait := { wt with raises := [] }

/-- The target of the swarm's wait, or of one that STARVE set aside, has been released: nobody is raised for it any more (R29). -/
def Swarm.lower (now aside : Bool) (w : Swarm) : Swarm :=
  { w with
    wait := if now then w.wait.map Wait.lower else w.wait
    starved := if aside then w.starved.map Wait.lower else w.starved }

/-- A colony that was to lend does not (R269): it issues again when it had stopped for it. -/
def Colony.untold (c : Colony) : Colony :=
  { c with lent := false, toldBy := none, stop := if c.stop = some .lending && c.status = .running then none else c.stop }

/-- The colony has been told to lend and has not been saved: it gives that up (R269). -/
def Colony.keep (c : Colony) : Colony := if c.lent && c.status == .running then c.untold else c

/-- A wait of colony `j` has completed: a lending it had been told to make is abandoned (R269). -/
def State.unlend (s : State) (j : Nat) : State := s.updColony j Colony.keep

/-! ### Performing a wait -/

/-- The wait of swarm `i` ends: its operation completes, its flag counts down, LEVEL returns to 0 (R29). -/
def State.endWait (s : State) (i : Nat) : State :=
  match s.swarms[i]? with
  | none => s
  | some w =>
    match w.wait with
    | none => s
    | some wt =>
      let w1 := match w.ops.find? fun o => o.id == wt.op with
        | none => w
        | some o => w.endOp o
      (s.updSwarm i fun _ => w1.calm).unlend w.colony

/-- A barrier wait returns with a status (R131, R132). -/
def State.endBar (s : State) (i b : Nat) (consume : Bool) (stat : Nat) : State :=
  match s.swarms[i]? with
  | none => s
  | some w =>
    let s1 := if consume then s.updColony w.colony fun c => c.updBar b fun x => x.dropToken w.idx else s
    (s1.updSwarm i fun w => { w with barstat := stat }).endWait i

/-- The barrier a wait is on, and whether its return consumes a token. Whether a BAR.WAIT on a ring barrier consumes the pending
token R137 does not say: here it keeps it (DESIGN CHOICE, log 67). -/
def WaitKind.bar? : WaitKind → Option (Nat × Bool)
  | .barGen b _ | .ringGen b _ => some (b, true)
  | .barToken b _ _ | .ringToken b _ _ | .ringWait b => some (b, false)
  | _ => none

/-- The wait is on a barrier that BAR.INVAL has made invalid (R132). -/
def Env.invalidated (e : Env) (k : WaitKind) : Option (Nat × Bool) :=
  match k.bar? with
  | none => none
  | some (b, x) => if (e.col.bar b).valid then none else some (b, x)

/-- Replaces the body of an operation in flight, now with a fixed latency. -/
def Swarm.landOp (w : Swarm) (id due : Nat) (b : OpBody) : Swarm :=
  { w with ops := w.ops.map fun o => if o.id == id then { o with body := b, due := some due } else o }

/-- The effect of a comb access in its cycle (R125-R127): its result, the colony afterwards. -/
def Colony.combPerform (c : Colony) (now : Nat) (take fill : Bool) : CombAccess → List W32 × Colony
  | .load t m a =>
    let x := CombAccess.load t m a
    (c.combLoad m a, if take then x.cells.foldl (Colony.setCell false) c else c)
  | .store m a d =>
    let x := CombAccess.store m a d
    let c1 := c.combStore now m a d
    ([], if fill then x.cells.foldl (Colony.setCell true) c1 else c1)

/-- Latency of a comb access (R124): bank clocks, and 12 more for a load. -/
def CombAccess.clocks (hash : Nat) (x : CombAccess) : Nat :=
  bankClocks hash x.cells + (match x with
    | .load .. => 12
    | .store .. => 0)

/-- Body of a comb access that has performed. -/
def CombAccess.result (x : CombAccess) (v : List W32) : OpBody :=
  match x with
  | .load _ m _ => .result [(m, v)] [] none none
  | .store .. => .result [] [] none none

/-- Swarms have accessed these cells of colony `j` in this clock (Table 7.9, R146). -/
def State.touchCells (s : State) (j : Nat) (cells : List Nat) : State :=
  { s with clk := { s.clk with cells := cells.map (fun c => (j, c)) ++ s.clk.cells } }

/-- A blocked comb access performs (R127). -/
def performComb (e : Env) (wt : Wait) (x : CombAccess) (s : State) : State :=
  if e.col.combPoisoned x then s.consumeBy e.w.colony (some e.i)
  else
    let take := match x with
      | .load t _ _ => t
      | .store .. => false
    let (v, c1) := e.col.combPerform e.cycle take true x
    ((s.updColony e.w.colony fun _ => c1).updSwarm e.i fun w =>
      (w.landOp wt.op (e.cycle + x.clocks e.fld.desc.hash) (x.result v)).calm).touchCells e.w.colony x.cells

/-- SR.NONRES.NR of a swarm is set in this clock (R109, R359). -/
def State.setNonres (s : State) (i : Nat) : State :=
  { s.updSwarm i fun w => { w with nonres := true } with clk := { s.clk with nonres := i :: s.clk.nonres } }

/-- ACQ's effect on the core's bound lines at a scope (R155). -/
def Env.acquire (e : Env) (sc : Nat) (s : State) : State :=
  if sc = 0 then s else s.acqLines e.core e.ctx.asid

/-- The wait of a joined record is over (R200): its STATUS, when STATUS is at least 2 or DONE has reached the goal. -/
def Env.joined (e : Env) (va n : Nat) : Option Nat :=
  match e.s.peekWord e.ctx.asid (va + 40), e.s.peekWord e.ctx.asid (va + 48) with
  | some w5, some done =>
    let st := Sys2Proof.fld w5 56 8
    let goal := if n > 0 then n else Sys2Proof.fld w5 0 32
    if st ≥ 2 || (st = 1 && done ≥ goal) then some st else none
  | _, _ => none

/-- An operation of the swarm is in flight that an Acq comes after: a REL (R162), a TASK.POP, which may return a pair (R196, R361),
or an access of these bytes of the target, when it has some (Table 9.4: the swarm's own store to the object). -/
def Swarm.acqHeld (w : Swarm) (target : Option (Nat × Nat)) : Bool :=
  w.ops.any fun o => o.body.acqAfter || target.any fun t => o.body.span.any (meets t)

/-- Bytes of global memory as the swarm sees them: a restartable colony's buffered ones over memory's (R220). -/
def Env.seen (e : Env) (va : Nat) (bs : List Byte) : List Byte := e.s.overlayOf e.w.colony va bs

/-- SEQ of a sync object has reached the target (R155). -/
def Env.released (e : Env) (va n : Nat) : Bool :=
  match e.s.peek e.ctx.asid va 8 with
  | none => false
  | some bs => n ≤ leNat (e.seen va bs)

/-- An arrival whose token no longer holds it back: it is counted, and the `.wait` form goes on to its wait; the other form is
released with BARSTAT 0 (R131). -/
def performToken (e : Env) (wt : Wait) (b : Nat) (andWait : Bool) (next : Nat → WaitKind) (s : State) : State :=
  let s1 := s.updColony e.w.colony fun c => c.arrive e.fld.desc.stages b e.w.idx e.w.stage
  if andWait then
    let t := e.col.genOf b e.w.stage
    s1.updSwarm e.i fun w => { w with wait := some { wt with kind := next t, timer := 0, raises := [] }, starveLevel := 0 }
  else (s1.updSwarm e.i fun w => { w with barstat := 0 }).endWait e.i

/-- Enters a launch record (R198): its number goes to sD. -/
def enqueueLaunch (e : Env) (va d : Nat) (s : State) : State :=
  (s.updColony e.w.colony fun c => { c with launchQ := c.launchQ ++ [va], launchIssued := c.launchIssued + 1 }).updSwarm e.i
    fun w => w.sset d (BitVec.ofNat 64 (e.col.launchIssued + 1))

/-- The target of a wait has been released (R127, R131, R132, R137, R143, R155, R180, R198, R200). -/
def Env.targetFree (e : Env) (k : WaitKind) : Bool :=
  (e.invalidated k).isSome || match k with
    | .barGen b t | .ringGen b t | .barToken b t _ | .ringToken b t _ => ahead (e.col.genOf b e.w.stage) t
    | .ringWait b => e.col.aheadAll b e.w.stage
    | .comb x => e.col.combReady x
    | .timeline sel target => (e.col.timeline sel).toNat ≥ target
    | .acq _ va n => e.released va n
    | .launch .. => e.col.launchQ.length < 4
    | .lwait va n _ => (e.joined va n).isSome
    | .rsvWave _ => !e.s.lowBlocked e.w.colony e.i

/-- What a wait does once its target has been released. -/
def Env.endOfWait (e : Env) (wt : Wait) : State :=
  match e.invalidated wt.kind with
  | some (b, x) => e.s.endBar e.i b x 1
  | none =>
  match wt.kind with
  | .barGen b _ | .ringGen b _ => e.s.endBar e.i b true 0
  | .ringWait b => e.s.endBar e.i b false 0
  | .barToken b _ aw => performToken e wt b aw (.barGen b) e.s
  | .ringToken b _ aw => performToken e wt b aw (.ringGen b) e.s
  | .comb x => performComb e wt x e.s
  | .timeline .. => (e.acquire 1 e.s).endWait e.i
  | .acq sc _ _ => (e.acquire (scopeCode sc) e.s).endWait e.i
  | .launch va d => (enqueueLaunch e va d e.s).endWait e.i
  | .lwait va n d =>
    ((e.acquire 1 e.s).updSwarm e.i fun w => w.sset d (BitVec.ofNat 64 ((e.joined va n).getD 0))).endWait e.i
  | .rsvWave kd => (e.s.formWave e.w.colony e.i kd e.ctx.asid e.core).endWait e.i

/-- The colony may still complete a wait: no pre-emption has stopped it, or one did in this very clock, in which what can perform
performs first (R216, R217, Table 7.9). -/
def Env.waitsRun (e : Env) : Bool := e.col.stop.isNone || e.s.clk.stopped.contains e.w.colony

/-- One wait: what it does if its target is released; none while it is not, or once its colony has stopped for a pre-emption. -/
def State.tryWait (s : State) (i : Nat) : Option State := do
  let e ← envOf s i
  let wt ← e.w.wait
  if e.waitsRun && e.targetFree wt.kind then some (e.endOfWait wt) else none

/-- Waits whose end keeps a place among the other events of its clock: comb accesses (R144, R146), and waves (R184). -/
def WaitKind.ordered : WaitKind → Bool
  | .comb _ | .rsvWave _ => true
  | _ => false

/-- Swarm `i` is blocked in a wait that ends in its place of the clock. -/
def State.inOrderWait (s : State) (i : Nat) : Bool :=
  match s.swarms[i]? with
  | none => false
  | some w => w.wait.any fun wt => wt.kind.ordered

/-- A wait that ends as soon as its target is released. -/
def State.tryFree (s : State) (i : Nat) : Option State := if s.inOrderWait i then none else s.tryWait i

/-- Performs satisfied waits, the lowest swarm first, until none is left; those that keep a place in the clock come in it. -/
def settleN : Nat → State → State
  | 0, s => s
  | n + 1, s =>
    match (List.range s.swarms.length).findSome? s.tryFree with
    | none => s
    | some s1 => settleN n s1

/-- Performs every satisfied wait but those that keep a place in the clock (R144). -/
def settle (s : State) : State := settleN (4 * s.swarms.length) s

/-- The wait of swarm `i` ends in its place, when its target is released. -/
def State.takeTurn (s : State) (i : Nat) : State := settle ((s.tryWait i).getD s)

/-- The issuing swarm's own wait is tried in the place of its issue. -/
def State.takeOwnTurn (s : State) : State := s.takeTurn s.cur

/-- The environment of a swarm whose colony need not stand anywhere: for what depends on the target of its wait alone. -/
def looseEnv (s : State) (i : Nat) : Option Env := do
  let w ← s.swarms[i]?
  let col ← s.colonies[w.colony]?
  let fld ← s.fields[col.field]?
  let ctx ← s.ctx? fld.ctx
  let sp := col.place.getD ⟨0, 0, []⟩
  return ⟨s, i, w, col, fld, ctx, sp, coreAt sp w.idx⟩

/-- A raise ends with the release of the target, also while the waiter cannot complete its wait: STARVE has set it aside, or its colony
is stopped or saved (R29). -/
def State.lowerRaises (s : State) (i : Nat) : State :=
  match looseEnv s i with
  | none => s
  | some e =>
    if e.w.raises.isEmpty then s
    else
      let free := fun x : Option Wait => x.any fun wt => e.targetFree wt.kind
      s.updSwarm i (Swarm.lower (free e.w.wait) (free e.w.starved))

/-- Blocks the issuing swarm: the wait names the operation about to be put in flight, and no expiry has come in it (Table 2.7). -/
def blockOn (e : Env) (k : WaitKind) (cls : Nat) (s : State) : State :=
  s.updSwarm e.i fun w => { w with wait := some ⟨k, cls, 0, w.nextOp, []⟩, starveLevel := 0 }

/-- A waiting form: it issues with its wait, and `settle` ends the wait at once when the target is released. -/
def waitOn (e : Env) (k : WaitKind) (cls : Nat) (s : State) : Act := .go (blockOn e k cls s) (some (.waiting, none)) none

end Sys2Proof.Machine
end

