-- ==== Sys2Proof/Machine/Mask.lean ====
section
/-! DEFINITION. Masks and frame slots: KCMP, mask logic, KRD, KWR, KPOP (R330-R333) and SAVE (R47, R357). -/

namespace Sys2Proof.Machine

/-- Clocks of the mask logic forms, KRD, KWR, KPOP and SAVE (Table 13.2). -/
def maskClocks : Nat := 1
/-- Clocks of KCMP (Table 13.2). -/
def kcmpClocks : Nat := 4

/-- A condition on an ordering: equal and less; integers are never unordered. -/
def cmpCond (q : CmpC) (un eq lt : Bool) : Bool :=
  match q with
  | .eq => !un && eq
  | .ne => un || !eq
  | .lt => !un && lt
  | .le => !un && (lt || eq)
  | .gt => !un && !lt && !eq
  | .ge => !un && !lt
  | .un => un

/-- A condition on integers of a width. -/
def cmpInt {n : Nat} (q : CmpC) (sgn : Bool) (a b : BitVec n) : Bool :=
  cmpCond q false (a == b) (if sgn then a.slt b else a.ult b)

/-- A condition on two codes of a float format (R330). -/
def cmpCode (q : CmpC) (f : FFmt) (x y : Nat) : Bool :=
  let a := f.decode x
  let b := f.decode y
  cmpCond q (a.isNan || b.isNan) (a.numEq b) (a.lt b)

/-- Half `k` of a packed element. -/
def halfOf (k : Nat) (v : W32) : Nat := v.toNat / 2 ^ (16 * k) % 2 ^ 16

/-- A float condition on an element: both halves of a packed one. -/
def cmpFp (q : CmpC) (t : FpT) (a b : W32) : Bool :=
  match t with
  | .f32 => cmpCode q fmtF32 a.toNat b.toNat
  | .f16x2 | .bf16x2 =>
    cmpCode q (fpFmt t) (halfOf 0 a) (halfOf 0 b) && cmpCode q (fpFmt t) (halfOf 1 a) (halfOf 1 b)

/-- An integer type is 64 bits wide. -/
def intWide : IntT → Bool
  | .s32 | .n32 => false
  | .s64 | .n64 => true

/-- An integer type is signed. -/
def intSigned : IntT → Bool
  | .s32 | .s64 => true
  | .n32 | .n64 => false

/-- A compare type is 64 bits wide. -/
def cmpWide : CmpT → Bool
  | .int t => intWide t
  | .fp _ => false

/-- The lanes in which KCMP's condition holds. -/
def kcmpMask (e : Env) (q : CmpC) (t : CmpT) (a b : Operand) : W64 :=
  match t with
  | .fp f =>
    let va := e.read 0 a
    let vb := e.read 1 b
    maskOf fun l => cmpFp q f (el va l) (el vb l)
  | .int i =>
    if intWide i then
      let va := e.read64 0 a
      let vb := e.read64 1 b
      maskOf fun l => cmpInt q (intSigned i) (el64 va l) (el64 vb l)
    else
      let va := e.read 0 a
      let vb := e.read 1 b
      maskOf fun l => cmpInt q (intSigned i) (el va l) (el vb l)

/-- KCMP (R330). -/
def execKcmp (c : Ctrl) (cond : CmpC) (t : CmpT) (ka kd : KReg) (a b : Operand) (s : State) :
    Host.Outcome State Fault Refusal :=
  issue c {} false (fun e =>
    orTrap (e.pre [] [.vec a (cmpWide t), .vec b (cmpWide t)]) fun _ =>
      maskResult e kd.val (e.mask ka &&& kcmpMask e cond t a b) (some kcmpClocks)) s

/-- A mask logic form (R331). -/
def maskLogic (c : Ctrl) (kd ka kb : KReg) (f : W64 → W64 → W64) (s : State) : Host.Outcome State Fault Refusal :=
  issue c {} false (fun e => maskResult e kd.val (f (e.mask ka) (e.mask kb)) (some maskClocks)) s

/-- KAND. -/
def execKand (c : Ctrl) (kd ka kb : KReg) (s : State) : Host.Outcome State Fault Refusal :=
  maskLogic c kd ka kb (fun a b => a &&& b) s

/-- KOR. -/
def execKor (c : Ctrl) (kd ka kb : KReg) (s : State) : Host.Outcome State Fault Refusal :=
  maskLogic c kd ka kb (fun a b => a ||| b) s

/-- KXOR. -/
def execKxor (c : Ctrl) (kd ka kb : KReg) (s : State) : Host.Outcome State Fault Refusal :=
  maskLogic c kd ka kb (fun a b => a ^^^ b) s

/-- KANDN. -/
def execKandn (c : Ctrl) (kd ka kb : KReg) (s : State) : Host.Outcome State Fault Refusal :=
  maskLogic c kd ka kb (fun a b => a &&& ~~~b) s

/-- KNOT. -/
def execKnot (c : Ctrl) (kd ka : KReg) (s : State) : Host.Outcome State Fault Refusal :=
  maskLogic c kd ka ka (fun a _ => ~~~a) s

/-- KMOV. -/
def execKmov (c : Ctrl) (kd ka : KReg) (s : State) : Host.Outcome State Fault Refusal :=
  maskLogic c kd ka ka (fun a _ => a) s

/-- KRD (R332). -/
def execKrd (c : Ctrl) (d : SReg) (ka : KReg) (s : State) : Host.Outcome State Fault Refusal :=
  issue c {} false (fun e =>
    orTrap (e.pre [d.val] []) fun _ => scalarResult e [(d.val, e.mask ka)] (some maskClocks)) s

/-- KWR (R332). -/
def execKwr (c : Ctrl) (kd : KReg) (a : SReg) (s : State) : Host.Outcome State Fault Refusal :=
  issue c {} false (fun e =>
    orTrap (e.pre [a.val] [.sc a.val]) fun _ => maskResult e kd.val (e.scalar 0 a.val) (some maskClocks)) s

/-- KPOP (R332). -/
def execKpop (c : Ctrl) (d : SReg) (ka : KReg) (s : State) : Host.Outcome State Fault Refusal :=
  issue c {} false (fun e =>
    orTrap (e.pre [d.val] []) fun _ =>
      scalarResult e [(d.val, BitVec.ofNat 64 (lanesOf (e.mask ka)).length)] (some maskClocks)) s

/-- A frame slot is taken by SAVE: its taint at once, its elements when the write lands (R47). -/
def Level.saveSlot (lv : Level) (n : Nat) (mask : W64) (taint : Bool) (busy : Nat × Nat) : Level :=
  { lv with win := lv.win.modify n fun sl => ⟨sl.data, taint || (mask != allLanes && sl.taint), some busy, false⟩ }

/-- SAVE (R47, R357). -/
def execSave (c : Ctrl) (k : KReg) (dst : Fin 320) (src : Operand) (s : State) : Host.Outcome State Fault Refusal :=
  issue c {} false (fun e =>
    orTrap (firstTrap [
      e.oor [] [.vec src false],
      check (dst.val ≥ e.w.top.win.length) (.plain 3 0 (Rd.vec (.frame dst) false).info),
      e.stall [.vec src false],
      e.ecc [.vec src false],
      -- a SAVE with an inactive lane reads the slot it writes, as a partial push does (R44)
      if e.mask k != allLanes then e.ecc [.vec (.frame dst) false] else none])
    fun _ =>
      .go (e.s.updSwarm e.i fun w =>
          { w with top := w.top.saveSlot dst.val (e.mask k) (e.taint false src) (w.nextOp, 0) })
        (some (.result [(e.mask k, e.read 0 src)] [] none none, some maskClocks)) none) s

end Sys2Proof.Machine
end

