-- ==== Sys2Proof/Machine/MemInstr.lean ====
section
/-! DEFINITION. Issue of the global memory instructions (R303-R306, R311, R313, R315, R316, R346, R347, R377, R378,
R386): addresses, checks, pushes, and the operation each leaves in flight. The operations perform in Complete.lean. -/

namespace Sys2Proof.Machine

/-- A memory type fills two entries (R42). -/
def mtWide : MT → Bool
  | .w64 => true
  | _ => false

/-- The address of each lane: sB plus the n32 address element, modulo 2^64 (R303, R377). -/
def laneVas (e : Env) (sb : SReg) (addr : Operand) : List Nat :=
  let b := (e.scalar 100 sb.val).toNat
  (e.read 0 addr).map fun a => (b + a.toNat) % 2 ^ 64

/-- Addresses from 2^52 up break R97. -/
def vaTop : Nat := 2 ^ 52

/-- BADVA with a cause over the lanes of a mask that offend (R97). -/
def badVaBy (cause : Nat) (m : W64) (vas : List Nat) (bad : Nat → Bool) : Option Trap :=
  let b := m &&& maskOf fun l => bad (vas.getD l 0)
  if b = 0 then none else some (.lanes 9 cause b (vas.getD (lowLane b) 0))

/-- BADVA cause 1, then cause 2 (R97), for accesses of `z` bytes. -/
def badVa (m : W64) (vas : List Nat) (z : Nat) : Option Trap :=
  firstTrap [badVaBy 1 m vas fun v => decide (v ≥ vaTop), badVaBy 2 m vas fun v => v % z != 0]

/-- BADVA of one address. -/
def badVa1 (va z : Nat) : Option Trap :=
  if va ≥ vaTop then some (.plain 9 1 va) else if va % z != 0 then some (.plain 9 2 va) else none

/-- VLD and VLDC (R377, R378). -/
def vecLoad (consume : Bool) (c : Ctrl) (k : KReg) (mt : MT) (sb : SReg) (addr : Operand) (kr : KReg) (s : State) :
    Host.Outcome State Fault Refusal :=
  let n := wOf (mtWide mt)
  issue c { pushes := n, access := true } false (fun e =>
    orTrap (e.pre [sb.val] [.vec addr false, .sc sb.val]) fun _ =>
      let m := e.mask k
      let vas := laneVas e sb addr
      orTrap (badVa m vas (mtBytes mt)) fun _ =>
        let t := e.taint false addr
        orTrap (e.pushEcc m n) fun _ => .go (pushSlots e m (consume || t) n e.s) (some (.load mt consume m vas kr.val t, none)) none) s

/-- VLD. -/
def execVld (c : Ctrl) (k : KReg) (mt : MT) (sb : SReg) (addr : Operand) (kr : KReg) (s : State) :
    Host.Outcome State Fault Refusal :=
  vecLoad false c k mt sb addr kr s

/-- VLDC: sets the taint of its entries (R163). -/
def execVldc (c : Ctrl) (k : KReg) (mt : MT) (sb : SReg) (addr : Operand) (kr : KReg) (s : State) :
    Host.Outcome State Fault Refusal :=
  vecLoad true c k mt sb addr kr s

/-- VST (R386). -/
def execVst (c : Ctrl) (k : KReg) (mt : MT) (sb : SReg) (addr data : Operand) (s : State) :
    Host.Outcome State Fault Refusal :=
  issue c { access := true } false (fun e =>
    orTrap (e.pre [sb.val] [.vec addr false, .vec data (mtWide mt), .sc sb.val]) fun _ =>
      let m := e.mask k
      let vas := laneVas e sb addr
      orTrap (badVa m vas (mtBytes mt)) fun _ =>
        .go e.s (some (.store mt m vas (e.readW 1 (mtWide mt) data) (e.taint false addr), none)) none) s

/-- CLD (R315, R316). -/
def execCld (c : Ctrl) (mt : MT) (d a : SReg) (s : State) : Host.Outcome State Fault Refusal :=
  issue c { access := true } false (fun e =>
    orTrap (e.pre [d.val, a.val] [.sc a.val]) fun _ =>
      let va := (e.scalar 0 a.val).toNat
      orTrap (badVa1 va (mtBytes mt)) fun _ => .go e.s (some (.cload mt va d.val, none)) none) s

/-- CST (R315, R316). -/
def execCst (c : Ctrl) (mt : MT) (d a : SReg) (s : State) : Host.Outcome State Fault Refusal :=
  issue c { access := true } false (fun e =>
    orTrap (e.pre [d.val, a.val] [.sc d.val, .sc a.val]) fun _ =>
      let va := (e.scalar 1 a.val).toNat
      orTrap (badVa1 va (mtBytes mt)) fun _ => .go e.s (some (.cstore mt va (e.scalar 0 d.val), none)) none) s

/-- BADVA cause 1 of a range (R107, R311): the base, and the last byte of a range that is not empty. -/
def badRange (base len : Nat) : Option Trap :=
  check (decide (base ≥ vaTop) || (len != 0 && decide (base + len - 1 ≥ vaTop))) (.plain 9 1 base)

/-- CINV (R107, R313). -/
def execCinv (c : Ctrl) (a b : SReg) (s : State) : Host.Outcome State Fault Refusal :=
  issue c {} false (fun e =>
    orTrap (e.pre [a.val, b.val] [.sc a.val, .sc b.val]) fun _ =>
      let base := (e.scalar 0 a.val).toNat
      let len := (e.scalar 1 b.val).toNat
      orTrap (badRange base len) fun _ => .go e.s (some (.cinv base len, none)) none) s

/-- The longest range of BULKPF (R117). -/
def bulkMax : Nat := 2 ^ 30

/-- BULKPF (R117, R311). Its length check is an ILLOP, of a lower class than STALLCHK (R209). -/
def execBulkpf (c : Ctrl) (a b : SReg) (s : State) : Host.Outcome State Fault Refusal :=
  issue c {} false (fun e =>
    let base := (e.scalar 0 a.val).toNat
    let len := (e.scalar 1 b.val).toNat
    let late := e.ctx.check && e.w.sBusy b.val
    orTrap (firstTrap [
      e.oor [a.val, b.val] [],
      check (!late && decide (len > bulkMax)) (.illop 6),
      e.stall [.sc a.val, .sc b.val],
      e.ecc [.sc a.val, .sc b.val],
      badRange base len])
    fun _ => .go e.s (some (.bulkpf base len, none)) none) s

/-! ### Atomics -/

/-- An instruction that ends restartability before it proceeds (R221): the state after the buffer's drain; held while a home holds one of
the drain's writes (R111, R112). -/
def Env.ending (e : Env) (cause : Nat) (k : State → Act) : Act :=
  if e.s.drainOk e.w.colony then k (e.s.endRestart e.w.colony cause) else .hold

/-- An ATOM (R303, R304). -/
def atomIssue (c : Ctrl) (k : KReg) (op : AtomOp) (wide : Bool) (n : Fin 8) (sb : SReg) (addr data : Operand)
    (s : State) : Host.Outcome State Fault Refusal :=
  let w := wOf wide
  let exp? := match op with
    | .cas => some (opShift data w)
    | _ => none
  issue c { pushes := w, access := true } false (fun e =>
    let rds := match exp? with
      | none => [Rd.vec addr false, .vec data wide]
      | some x => [Rd.vec addr false, .vec data wide, .vec x wide]
    orTrap (e.pre [sb.val] (rds ++ [.sc sb.val])) fun _ =>
      let m := e.mask k
      let vas := laneVas e sb addr
      orTrap (badVa m vas (4 * w)) fun _ =>
        let t := e.taint false addr
        let (ex, tx) := match exp? with
          | none => ([], false)
          | some x => (e.readW 2 wide x, e.taint wide x)
        orTrap (e.pushEcc m w) fun _ => e.ending 3 fun s1 => .go (pushSlots e m (t || e.taint wide data || tx) w s1)
          (some (.atom op wide m vas (e.readW 1 wide data) ex (8 + n.val) t, none)) none) s

/-- ATOM_ADD. -/
def execAtomAdd (c : Ctrl) (k : KReg) (wide : Bool) (n : Fin 8) (sb : SReg) (addr data : Operand) (s : State) :
    Host.Outcome State Fault Refusal :=
  atomIssue c k .add wide n sb addr data s

/-- ATOM_AND. -/
def execAtomAnd (c : Ctrl) (k : KReg) (wide : Bool) (n : Fin 8) (sb : SReg) (addr data : Operand) (s : State) :
    Host.Outcome State Fault Refusal :=
  atomIssue c k .and wide n sb addr data s

/-- ATOM_OR. -/
def execAtomOr (c : Ctrl) (k : KReg) (wide : Bool) (n : Fin 8) (sb : SReg) (addr data : Operand) (s : State) :
    Host.Outcome State Fault Refusal :=
  atomIssue c k .or wide n sb addr data s

/-- ATOM_XOR. -/
def execAtomXor (c : Ctrl) (k : KReg) (wide : Bool) (n : Fin 8) (sb : SReg) (addr data : Operand) (s : State) :
    Host.Outcome State Fault Refusal :=
  atomIssue c k .xor wide n sb addr data s

/-- ATOM_XCHG. -/
def execAtomXchg (c : Ctrl) (k : KReg) (wide : Bool) (n : Fin 8) (sb : SReg) (addr data : Operand) (s : State) :
    Host.Outcome State Fault Refusal :=
  atomIssue c k .xchg wide n sb addr data s

/-- ATOM_CAS. -/
def execAtomCas (c : Ctrl) (k : KReg) (wide : Bool) (n : Fin 8) (sb : SReg) (addr data : Operand) (s : State) :
    Host.Outcome State Fault Refusal :=
  atomIssue c k .cas wide n sb addr data s

/-- ATOM_MIN. -/
def execAtomMin (c : Ctrl) (k : KReg) (sgn wide : Bool) (n : Fin 8) (sb : SReg) (addr data : Operand) (s : State) :
    Host.Outcome State Fault Refusal :=
  atomIssue c k (if sgn then .minS else .minN) wide n sb addr data s

/-- ATOM_MAX. -/
def execAtomMax (c : Ctrl) (k : KReg) (sgn wide : Bool) (n : Fin 8) (sb : SReg) (addr data : Operand) (s : State) :
    Host.Outcome State Fault Refusal :=
  atomIssue c k (if sgn then .maxS else .maxN) wide n sb addr data s

/-- ATOM_ADD_F32. -/
def execAtomAddF32 (c : Ctrl) (k : KReg) (n : Fin 8) (sb : SReg) (addr data : Operand) (s : State) :
    Host.Outcome State Fault Refusal :=
  atomIssue c k .addF32 false n sb addr data s

/-- BADVA of two addresses per lane (R306): cause 1 over both, then alignment, then cause 3 for locations that overlap
without being equal. -/
def badVa2 (m : W64) (v1 v2 : List Nat) (z : Nat) : Option Trap :=
  let by_ := fun (cause : Nat) (bad : Nat → Bool) =>
    let b := m &&& maskOf fun l => bad (v1.getD l 0) || bad (v2.getD l 0)
    if b = 0 then none
    else
      let a := v1.getD (lowLane b) 0
      some (Trap.lanes 9 cause b (if bad a then a else v2.getD (lowLane b) 0))
  let lap := m &&& maskOf fun l =>
    let a := v1.getD l 0
    let b := v2.getD l 0
    a != b && decide (a < b + z) && decide (b < a + z)
  firstTrap [by_ 1 fun v => decide (v ≥ vaTop), by_ 2 fun v => v % z != 0,
    if lap = 0 then none else some (.lanes 9 3 lap (v1.getD (lowLane lap) 0))]

/-- ATOM2 (R168, R305, R306). -/
def atom2Issue (c : Ctrl) (k : KReg) (dcas wide : Bool) (n : Fin 8) (sb : SReg) (addr data : Operand) (s : State) :
    Host.Outcome State Fault Refusal :=
  let w := wOf wide
  let pushN := if dcas then 2 * w else w
  let vals := if dcas then [data, opShift data w, opShift data (2 * w), opShift data (3 * w)] else [data]
  issue c { pushes := pushN, access := true } false (fun e =>
    orTrap (e.pre [sb.val] ([Rd.vec addr false, .vec (opShift addr 1) false] ++ vals.map (fun o => .vec o wide)
        ++ [.sc sb.val])) fun _ =>
      let m := e.mask k
      let b := (e.scalar 100 sb.val).toNat
      let at_ := fun (j : Nat) (o : Operand) => (e.read j o).map fun a => (b + a.toNat) % 2 ^ 64
      let v2 := at_ 0 addr
      let v1 := at_ 1 (opShift addr 1)
      orTrap (badVa2 m v1 v2 (4 * w)) fun _ =>
        let t := e.taint false addr || e.taint false (opShift addr 1)
        let r := fun j : Nat => match vals[j]? with
          | none => []
          | some o => e.readW (2 + j) wide o
        orTrap (e.pushEcc m pushN) fun _ => e.ending 3 fun s1 => .go (pushSlots e m (t || vals.any fun o => e.taint wide o) pushN s1)
          (some (.atom2 dcas wide m v1 v2 (r 3) (r 2) (if dcas then r 1 else r 0) (r 0) (8 + n.val) t, none)) none) s

/-- ATOM2_DCAS. -/
def execAtom2Dcas (c : Ctrl) (k : KReg) (wide : Bool) (n : Fin 8) (sb : SReg) (addr data : Operand) (s : State) :
    Host.Outcome State Fault Refusal :=
  atom2Issue c k true wide n sb addr data s

/-- ATOM2_AMOVE. -/
def execAtom2Amove (c : Ctrl) (k : KReg) (wide : Bool) (n : Fin 8) (sb : SReg) (addr data : Operand) (s : State) :
    Host.Outcome State Fault Refusal :=
  atom2Issue c k false wide n sb addr data s

/-- A reduction without return (R346, R347). -/
def redIssue (c : Ctrl) (k : KReg) (op : AtomOp) (wide : Bool) (sb : SReg) (addr data : Operand) (s : State) :
    Host.Outcome State Fault Refusal :=
  issue c { access := true } false (fun e =>
    orTrap (e.pre [sb.val] [.vec addr false, .vec data wide, .sc sb.val]) fun _ =>
      let m := e.mask k
      let vas := laneVas e sb addr
      orTrap (badVa m vas (4 * wOf wide)) fun _ =>
        e.ending 3 fun s1 => .go s1 (some (.red op wide m vas (e.readW 1 wide data) (e.taint false addr), none)) none) s

/-- Operation of an integer RED (R292). -/
def redMemOp : RedMem → AtomOp
  | .add => .add
  | .minS => .minS
  | .minN => .minN
  | .maxS => .maxS
  | .maxN => .maxN
  | .and => .and
  | .or => .or
  | .xor => .xor

/-- RED. -/
def execRed (c : Ctrl) (k : KReg) (op : RedMem) (wide : Bool) (sb : SReg) (addr data : Operand) (s : State) :
    Host.Outcome State Fault Refusal :=
  redIssue c k (redMemOp op) wide sb addr data s

/-- RED_F32. -/
def execRedF32 (c : Ctrl) (k : KReg) (sb : SReg) (addr data : Operand) (s : State) :
    Host.Outcome State Fault Refusal :=
  redIssue c k .addF32 false sb addr data s

end Sys2Proof.Machine
end

