-- ==== Sys2Proof/Machine/CombInstr.lean ====
section
/-! DEFINITION. Comb accesses (R126, R127, R379), named barriers (R130-R132, R307, R308), rings (R135, R351) and
timelines (R143, R364, R365). -/

namespace Sys2Proof.Machine

/-! ### Comb accesses -/

/-- The comb address of each lane before ring mapping: a 64-bit sum (R379). -/
def combVas (e : Env) (sb : SReg) (addr : Operand) : List Nat := laneVas e sb addr

/-- COMBCFG with cause 6: a stage at or above RS touches a ring region (R136). -/
def ringStageBad (e : Env) (m : W64) (vas : List Nat) : Option Trap :=
  check ((lanesOf m).any fun l => match e.col.ringAt (vas.getD l 0) with
    | none => false
    | some (_, r) => decide (e.w.stage ≥ r.rs)) (.plain 0x0D 6 0)

/-- COMBOOR with a cause over the lanes that offend (R122). -/
def combOorBy (cause : Nat) (m : W64) (vas : List Nat) (bad : Nat → Bool) : Option Trap :=
  let b := m &&& maskOf fun l => bad (vas.getD l 0)
  if b = 0 then none else some (.lanes 0x0C cause b (vas.getD (lowLane b) 0))

/-- The checks of a comb access after its operands (R379). -/
def combChecks (e : Env) (m : W64) (vas : List Nat) (waits : Bool) : Option Trap :=
  firstTrap [
    ringStageBad e m vas,
    combOorBy 1 m vas fun a => decide (a ≥ e.fld.desc.combSize),
    combOorBy 2 m vas fun a => a % 4 != 0,
    illWait (!waits || (lanesOf m).all fun l => legalWait (e.col.cellClass e.fld.cls (vas.getD l 0)) .own false)]

/-- An access that waits for nothing performs at once (R124, R125). -/
def combNow (e : Env) (fill : Bool) (x : CombAccess) (s : State) : Act :=
  if e.col.combPoisoned x then .go (s.consumeBy e.w.colony (some e.i)) none none
  else
    let (v, c1) := e.col.combPerform e.cycle false fill x
    .go ((s.updColony e.w.colony fun _ => c1).touchCells e.w.colony x.cells)
      (some (x.result v, some (x.clocks e.fld.desc.hash))) none

/-- An access through a tainted address does not perform while an earlier VLDC is in flight (R163), and none does while an earlier
TASK.POP is, which may return a pair (R196): a comb access, which performs or waits from its issue on, is held until then
(log 70). -/
def Env.afterConsume (e : Env) (addr : Operand) (a : Act) : Act :=
  if e.w.ops.any (fun o => match o.body with
    | .load _ true .. => e.taint false addr
    | .taskPop .. => true
    | _ => false) then .hold
  else a

/-- VLD_COMB (R126, R127, R379). -/
def execVldComb (c : Ctrl) (k : KReg) (q : LoadQ) (sb : SReg) (addr : Operand) (s : State) :
    Host.Outcome State Fault Refusal :=
  let waits := q != .any
  issueWith State.takeOwnTurn c { pushes := 1, access := true } waits (fun e =>
    orTrap (e.pre [sb.val] [.vec addr false, .sc sb.val]) fun _ =>
      let m := e.mask k
      let vas := combVas e sb addr
      orTrap (firstTrap [combChecks e m vas waits, e.pushEcc m 1]) fun _ => e.afterConsume addr <|
        let x := CombAccess.load (q == .take) m (vas.map (e.col.mapAddr e.w.stage))
        let s1 := pushSlots e m (e.taint false addr) 1 e.s
        if waits then .go (blockOn e (.comb x) 0 s1) (some (.waiting, none)) none
        else combNow e false x s1) s

/-- VST_COMB (R126, R127, R379). -/
def execVstComb (c : Ctrl) (k : KReg) (q : StoreQ) (sb : SReg) (addr data : Operand) (s : State) :
    Host.Outcome State Fault Refusal :=
  let waits := q == .empty
  issueWith State.takeOwnTurn c { access := true } waits (fun e =>
    orTrap (e.pre [sb.val] [.vec addr false, .vec data false, .sc sb.val]) fun _ =>
      let m := e.mask k
      let vas := combVas e sb addr
      orTrap (combChecks e m vas waits) fun _ => e.afterConsume addr <|
        let x := CombAccess.store m (vas.map (e.col.mapAddr e.w.stage)) (e.read 1 data)
        if waits then .go (blockOn e (.comb x) 0 e.s) (some (.waiting, none)) none
        else combNow e (q == .fill) x e.s) s

/-! ### Barriers -/

/-- COMBCFG with cause 6 for a ring barrier used at or above RS (R308). -/
def barStageBad (e : Env) (b : Nat) : Option Trap :=
  check (match e.col.ringOf b with
    | none => false
    | some (_, r) => decide (e.w.stage ≥ r.rs)) (.plain 0x0D 6 0)

/-- Swarm arrivals per generation, as this swarm meets the barrier. -/
def barMembers (e : Env) (b : Nat) : Nat :=
  match e.col.ringOf b with
  | none => (e.col.bar b).m
  | some _ => e.fld.desc.stages.getD e.w.stage 0

/-- The class recorded for the target of a barrier wait (Table 2.5), when its class is `cls`; all-member when every swarm takes
part (R26, R307). -/
def barLegal (e : Env) (b cls : Nat) : Option Trap :=
  illWait (legalWait cls .own (barMembers e b == e.fld.desc.swarms))

/-- An arrival made now would be held by the ring's distance alone (R137). -/
def barFar (e : Env) (b : Nat) : Bool :=
  (e.col.bar b).valid && ((e.col.bar b).token? e.w.idx).isNone
  && (let c1 := e.col.arrive e.fld.desc.stages b e.w.idx e.w.stage
      match e.col.ringOf b, c1.ringOf b with
      | some (_, r), some (_, r1) =>
        r1.ptr e.w.stage == r.ptr e.w.stage && decide (ringHold e.fld.desc.stages r1 (c1.bar b) e.w.stage = .distance)
      | _, _ => false)

/-- The class of the target that a barrier form would wait on at its issue: the colony's for a ring arrival held by distance,
else the barrier's (Table 2.5). -/
def barClass (e : Env) (b : Nat) (andWait : Bool) : Nat :=
  if andWait && barFar e b then e.fld.cls else (e.col.bar b).cls

/-- The checks of the barrier forms that name a number (R308); `cls` is the class a waiting form is checked with. -/
def barChecks (e : Env) (b : Nat) (cls : Option Nat) : Option Trap :=
  firstTrap [check (decide (b ≥ e.col.bars.length)) (.illop 5), barStageBad e b, cls.bind (barLegal e b)]

/-- The barrier is in ring mode. -/
def barRing (e : Env) (b : Nat) : Bool := (e.col.ringOf b).isSome

/-- A form at an invalid barrier returns at once with STAT 1 (R131, R307). -/
def barInvalid (e : Env) : Act := .go (e.s.updSwarm e.i fun w => { w with barstat := 1 }) none none

/-- An arrival, or a block while the swarm's token is pending (R131, R137, R307). An arrival that counts without blocking leaves
SR.BARSTAT as it is (DESIGN CHOICE, log 100). -/
def barArriveAct (e : Env) (b : Nat) (andWait : Bool) : Act :=
  let bar := e.col.bar b
  if !bar.valid then barInvalid e
  else
    match bar.token? e.w.idx with
    | some t =>
      waitOn e (if barRing e b then .ringToken b t andWait else .barToken b t andWait) bar.cls e.s
    | none =>
      let t := e.col.genOf b e.w.stage
      let s1 := e.s.updColony e.w.colony fun c => c.arrive e.fld.desc.stages b e.w.idx e.w.stage
      if andWait then waitOn e (if barRing e b then .ringGen b t else .barGen b t) (barClass e b true) s1
      else .go s1 none none

/-- The form waits: `.wait`, or a pending token (R307). -/
def barWaits (e : Env) (b : Nat) (andWait : Bool) : Bool := andWait || ((e.col.bar b).token? e.w.idx).isSome

/-- BAR.ARRIVE and BAR.ARRIVE.WAIT: they follow the swarm's earlier accesses (R165). -/
def barArriveForm (andWait : Bool) (c : Ctrl) (b : Fin 32) (s : State) : Host.Outcome State Fault Refusal :=
  issueWith settle c { quiet := true } andWait (fun e =>
    orTrap (barChecks e b.val (if barWaits e b.val andWait then some (barClass e b.val andWait) else none)) fun _ => barArriveAct e b.val andWait) s

/-- BAR_ARRIVE. -/
def execBarArrive (c : Ctrl) (b : Fin 32) (s : State) : Host.Outcome State Fault Refusal := barArriveForm false c b s

/-- BAR_ARRIVE_WAIT. -/
def execBarArriveWait (c : Ctrl) (b : Fin 32) (s : State) : Host.Outcome State Fault Refusal := barArriveForm true c b s

/-- BAR_WAIT (R131, R137). -/
def execBarWait (c : Ctrl) (b : Fin 32) (s : State) : Host.Outcome State Fault Refusal :=
  issueWith settle c {} true (fun e =>
    orTrap (barChecks e b.val (some (barClass e b.val false))) fun _ =>
      let bar := e.col.bar b.val
      if !bar.valid then barInvalid e
      else if barRing e b.val then waitOn e (.ringWait b.val) bar.cls e.s
      else waitOn e (.barGen b.val ((bar.token? e.w.idx).getD bar.gen.toNat)) bar.cls e.s) s

/-- BAR_INVAL (R132): `settle` then releases every swarm blocked on the barrier with STAT 1. -/
def execBarInval (c : Ctrl) (b : Fin 32) (s : State) : Host.Outcome State Fault Refusal :=
  issueWith settle c {} false (fun e =>
    orTrap (barChecks e b.val none) fun _ =>
      .go (e.s.updColony e.w.colony fun c => c.updBar b.val Bar.inval) none none) s

/-- BARV and BAR of a copy record (Table 7.7). -/
def recBar (w : Nat) : Option Nat := if fld w 24 1 = 1 then some (fld w 19 5) else none

/-- A swarm of the colony is blocked on the barrier, also one whose wait a STARVE handler holds. -/
def barBlocked (e : Env) (b : Nat) : Bool :=
  (e.s.swarmsOf e.w.colony).any fun i => match e.s.swarms[i]? with
    | none => false
    | some w =>
      let on := fun x : Option Wait => match x with
        | none => false
        | some wt => (wt.kind.bar?.map Prod.fst) == some b
      on w.wait || on w.starved

/-- An engine operation of the barrier's epoch has not arrived (R130). -/
def barOwed (e : Env) (b : Nat) : Bool :=
  e.s.colls.any fun x => x.colony == e.w.colony && recBar x.rec_.toNat == some b && x.epoch == (e.col.bar b).epoch

/-- BARBUSY (R130). -/
def barBusy (e : Env) (b : Nat) : Option Trap := check (barBlocked e b || barOwed e b) (.plain 0x0F 0 0)

/-- The ring a barrier serves ends, and its region becomes ordinary comb (R130). -/
def Colony.endRingOf (c : Colony) (b : Nat) : Colony :=
  match (c.bar b).ring with
  | none => c
  | some k => { c with rings := c.rings.set k none }

/-- BAR.INIT's operand breaks Table 7.3 (R308). -/
def barInitBad (e : Env) (v : Nat) : Bool :=
  v / 2 ^ 34 != 0 || fld v 17 7 != 0 || fld v 5 3 != 0 || fld v 8 9 == 0 || decide (fld v 8 9 > e.fld.desc.swarms)
  || fld v 32 2 == 3 || decide (fld v 0 5 ≥ e.col.bars.length)

/-- BAR_INIT (R130, R308). What becomes of engine arrivals held for the next generation R130 does not say: here they are
discarded with the counts (DESIGN CHOICE, log 71). -/
def execBarInit (c : Ctrl) (a : SReg) (s : State) : Host.Outcome State Fault Refusal :=
  issueWith settle c {} false (fun e =>
    let v := (e.scalar 0 a.val).toNat
    let b := fld v 0 5
    let late := e.ctx.check && e.w.sBusy a.val
    orTrap (firstTrap [
      e.oor [a.val] [],
      check (!late && barInitBad e v) (.illop 6),
      e.stall [.sc a.val],
      e.ecc [.sc a.val],
      barBusy e b])
    fun _ =>
      .go (e.s.updColony e.w.colony fun c => (c.endRingOf b).updBar b fun x =>
        { Bar.clear with valid := true, cls := fld v 32 2, m := fld v 8 9, e := fld v 24 8, epoch := x.epoch })
        none none) s

/-! ### Rings -/

/-- The operand breaks a field rule (R351, cause 2). -/
def ringFieldBad (r : Ring) : Bool :=
  fld r.w0.toNat 58 6 != 0 || fld r.w1.toNat 32 32 != 0 || r.pclass == 3 || r.slot == 0 || r.slot % 16 != 0
  || r.base % 16 != 0 || decide (r.rs > r.n - 1) || (List.range 8).any fun s => decide (s ≥ r.rs) && r.eng s != 0

/-- The region overlaps another defined ring's, or its barrier is another's (R351, cause 3). -/
def ringOverlap (e : Env) (k : Nat) (r : Ring) : Bool :=
  e.col.ringList.any fun p => p.1 != k
    && ((decide (r.base < p.2.base + p.2.size) && decide (p.2.base < r.base + r.size)) || p.2.bar == r.bar)

/-- COMBCFG of RING.DEF, in the order of R351. -/
def ringChecks (e : Env) (k : Nat) (r : Ring) : Option Trap :=
  let cfg := fun (bad : Bool) (cause : Nat) => check bad (.plain 0x0D cause 0)
  firstTrap [
    cfg (decide (k ≥ e.col.rings.length)) 5,
    cfg (decide (r.bar ≥ e.col.bars.length)) 4,
    cfg (ringFieldBad r) 2,
    cfg (decide (r.base + r.size > e.fld.desc.combSize)) 1,
    cfg (ringOverlap e k r) 3,
    barBusy e r.bar]

/-- The old ring of a number leaves another barrier as BAR.INVAL does (R351). -/
def Colony.leaveRing (c : Colony) (k newBar : Nat) : Colony :=
  match c.rings.getD k none with
  | none => c
  | some r => if r.bar = newBar then c else c.updBar r.bar fun x => { x.inval with ring := none }

/-- Defines ring `k`: pointers 0, the barrier in ring mode (R135). -/
def Colony.defRing (c : Colony) (k : Nat) (r : Ring) : Colony :=
  let c1 := c.leaveRing k r.bar
  { c1.updBar r.bar fun x =>
      { Bar.clear with
        valid := true
        cls := r.pclass
        gen := x.gen
        epoch := x.epoch
        ring := some k
        stages := List.replicate 8 (0, 0, 0) } with
    rings := c1.rings.set k (some r) }

/-- RING_DEF (R135, R351). -/
def execRingDef (c : Ctrl) (r : Fin 4096) (a : SReg) (s : State) : Host.Outcome State Fault Refusal :=
  issueWith settle c {} false (fun e =>
    let ring : Ring := ⟨e.scalar 0 a.val, e.scalar 1 (a.val + 1), List.replicate 8 0⟩
    orTrap (firstTrap [e.pre [a.val, a.val + 1] [.sc a.val, .sc (a.val + 1)], ringChecks e r.val ring]) fun _ =>
      .go (e.s.updColony e.w.colony fun c => c.defRing r.val ring) none none) s

/-! ### Timelines -/

/-- An Acq does not perform before the operations of its swarm that it comes after (`Swarm.acqHeld`): it is held at issue until they
have completed, so that it blocks on its own target alone (Table 9.4, R162, R196, log 70). -/
def Env.afterAcq (e : Env) (target : Option (Nat × Nat)) (a : Act) : Act := if e.w.acqHeld target then .hold else a

/-- TLWAIT (R143, R364, R365): the class is CONC. -/
def execTlwait (c : Ctrl) (sel : TlSel) (a : SReg) (s : State) : Host.Outcome State Fault Refusal :=
  issueWith settle c {} true (fun e =>
    orTrap (e.pre [a.val] [.sc a.val]) fun _ => e.afterAcq none <| waitOn e (.timeline sel (e.scalar 0 a.val).toNat) 0 e.s) s

/-- TLRD (R143, R364). -/
def execTlrd (c : Ctrl) (d : SReg) (sel : TlSel) (s : State) : Host.Outcome State Fault Refusal :=
  issue c {} false (fun e =>
    orTrap (e.pre [d.val] []) fun _ => scalarResult e [(d.val, e.col.timeline sel)] none) s

end Sys2Proof.Machine
end

