-- ==== Sys2Proof/Machine/Access.lean ====
section
/-! DEFINITION. One lane's access to global memory (R109-R115, R163, R166-R168, R220, R221), fault records and log entries
(R114, R116), and the write-backs that an instruction starts (R115, R160). -/

namespace Sys2Proof.Machine

/-! ### Faults of an instruction -/

/-- Records the faults of an operation, one record for each cause (R114). -/
def State.recordFaults (s : State) (i : Nat) (o : Op) (fs : List LaneFault) : State :=
  faultCauses.foldl (fun s c =>
    match fs.filter fun f => f.cause == c with
    | [] => s
    | f :: r => s.updSwarm i fun w =>
      w.record ⟨o.pc, c, maskOf fun l => (f :: r).any fun x => x.lane == l, f.va, o.flag, o.id⟩) s

/-- Both. -/
def State.refuse (s : State) (i : Nat) (o : Op) (asid kind : Nat) (fs : List LaneFault) : State :=
  (s.recordFaults i o fs).logFaults asid kind (s.whoOf i o.pc.toNat) fs

/-- The store buffer takes an entry (R220). -/
def State.buffer (s : State) (j : Nat) (b : Buffered) : State := s.updColony j fun c => { c with sbuf := c.sbuf ++ [b] }

/-- Lines of a store buffer (R220). -/
def bufferLines : Nat := 4096

/-- The line of an address would be the 4,097th of the buffer (R221). -/
def Colony.bufferFull (c : Colony) (va : Nat) : Bool :=
  (c.onLine (va / 64)).isEmpty && c.sbufLines ≥ bufferLines

/-- Colony `j` is restartable. -/
def State.restartable (s : State) (j : Nat) : Bool :=
  match s.colonies[j]? with
  | none => false
  | some c => c.rst

/-- The colony's buffer has no room for the line. -/
def State.bufferFull (s : State) (j va : Nat) : Bool :=
  match s.colonies[j]? with
  | none => false
  | some c => c.bufferFull va

/-- The colony of a swarm. -/
def State.colonyOf (s : State) (i : Nat) : Nat :=
  match s.swarms[i]? with
  | none => 0
  | some w => w.colony

/-- Writes back the dirty bound lines of an address space that a test picks; faults are the instruction's (R115). A restartable colony
has none of its own: its stores stand in its buffer (R220), and the core's dirty lines are other colonies', which go home. No lane
being concerned, the record's mask is empty, and where several lines fault it names the first one in the order in which the L1
gives them up (DESIGN CHOICE, log 68). -/
def State.flush (s : State) (i : Nat) (k : Nat × Nat × Nat) (asid : Nat) (o : Op) (p : Nat → Bool) : State :=
  let (s1, fs) := State.writeBackAll k asid (s.whoOf i o.pc.toNat) (s.dirtyLines k asid p) s
  s1.refuse i o asid 6 (fs.map fun f => ⟨64, f.1, f.2⟩)

/-- What FENCE does at colony scope or wider once the earlier accesses are done (R160). -/
def State.fenceFlush (s : State) (i : Nat) (k : Nat × Nat × Nat) (asid : Nat) (o : Op) : State :=
  (s.flush i k asid o fun _ => true).acqLines k asid

/-- The operation the issuing instruction would leave in flight, for faults it meets at issue. -/
def Env.asOp (e : Env) (c : Ctrl) : Op := ⟨e.w.nextOp, e.w.pc, c.setf, false, none, e.s.ioCycle, .engine⟩

/-! ### Lanes -/

/-- Who performs a lane's access: the swarm, its core, colony and address space. -/
structure Actor where
  i : Nat
  j : Nat
  k : Nat × Nat × Nat
  asid : Nat
  ctx : Nat
deriving DecidableEq, Repr

/-- Reads `n` bytes for a lane; a restartable colony sees its buffered bytes over memory's (R220). -/
def State.loadLane (s : State) (a : Actor) (va n : Nat) (tainted : Bool) : State × Res :=
  match s.coreRead a.k a.asid va n a.i tainted with
  | (s1, .ok bs) => (s1, .ok (s1.overlayOf a.j va bs))
  | r => r

/-- Writes to these addresses end the restartability of colony `j` (R221): one goes to coherent memory, the system region or a
peer, or a line of them would be the 4,097th of the buffer. -/
def State.endsRestart (s : State) (j asid : Nat) (vas : List Nat) : Bool :=
  match s.colonies[j]? with
  | none => false
  | some c => c.rst
    && ((vas.any fun v => (s.mapOf asid v).any fun m => m.w && (m.c || m.pa / 2 ^ 44 == 3))
      || decide (bufferLines < ((vas.map (· / 64) ++ c.sbuf.map fun b : Buffered => b.va / 64).foldl (fun acc l => insNat l acc) []).length))

/-- What the writes of colony `j` to `vas` send to their homes, those of `out` going there: nothing while its store buffer takes them
(R220), the buffer's drain first where they end its restartability (R221). -/
def State.writeSends (s : State) (j asid : Nat) (vas : List Nat) (out : Sends) : List Sends :=
  if !s.restartable j then [out]
  else if s.endsRestart j asid vas then [s.drainSends j, out]
  else []

/-- A home holds one of these reads (R112, R231). -/
def State.readsHeld (s : State) (asid : Nat) (vas : List Nat) : Bool := vas.any fun v => s.blocked asid v false

/-- A home holds one of these writes of colony `j` (R111, R112, R231); `each` marks reductions, each of which takes an entry. -/
def State.writesHeld (s : State) (j asid : Nat) (each : Bool) (vas : List Nat) : Bool :=
  (vas.any fun v => s.blocked asid v true) || !s.sendsOk asid (s.writeSends j asid vas (vas.map fun v => (v, each)))

/-- A home holds one of these stores of a swarm; those that its core's L1 takes need none. -/
def State.storesHeld (s : State) (a : Actor) (vas : List Nat) : Bool :=
  let out := vas.filter fun v => (s.hitW a.k a.asid v).isNone
  (out.any fun v => s.blocked a.asid v true) || !s.sendsOk a.asid (s.writeSends a.j a.asid vas (sendsOf out))

/-- A store to bound memory: into the core's L1, or into the store buffer of a restartable colony (R105, R220, R221). -/
def State.storeBound (s : State) (a : Actor) (tag : Nat) (w : Bool) (va : Nat) (bs : List Byte) : State :=
  if !s.restartable a.j then s.l1Write a.k tag w va a.i bs
  else if s.bufferFull a.j va then (s.endRestart a.j 2).l1Write a.k tag w va a.i bs
  else s.buffer a.j (.bytes va bs)

/-- Writes bytes for a lane (R111, R113, R159, R220, R221, R259): the state and the cause of a refusal. A line of the core's L1 that
holds W asks no home. Bytes that wait in a bounce buffer are newer than the L1's, which gives them up. -/
def State.storeLane (s : State) (a : Actor) (pc va : Nat) (bs : List Byte) : State × Option Nat :=
  let who := s.whoOf a.i pc
  match s.hitW a.k a.asid va with
  | some l => (s.storeBound a l.asid true va bs, none)
  | none =>
    match s.askWrite a.asid va with
    | (s1, .fault c) => (s1, some c)
    | (s1, .bounce) =>
      (if s1.restartable a.j && !s1.bufferFull a.j va then s1.buffer a.j (.bytes va bs)
        else ((s1.endRestart a.j 2).bounceBytes a.asid va bs who).forgetBytes a.asid va bs.length a.k, none)
    | (s1, .peer pa) => ((s1.endRestart a.j 6).postStore a.ctx a.i pa va who bs, none)
    | (s1, .home m) =>
      let s2 := s1.endRestart a.j 3
      let s2 := if s2.coreHas m va a.k then s2 else s2.noteMiss a.k m.asid va a.i
      ((s2.homeWrite m a.asid va bs).dirWrite m va a.k a.i, none)
    | (s1, .l1 m) => (s1.storeBound a m.asid m.w va bs, none)

/-- The smaller or larger of two values of a width. -/
def pickEl (n : Nat) (sgn less : Bool) (x y : W64) : W64 :=
  let lt := if sgn then (x.setWidth n).slt (y.setWidth n) else (x.setWidth n).ult (y.setWidth n)
  if lt = less then x else y

/-- The new value at an atomic's location (Table 21.1). -/
def atomNew (op : AtomOp) (wide : Bool) (old val exp : W64) : W64 :=
  let n := if wide then 64 else 32
  let r := match op with
    | .add => old + val
    | .minS => pickEl n true true old val
    | .minN => pickEl n false true old val
    | .maxS => pickEl n true false old val
    | .maxN => pickEl n false false old val
    | .and => old &&& val
    | .or => old ||| val
    | .xor => old ^^^ val
    | .xchg => val
    | .cas => if old = exp then val else old
    | .addF32 => (addF32 (lo32 old) (lo32 val)).setWidth 64
  if wide then r else (lo32 r).setWidth 64

/-- The home of an atomic's location: not coherent or in the system region is cause 3, not writable cause 0 (R304). -/
def State.atomHome (s : State) (asid va : Nat) : State × AtHome :=
  match s.translate asid va true with
  | (s1, .ok m) => (s1, if !m.c || m.pa / 2 ^ 44 == 3 then .fault 3 else if !m.w then .fault 0 else .ok m)
  | (s1, .err) => (s1, .fault 2)
  | (s1, _) => (s1, .nonres)

/-- The value at a home, after its update-only copies are combined (R167). -/
def State.homeVal (s : State) (m : MapRec) (va z : Nat) : State × W64 :=
  let s1 := State.combine (m.paOf va) z s.upd.length s
  (s1, BitVec.ofNat 64 (leNat (s1.physRead (m.paOf va) z)))

/-- Writes a value at a home; no core keeps a copy of the line. -/
def State.homePut (s : State) (m : MapRec) (asid va z : Nat) (v : W64) : State :=
  (s.physWrite asid (m.paOf va) (leBytes z v.toNat)).dirHome m va false

/-- One reduction at a home, with every bit of its effect (R167): f32 contributions gather in the core's update-only copy,
the others perform at once. -/
def State.redAt (s : State) (k : Nat × Nat × Nat) (op : AtomOp) (wide : Bool) (m : MapRec) (asid va : Nat) (v : W64) :
    State :=
  match op with
  | .addF32 =>
    let pa := m.paOf va
    if s.upd.any fun u => u.core = k && u.pa == pa then
      { s with upd := s.upd.map fun u => if u.core = k && u.pa == pa then { u with sum := addF32 u.sum (lo32 v) } else u }
    else { s with upd := ⟨k, pa, lo32 v⟩ :: s.upd }
  | _ =>
    let (s1, old) := s.homeVal m va (atomBytes wide)
    s1.homePut m asid va (atomBytes wide) (atomNew op wide old v 0)

end Sys2Proof.Machine
end

