-- ==== Sys2Proof/Machine/Sync.lean ====
section
/-! DEFINITION. BIND, UNBIND, ACQ, REL and FENCE at issue (R152-R155, R160, R301, R309, R327, R349, R368). What BIND,
UNBIND, REL and FENCE do when they perform is in Complete.lean. -/

namespace Sys2Proof.Machine

/-- BADVA of a bound region (R153): cause 1, then cause 2. -/
def badRegion (base len : Nat) : Option Trap :=
  firstTrap [
    check (decide (base ≥ vaTop) || decide (base + len > vaTop)) (.plain 9 1 base),
    check (base % 64 != 0 || len == 0 || len % 64 != 0 || decide (len > 2 ^ 36)) (.plain 9 2 base)]

/-- BIND (R153, R309). -/
def execBind (c : Ctrl) (a : SReg) (s : State) : Host.Outcome State Fault Refusal :=
  issue c { access := true } false (fun e =>
    orTrap (e.pre [a.val, a.val + 1, a.val + 2] [.sc a.val, .sc (a.val + 1), .sc (a.val + 2)]) fun _ =>
      let va := (e.scalar 0 a.val).toNat
      let base := (e.scalar 1 (a.val + 1)).toNat
      let len := (e.scalar 2 (a.val + 2)).toNat
      orTrap (firstTrap [badVa1 va objBytes, badRegion base len]) fun _ =>
        e.ending 3 fun s1 => .go s1 (some (.bind va (some (base, len)), none)) none) s

/-- UNBIND (R153, R368). -/
def execUnbind (c : Ctrl) (a : SReg) (s : State) : Host.Outcome State Fault Refusal :=
  issue c { access := true } false (fun e =>
    orTrap (e.pre [a.val] [.sc a.val]) fun _ =>
      let va := (e.scalar 0 a.val).toNat
      orTrap (badVa1 va objBytes) fun _ => e.ending 3 fun s1 => .go s1 (some (.bind va none, none)) none) s

/-- A REL or FENCE wider than colony scope ends restartability (R221, cause 4). -/
def Env.widening (e : Env) (sc : Scope) (k : State → Act) : Act := if scopeCode sc > 1 then e.ending 4 k else k e.s

/-- REL at issue (R154, R349). -/
def execRel (c : Ctrl) (sc : Scope) (a : SReg) (s : State) : Host.Outcome State Fault Refusal :=
  issue c { access := true } false (fun e =>
    orTrap (e.pre [a.val] [.sc a.val]) fun _ =>
      let va := (e.scalar 0 a.val).toNat
      orTrap (badVa1 va objBytes) fun _ => e.widening sc fun s1 => .go s1 (some (.rel sc va, none)) none) s

/-- FENCE at issue (R160, R327). -/
def execFence (c : Ctrl) (sc : Scope) (s : State) : Host.Outcome State Fault Refusal :=
  issue c { access := true } true (fun e => e.widening sc fun s1 => .go s1 (some (.fence sc, none)) none) s

/-- Word `k` of a line's bytes. -/
def lineWord (bs : List Byte) (k : Nat) : Nat := leNat ((bs.drop (8 * k)).take 8)

/-- Class recorded in a sync object (R155): CONC while it was never released. -/
def objClass (bs : List Byte) : Nat := if lineWord bs 0 = 0 then 0 else fld (lineWord bs 3) 3 2

/-- Where the last releaser of an object stands (Table 2.6). A releaser that has retired, and so holds no reservation any more, counts as
it counted before (DESIGN CHOICE, log 93). -/
def objTarget (e : Env) (bs : List Byte) : Target :=
  let w3 := lineWord bs 3
  let field := fld w3 32 32
  let colony := fld w3 16 16
  if field = e.fld.id && colony = e.col.index then .own
  else if (e.s.colsOfField e.ctx.handle field).any fun j => match e.s.colonies[j]?, e.s.fieldOf j with
      | some c, some f => c.index == colony && c.admitted && f.resv
      | _, _ => false then .reserved
  else .other

/-- A precise PERMFLT of ACQ or LWAIT, which the home has logged (R116, Table 14.1). -/
def preciseFault (e : Env) (s : State) (cause va : Nat) : Act :=
  .trapIn (s.logFaults e.ctx.asid 0 (s.whoOf e.i e.w.pc.toNat) [⟨64, cause, va⟩]) (.plain 0x0A cause va)

/-- ACQ once its operands are checked (R155, R301). -/
def acqAct (e : Env) (sc : Scope) (va n : Nat) : Act :=
  match e.s.readHome e.ctx.asid va objBytes with
  | (s1, .nonres, _) => .go (s1.setNonres e.i) none none
  | (s1, .fault cause, _) => preciseFault e s1 cause va
  | (_, .held, _) => .hold
  | (s1, .poison, _) => .go (s1.consumeBy e.w.colony (some e.i)) none none
  | (s1, .ok raw, coherent) =>
    let bs := e.seen va raw
    orTrap (illWait (legalWait (objClass bs) (objTarget e bs) false)) fun _ =>
      if coherent then waitOn e (.acq sc va n) (objClass bs) s1 else preciseFault e s1 3 va

/-- ACQ (R155, R301). -/
def execAcq (c : Ctrl) (sc : Scope) (a : SReg) (s : State) : Host.Outcome State Fault Refusal :=
  issueWith settle c { access := true } true (fun e =>
    orTrap (e.pre [a.val, a.val + 1] [.sc a.val, .sc (a.val + 1)]) fun _ =>
      let va := (e.scalar 0 a.val).toNat
      orTrap (badVa1 va objBytes) fun _ =>
        e.afterAcq (some (va, objBytes)) <| acqAct e sc va (e.scalar 1 (a.val + 1)).toNat) s

end Sys2Proof.Machine
end

