-- ==== Sys2Proof/Machine/Reserve.lean ====
section
/-! DEFINITION. Reserving loops (R174-R187, R314, R352, R353). Waves are formed in Wait.lean. -/

namespace Sys2Proof.Machine

/-- RSVERR with a cause of Table 11.2. -/
def rsvErr (bad : Bool) (cause : Nat) : Option Trap := check bad (.plain 0x14 cause 0)

/-- Claims of a cluster's signature table (R175). -/
def sigTable : Nat := 16384

/-- Claims reserved in the signature table of a cluster: the quotas of the open loops placed there (R175, R185). -/
def State.claimsReserved (s : State) (die clus : Nat) : Nat :=
  (s.colonies.map fun c => match c.place, c.rsv with
    | some p, some r => if p.die = die && p.clus = clus then r.quota else 0
    | _, _ => 0).sum

/-- Clocks of RSV.OPEN and RSV.CLOSE (Table 23.1). -/
def rsvOpenClocks : Nat := 2
/-- Clocks of RSV.CAND (Table 23.1). -/
def rsvCandClocks : Nat := 4

/-- Every lane of the colony's swarms is free. -/
def State.freeLanes (s : State) (j : Nat) : State :=
  (s.swarmsOf j).foldl (fun s i => s.updSwarm i fun w => { w with lanes := List.replicate 64 RLane.free }) s

/-- RSV_OPEN (R177, R187). -/
def execRsvOpen (c : Ctrl) (d a : SReg) (s : State) : Host.Outcome State Fault Refusal :=
  issue c {} false (fun e =>
    orTrap (e.pre [d.val, a.val, a.val + 1] [.sc a.val, .sc (a.val + 1)]) fun _ =>
      let n := (e.scalar 0 a.val).toNat
      let q := (e.scalar 1 (a.val + 1)).toNat
      orTrap (rsvErr (n == 0 || decide (n > 0xFFFFFFFE) || q == 0 || decide (q > sigTable)) 1) fun _ =>
        let answer := fun (s : State) (st : W64) =>
          Act.go s (some (.result [] [(d.val, st)] none none, some rsvOpenClocks)) none
        if e.col.rsv.isSome then answer e.s 2
        else if e.s.claimsReserved e.span.die e.span.clus + q > sigTable then answer e.s 1
        else answer ((e.s.freeLanes e.w.colony).updColony e.w.colony fun c => { c with rsv := some ⟨n, 0, q⟩ }) 0) s

/-- RSV_CLOSE (R177, R187). A swarm whose empty wave is in flight stays in it (DESIGN CHOICE, log 99). -/
def execRsvClose (c : Ctrl) (d : SReg) (s : State) : Host.Outcome State Fault Refusal :=
  issue c {} false (fun e =>
    orTrap (e.pre [d.val] []) fun _ =>
      let answer := fun (s : State) (st : W64) =>
        Act.go s (some (.result [] [(d.val, st)] none none, some rsvOpenClocks)) none
      match e.col.rsv with
      | none => answer e.s 2
      | some r =>
        if r.next < r.n || !(e.s.items e.w.colony true).isEmpty || !(e.s.items e.w.colony false).isEmpty then
          answer e.s 1
        else answer (e.s.updColony e.w.colony fun c => { c with rsv := none }) 0) s

/-- Assigns items from `next` to free lanes, ascending, at most `lim` of them (R178): the lanes and the new NEXT. -/
def assignLanes (n : Nat) : List RLane → Nat → Nat → List RLane × Nat
  | [], _, next => ([], next)
  | l :: r, lim, next =>
    if l.item.isNone && lim > 0 && next < n then
      let (r1, x) := assignLanes n r (lim - 1) (next + 1)
      (⟨some next, false, []⟩ :: r1, x)
    else
      let (r1, x) := assignLanes n r lim next
      (l :: r1, x)

/-- The item a pending lane holds; 0xFFFF_FFFF for every other lane (R178). -/
def laneItem (l : RLane) : W32 :=
  match l.item with
  | none => 0xFFFFFFFF
  | some x => if l.admitted then 0xFFFFFFFF else BitVec.ofNat 32 x

/-- The pending lanes of a swarm. -/
def pendingMask (ls : List RLane) : W64 :=
  maskOf fun k => match ls[k]? with
    | none => false
    | some l => l.item.isSome && !l.admitted

/-- The limit of RSV.CAND: 0 means 64 (Table 11.1). -/
def candLimit (lim : Nat) : Nat := if lim = 0 then 64 else lim

/-- RSV_CAND (R178). -/
def execRsvCand (c : Ctrl) (d : SReg) (kd : KReg) (lim : Fin 65) (s : State) : Host.Outcome State Fault Refusal :=
  issue c { pushes := 1 } false (fun e =>
    orTrap (firstTrap [e.pre [d.val] [], rsvErr e.col.rsv.isNone 2, rsvErr e.w.wave 5]) fun _ =>
      let r := e.col.rsv.getD ⟨0, 0, 0⟩
      let (ls, next) := assignLanes r.n e.w.lanes (candLimit lim.val) r.next
      let m := pendingMask ls
      let s1 := (e.s.updColony e.w.colony fun c => { c with rsv := some { r with next := next } }).updSwarm e.i fun w =>
        { w with lanes := ls }
      pushEntries { e with s := s1 } [⟨allLanes, false, ls.map laneItem⟩]
        [(d.val, BitVec.ofNat 64 (lanesOf m).length)] (some (kd.val, m)) (some rsvCandClocks)) s

/-- The most claims of a lane (R174). -/
def laneClaims : Nat := 8

/-- CLAIM (R179, R314). -/
def execClaim (c : Ctrl) (k : KReg) (sb : SReg) (addr : Operand) (s : State) : Host.Outcome State Fault Refusal :=
  issue c {} false (fun e =>
    orTrap (e.pre [sb.val] [.vec addr false, .sc sb.val]) fun _ =>
      let vas := laneVas e sb addr
      let m := e.mask k &&& pendingMask e.w.lanes
      let full := m &&& maskOf fun l => match e.w.lanes[l]? with
        | none => false
        | some x => decide (x.claims.length ≥ laneClaims)
      let used := e.s.claimsUsed e.w.colony + (lanesOf m).length
      orTrap (firstTrap [
        rsvErr e.col.rsv.isNone 2,
        badVaBy 1 m vas fun v => decide (v ≥ vaTop),
        if full = 0 then none else some (.lanes 0x14 3 full 0),
        rsvErr (decide (used > (e.col.rsv.getD ⟨0, 0, 0⟩).quota)) 4])
      fun _ =>
        .go (e.s.updSwarm e.i fun w =>
          { w with lanes := w.lanes.zipIdx.map fun p =>
              if has m p.2 then { p.1 with claims := p.1.claims ++ [sig (vas.getD p.2 0)] } else p.1 }) none none) s

/-- RSVERR of the wave forms (R180). -/
def waveChecks (e : Env) : Option Trap := firstTrap [rsvErr e.col.rsv.isNone 2, rsvErr e.w.wave 5]

/-- RSV_WAVE (R180): blocks while the colony's lowest item, held here, conflicts with a wave in flight. A wave that admits a lane makes
an Acq, and is held as one is (`Env.afterAcq`). -/
def execRsvWave (c : Ctrl) (kd : KReg) (s : State) : Host.Outcome State Fault Refusal :=
  issueWith State.takeOwnTurn c {} true (fun e =>
    orTrap (firstTrap [waveChecks e, illWait (legalWait e.fld.cls .own false)]) fun _ =>
      if e.w.acqHeld none && (e.s.lowBlocked e.w.colony e.i || e.s.waveAdmits e.w.colony e.i) then .hold
      else waitOn e (.rsvWave kd.val) e.fld.cls e.s) s

/-- RSV_WAVE_NB (R180, R186). -/
def execRsvWaveNb (c : Ctrl) (kd : KReg) (s : State) : Host.Outcome State Fault Refusal :=
  issue c {} false (fun e =>
    orTrap (waveChecks e) fun _ =>
      if e.s.lowBlocked e.w.colony e.i then
        .go (e.s.updSwarm e.i fun w => { w with wave := true, top := w.top.setMask kd.val 0 }) none none
      else if e.w.acqHeld none && e.s.waveAdmits e.w.colony e.i then .hold
      else .go (e.s.formWave e.w.colony e.i kd.val e.ctx.asid e.core) none none) s

/-- The wave ends: its lanes are free and its claims dropped (R182). -/
def Swarm.endWave (w : Swarm) : Swarm :=
  { w with wave := false, lanes := w.lanes.map fun l => if l.admitted then RLane.free else l }

/-- The wait's raise of a swarm ends (R29). -/
def Wait.unraise (i : Nat) (wt : Wait) : Wait :=
  match wt.kind with
  | .rsvWave _ => { wt with raises := wt.raises.filter (· != .swarm i) }
  | _ => wt

/-- A swarm whose wave has ended is raised no more by those that wait for the wave former (Table 2.5). -/
def State.dropRaise (s : State) (j i : Nat) : State :=
  (s.swarmsOf j).foldl (fun s x => s.updSwarm x fun w =>
    { w with wait := w.wait.map (Wait.unraise i), starved := w.starved.map (Wait.unraise i) }) s

/-- RSV_DONE (R182, R353): a FENCE at colony scope, held while a home holds one of its write-backs; then the wave ends. -/
def execRsvDone (c : Ctrl) (s : State) : Host.Outcome State Fault Refusal :=
  issueWith settle c { access := true, quiet := true } true (fun e =>
    orTrap (firstTrap [rsvErr e.col.rsv.isNone 2, rsvErr (!e.w.wave) 5]) fun _ =>
      if !e.s.mayFlush e.core e.ctx.asid fun _ => true then .hold
      else .go (((e.s.fenceFlush e.i e.core e.ctx.asid (e.asOp c)).updSwarm e.i Swarm.endWave).dropRaise e.w.colony e.i)
        none none) s

end Sys2Proof.Machine
end

