-- ==== Sys2Proof/Machine/Matrix.lean ====
section
/-! DEFINITION. The matrix unit: tiles and tokens (R79-R83), configurations (R85, R362, R367), the format vote (R74,
R75), ranges and reads (R87-R89), the element procedure (R77), and the issue of MMA, MMA.COOP, MACQ, MREL, MRD, MWR,
TCFG and UCFG (R91-R94, R337-R342). -/

namespace Sys2Proof.Machine

/-! ### Configurations -/

/-- Tile configuration (Table 5.2). -/
structure TileCfg where
  bbase : Nat
  bstride : Nat
  n : Nat
  m : Nat
  sabase : Nat
  sbbase : Nat
  qpart : Nat
  rb : Nat
  cb : Nat
  k : Nat
deriving DecidableEq, Repr

/-- Reads Table 5.2. -/
def tileCfg (w : List W64) : TileCfg :=
  let w0 := (w.getD 0 0).toNat
  let w1 := (w.getD 1 0).toNat
  let w2 := (w.getD 2 0).toNat
  ⟨fld w0 32 24, fld w0 16 16, fld w0 8 8, fld w0 0 8, fld w1 24 24, fld w1 0 24, fld w2 24 4, fld w2 22 2 + 1,
    fld w2 20 2 + 1, fld w2 0 16⟩

/-- The configuration breaks Table 5.2 (R362). -/
def tileCfgBad (w : List W64) : Bool :=
  let t := tileCfg w
  fld (w.getD 0 0).toNat 56 8 != 0 || fld (w.getD 1 0).toNat 48 16 != 0 || fld (w.getD 2 0).toNat 28 36 != 0
  || fld (w.getD 2 0).toNat 16 4 != 0 || t.bbase % 16 != 0 || t.bstride == 0 || t.bstride % 16 != 0
  || t.m == 0 || decide (t.m > 128) || t.n == 0 || decide (t.n > 160) || t.sabase % 4 != 0 || t.sbbase % 4 != 0
  || t.rb == 4 || decide (t.qpart ≥ t.rb * t.cb) || t.k == 0

/-- Unfolding configuration (Table 5.3). -/
structure UnfCfg where
  unfold : Bool
  abase : Nat
  row0 : Nat
  c : Nat
  w : Nat
  h : Nat
  ow : Nat
  g : Nat
  kh : Nat
  kw : Nat
  sy : Nat
  sx : Nat
  dy : Nat
  dx : Nat
  pt : Nat
  pl : Nat
deriving DecidableEq, Repr

/-- Reads Table 5.3. -/
def unfCfg (w : List W64) : UnfCfg :=
  let w0 := (w.getD 0 0).toNat
  let w1 := (w.getD 1 0).toNat
  let w2 := (w.getD 2 0).toNat
  let w3 := (w.getD 3 0).toNat
  ⟨w0.testBit 56, fld w0 32 24, fld w0 0 32, fld w1 32 16, fld w1 16 16, fld w1 0 16, fld w2 32 16, 2 ^ fld w2 24 4,
    fld w2 20 4 + 1, fld w2 16 4 + 1, fld w2 12 4 + 1, fld w2 8 4 + 1, fld w2 4 4 + 1, fld w2 0 4 + 1, fld w3 8 8,
    fld w3 0 8⟩

/-- The configuration breaks Table 5.3 (R367). -/
def unfCfgBad (w : List W64) : Bool :=
  let u := unfCfg w
  let w2 := (w.getD 2 0).toNat
  fld (w.getD 0 0).toNat 57 7 != 0 || fld (w.getD 1 0).toNat 48 16 != 0 || fld w2 48 16 != 0 || fld w2 28 4 != 0
  || fld (w.getD 3 0).toNat 16 48 != 0 || u.abase % 16 != 0
  || (if u.unfold then u.c == 0 || u.w == 0 || u.h == 0 || u.ow == 0 || decide (fld w2 24 4 > 7)
      else u.c != 0 || u.w != 0 || u.ow != 0 || fld w2 24 4 != 0 || u.pt != 0 || u.pl != 0 || fld w2 0 24 != 0
        || u.h == 0 || u.h % 16 != 0)

/-- Reads `n` scalars from `a` up. -/
def scalarsFrom (e : Env) (a n : Nat) : List W64 := (List.range n).map fun k => e.scalar k (a + k)

/-- The scalar numbers from `a` up. -/
def regsFrom (a n : Nat) : List Nat := (List.range n).map (a + ·)

/-- MCFG with a cause. -/
def mcfg (bad : Bool) (cause : Nat) : Option Trap := check bad (.plain 0x12 cause 0)

/-- TCFG (R85, R362). -/
def execTcfg (c : Ctrl) (a : SReg) (s : State) : Host.Outcome State Fault Refusal :=
  issue c {} false (fun e =>
    let rs := regsFrom a.val 3
    let ws := scalarsFrom e a.val 3
    orTrap (firstTrap [e.pre rs (rs.map Rd.sc), mcfg (tileCfgBad ws) 1]) fun _ =>
      .go (e.s.updSwarm e.i fun w => { w with tcfg := ws }) none none) s

/-- UCFG (R85, R367). -/
def execUcfg (c : Ctrl) (a : SReg) (s : State) : Host.Outcome State Fault Refusal :=
  issue c {} false (fun e =>
    let rs := regsFrom a.val 4
    let ws := scalarsFrom e a.val 4
    orTrap (firstTrap [e.pre rs (rs.map Rd.sc), mcfg (unfCfgBad ws) 2]) fun _ =>
      .go (e.s.updSwarm e.i fun w => { w with ucfg := ws }) none none) s

/-! ### Tiles and tokens -/

/-- Columns of a tile (R79). -/
def tileCols : Nat := 160

/-- A tile of the issuing core. -/
def Env.tile (e : Env) (t : Nat) : Tile := (e.s.core e.core).tiles.getD t ⟨none, none, [], []⟩

/-- Changes a tile of a core. -/
def State.updTile (s : State) (k : Nat × Nat × Nat) (t : Nat) (f : Tile → Tile) : State :=
  s.updCore k fun c => { c with tiles := c.tiles.modify t f }

/-- One element of a tile. -/
def Tile.get (t : Tile) (i j : Nat) : W32 := spGet 0 t.elems (i * tileCols + j)
/-- Writes one element. -/
def Tile.put (t : Tile) (i j : Nat) (v : W32) : Tile := { t with elems := spPut 0 t.elems (i * tileCols + j) v }

/-- The TOKEN trap of Table 5.1: the owner must be the swarm's colony, the token the swarm's or, where `unit` allows,
the unit's. -/
def tokenTrap (e : Env) (t : Nat) (unit : Bool) : Option Trap :=
  let x := e.tile t
  check (x.owner != some e.w.colony || !(x.token == some e.i || (unit && x.token == none))) (.plain 0x10 0 0)

/-- Clocks of MACQ (R337). -/
def macqClocks : Nat := 2

/-- MACQ (R82, R337, Table 5.1). -/
def execMacq (c : Ctrl) (d : SReg) (t : Fin 2) (s : State) : Host.Outcome State Fault Refusal :=
  issue c {} false (fun e =>
    orTrap (e.pre [d.val] []) fun _ =>
      let x := e.tile t.val
      let answer := fun (s : State) (st : W64) =>
        Act.go s (some (.result [] [(d.val, st)] none none, some macqClocks)) none
      match x.owner, x.token with
      | none, _ => answer (e.s.updTile e.core t.val fun _ => ⟨some e.w.colony, some e.i, [], []⟩) 0
      | some o, tok =>
        if o != e.w.colony then answer e.s 2
        else if tok == none || tok == some e.i then
          answer (e.s.updTile e.core t.val fun x => { x with token := some e.i }) 0
        else answer e.s 1) s

/-- The swarm's MRD and MWR on a tile have completed (R342). -/
def Swarm.tileMoves (w : Swarm) (t : Nat) : Bool := w.ops.any fun o => match o.body with
  | .mrd x _ _ | .mwr x => x == t
  | _ => false

/-- MREL (R342). -/
def execMrel (c : Ctrl) (t : Fin 2) (s : State) : Host.Outcome State Fault Refusal :=
  issue c {} false (fun e =>
    if e.w.tileMoves t.val then .hold
    else orTrap (tokenTrap e t.val false) fun _ =>
      .go (e.s.updTile e.core t.val fun x => { x with token := none }) none none) s

/-- MREL_FREE (R342): the tile also loses its owner. -/
def execMrelFree (c : Ctrl) (t : Fin 2) (s : State) : Host.Outcome State Fault Refusal :=
  issue c { tile := some t.val } false (fun e =>
    if e.w.tileMoves t.val then .hold
    else orTrap (tokenTrap e t.val false) fun _ =>
      .go (e.s.updTile e.core t.val fun x => { x with owner := none, token := none }) none none) s

/-- Row of a lane (R80). -/
def tileRow (hi : Bool) (l : Nat) : Nat := if hi then l + 64 else l

/-- Clocks of MRD and MWR (R92). -/
def mrdClocks : Nat := 4
/-- Clocks of MWR. -/
def mwrClocks : Nat := 1

/-- Elements of a code word of the accumulator (Table 14.7). -/
def tileWord : Nat := 4

/-- An element's code word holds an uncorrectable error. -/
def Tile.badAt (t : Tile) (i j : Nat) : Bool := t.bad.contains ((i * tileCols + j) / tileWord)

/-- MRD and MWR read the code words of the elements they name (Table 14.7). -/
def tileEcc (x : Tile) (hi : Bool) (j : Nat) (m : W64) : Option Trap :=
  if (lanesOf m).any fun l => x.badAt (tileRow hi l) j then some .ecc else none

/-- MRD (R92, R341). -/
def execMrd (c : Ctrl) (k : KReg) (hi : Bool) (t : Fin 2) (j : Fin 160) (s : State) :
    Host.Outcome State Fault Refusal :=
  issue c { pushes := 1, tile := some t.val } false (fun e =>
    orTrap (tokenTrap e t.val false) fun _ =>
      let m := e.mask k
      let x := e.tile t.val
      orTrap (firstTrap [tileEcc x hi j.val m, e.pushEcc m 1]) fun _ => .go (pushSlots e m false 1 e.s)
        (some (.mrd t.val m (lanes fun l => x.get (tileRow hi l) j.val), some mrdClocks)) none) s

/-- MWR (R92, R341). -/
def execMwr (c : Ctrl) (k : KReg) (hi : Bool) (t : Fin 2) (a : Operand) (j : Fin 160) (s : State) :
    Host.Outcome State Fault Refusal :=
  issue c { tile := some t.val } false (fun e =>
    orTrap (firstTrap [e.pre [] [.vec a false], tokenTrap e t.val false]) fun _ =>
      let m := e.mask k
      let v := e.read 0 a
      orTrap (tileEcc (e.tile t.val) hi j.val m) fun _ => .go (e.s.updTile e.core t.val fun x =>
          (lanesOf m).foldl (fun x l => x.put (tileRow hi l) j.val (el v l)) x)
        (some (.mwr t.val, some mwrClocks)) none) s

/-! ### The format word -/

/-- The word breaks R74 (R75, cause 2). -/
def fmtWordBad (w : Nat) : Bool :=
  let cls := fld w 10 2
  w / 2 ^ 14 != 0 || cls == 3 || (cls == 0 && (fld w 0 3 == 0 || fld w 5 3 == 0)) || (cls != 0 && fld w 0 10 != 0)

/-- The vote of the active lanes (R75): the trap it raises. The lanes of cause 1 are those that differ from the lowest
voting lane (log 22). -/
def fmtVote (v : List W32) (m : W64) : Option Trap :=
  let w := el v (lowLane m)
  let bad := m &&& maskOf fun l => el v l != w
  if m = 0 then none
  else if bad != 0 then some (.lanes 0x11 1 bad 0)
  else if fmtWordBad w.toNat then some (.lanes 0x11 2 m 0)
  else none

/-- Operand format of A (Table 4.7). -/
def fmtA (w : Nat) : FFmt :=
  match fld w 10 2 with
  | 0 => fmtB8 (w.testBit 4) (w.testBit 3) (fld w 0 3)
  | 1 => fmtF16
  | _ => fmtBf16

/-- Operand format of B. -/
def fmtB (w : Nat) : FFmt :=
  match fld w 10 2 with
  | 0 => fmtB8 (w.testBit 9) (w.testBit 8) (fld w 5 3)
  | 1 => fmtF16
  | _ => fmtBf16

/-- Bytes of an element of A or B. -/
def fmtBytes (w : Nat) : Nat := if fld w 10 2 = 0 then 1 else 2
/-- Group size G (R77). -/
def fmtGroup (w : Nat) : Nat := if fld w 10 2 = 0 then 32 else 16
/-- Scale factors of rows are read (R76). -/
def scaleA (w : Nat) : Bool := w.testBit 12
/-- Scale factors of columns are read. -/
def scaleB (w : Nat) : Bool := w.testBit 13

/-! ### Ranges (R89) -/

/-- Row block and column block of part q. -/
def blockOf (q cb : Nat) : Nat × Nat := (q / cb, q % cb)

/-- The comb ranges an operation could read: (first byte, length). -/
def mmaRanges (t : TileCfg) (u : UnfCfg) (f rb cb : Nat) : List (Nat × Nat) :=
  let eb := fmtBytes f
  let a :=
    if u.unfold then [(u.abase, (u.c + u.g - 1) / u.g * u.h * u.w * u.g * eb)]
    else (List.range t.m).map fun i => (u.abase + (u.row0 + 128 * rb + i) * u.h, t.k * eb)
  a ++ [(t.bbase, (t.k - 1) * t.bstride + (160 * cb + t.n) * eb)]
  ++ (if scaleA f then [(t.sabase + 512 * rb, 4 * t.m)] else [])
  ++ (if scaleB f then [(t.sbbase + 640 * cb, 4 * t.n)] else [])

/-- A range meets the region of a defined ring that the stage may not use (R136, R339). -/
def mmaRingBad (col : Colony) (stage : Nat) (rs : List (Nat × Nat)) : Bool :=
  col.ringList.any fun p => decide (stage ≥ p.2.rs)
    && rs.any fun r => r.2 != 0 && decide (r.1 < p.2.base + p.2.size) && decide (p.2.base < r.1 + r.2)

/-- The checks of the ring stage and the range (R339). -/
def mmaRangeTrap (e : Env) (t : TileCfg) (u : UnfCfg) (f rb cb : Nat) : Option Trap :=
  let rs := mmaRanges t u f rb cb
  firstTrap [
    check (mmaRingBad e.col e.w.stage rs) (.plain 0x0D 6 0),
    mcfg (rs.any (fun r => decide (r.1 + r.2 > e.fld.desc.combSize)) || decide (t.bstride < t.n * fmtBytes f)) 4]

/-! ### Element values -/

/-- Comb address of A(i, k); none for the unit's own zero (R88). -/
def aAddr (u : UnfCfg) (eb v k : Nat) : Option Nat :=
  if u.unfold then
    let cl := k % u.g
    let t := k / u.g
    let kx := t % u.kw
    let ky := t / u.kw % u.kh
    let cg := t / u.kw / u.kh
    let y : Int := (v / u.ow * u.sy + ky * u.dy : Nat) - (u.pt : Int)
    let x : Int := (v % u.ow * u.sx + kx * u.dx : Nat) - (u.pl : Int)
    if cg * u.g + cl ≥ u.c || y < 0 || y ≥ u.h || x < 0 || x ≥ u.w then none
    else some (u.abase + ((cg * u.h + y.toNat) * u.w + x.toNat) * u.g * eb + cl * eb)
  else some (u.abase + v * u.h + k * eb)

/-- Comb address of B(k, j) (R87). -/
def bAddr (t : TileCfg) (eb cb k j : Nat) : Nat := t.bbase + k * t.bstride + (160 * cb + j) * eb

/-- A product truncated to 2^e (R77). -/
def truncTo (e : Int) : FV → Int
  | .fin neg m pe =>
    let q : Nat := if pe ≥ e then m * 2 ^ (pe - e).toNat else m / 2 ^ (e - pe).toNat
    if neg then -(q : Int) else q
  | _ => 0

/-- Exponent of a nonzero finite product. -/
def prodExp : FV → Option Int
  | .fin _ m e => if m = 0 then none else some (flog2 m + e)
  | _ => none

/-- The sum of one group of products (R77), as an f32 value. -/
def groupSum (ps : List FV) : FV :=
  let isInf := fun (s : Bool) (p : FV) => match p with
    | .inf n => n == s
    | _ => false
  if ps.any FV.isNan || (ps.any (isInf false) && ps.any (isInf true)) then .nan
  else if ps.any (isInf false) then .inf false
  else if ps.any (isInf true) then .inf true
  else match ps.filterMap prodExp with
    | [] => .fin false 0 0
    | x :: r =>
      let e := r.foldl max x - 48
      fmtF32.decode (fmtF32.round .rne (FV.ofInt ((ps.map (truncTo e)).foldl (· + ·) 0) e false))

/-- One f32 rounding of a value, read back. -/
def rne32 (v : FV) : FV := fmtF32.decode (fmtF32.round .rne v)

/-- One group's contribution to an accumulator element (R77). -/
def addGroup (ps : List FV) (sa sb : FV) (c : W32) : W32 :=
  BitVec.ofNat 32 (fmtF32.round .rne (FV.add .rne (fmtF32.decode c.toNat) (rne32 (FV.mul (FV.mul (groupSum ps) sa) sb))))

/-- The procedure of R77 for one element: `p k` is product k. -/
def mmaElement (g k : Nat) (p : Nat → FV) (sa sb : FV) (c : W32) : W32 :=
  (List.range ((k + g - 1) / g)).foldl
    (fun c n => addGroup (((List.range g).map (n * g + ·)).filterMap fun x => if x < k then some (p x) else none) sa sb c) c

/-- The value 1.0. -/
def fvOne : FV := .fin false 1 0

/-- When an operation reads the comb: the die cycle, the comb writes made by its start, and the occasion of its free choices. -/
structure ReadAt where
  now : Nat
  since : Nat
  occ : Nat
deriving DecidableEq, Repr

/-- How a part reads the comb: `n` bytes from an address, each mapped by the rings as they stood at the part's issue, and each
old or new where it was written since (R93, R136, R145). -/
def partRead (col : Colony) (at_ : ReadAt) (rings : List (Option Ring)) (stage a n : Nat) : Nat :=
  leNat (col.combReadAt at_.now at_.since at_.occ (mapRings rings stage a) n)

/-- The rows of a tile that an operation under a mask updates (R80, R91). -/
def mmaRows (m : Nat) (mask : W64) : List Nat := (List.range m).filter fun i => has mask (i % 64)

/-- The comb addresses, mapped, that a part reads (R91). -/
def mmaReads (stage : Nat) (p : MmaPart) : List Nat :=
  let t := tileCfg p.tcfg
  let u := unfCfg p.ucfg
  let f := p.fmt.toNat
  let eb := fmtBytes f
  let (rb, cb) := blockOf p.q t.cb
  let rows := mmaRows t.m p.mask
  let raw := (rows.flatMap fun i => (List.range t.k).filterMap fun k => aAddr u eb (u.row0 + 128 * rb + i) k)
    ++ (if rows.isEmpty then [] else
        ((List.range t.k).flatMap fun k => (List.range t.n).map fun j => bAddr t eb cb k j)
        ++ (if scaleB f then (List.range t.n).map fun j => t.sbbase + 4 * (160 * cb + j) else []))
    ++ (if scaleA f then rows.map fun i => t.sabase + 4 * (128 * rb + i) else [])
  raw.map (mapRings p.rings stage)

/-- A part's update of its tile (R91); with `free` its elements take unspecified values (R94). -/
def mmaUpdate (col : Colony) (at_ : ReadAt) (stage : Nat) (p : MmaPart) (free : Option Nat) (x : Tile) : Tile :=
  let t := tileCfg p.tcfg
  let u := unfCfg p.ucfg
  let f := p.fmt.toNat
  let eb := fmtBytes f
  let (rb, cb) := blockOf p.q t.cb
  let rd := partRead col at_ p.rings stage
  let scale := fun (on : Bool) (a : Nat) => if on then fmtF32.decode (rd a 4) else fvOne
  (mmaRows t.m p.mask).foldl (fun x i => (List.range t.n).foldl (fun x j =>
    match free with
    | some n => x.put i j (Config.freeLane n (i * tileCols + j))
    | none =>
      let prod := fun k =>
        let av := match aAddr u eb (u.row0 + 128 * rb + i) k with
          | none => .fin false 0 0
          | some a => (fmtA f).decode (rd a eb)
        FV.mul av ((fmtB f).decode (rd (bAddr t eb cb k j) eb))
      x.put i j (mmaElement (fmtGroup f) t.k prod (scale (scaleA f) (t.sabase + 4 * (128 * rb + i)))
        (scale (scaleB f) (t.sbbase + 4 * (160 * cb + j))) (if p.z then 0 else x.get i j))) x) x

/-- What a part does with a code word of the accumulator: whether it updates any of its elements, and all of them. -/
def mmaTouches (p : MmaPart) (g : Nat) : Bool × Bool :=
  let t := tileCfg p.tcfg
  let i := g * tileWord / tileCols
  let j := g * tileWord % tileCols
  let hit := decide (i < t.m) && has p.mask (i % 64) && decide (j < t.n)
  (hit, hit && decide (j + tileWord ≤ t.n))

/-- A part reads an accumulator code word with an uncorrectable error (R93, R219): any it updates, but for one it writes whole
from +0. -/
def mmaAccBad (p : MmaPart) (x : Tile) : Bool :=
  x.bad.any fun g => (mmaTouches p g).1 && !(p.z && (mmaTouches p g).2)

/-! ### The unit of a core (R95) -/

/-- Cycle count of a die. -/
def State.cycleOf (s : State) (die : Nat) : Nat :=
  match s.dies[die]? with
  | none => 0
  | some d => d.cycle

/-- Occupancy of a part (Table 5.5). An operation without an active lane has no format word: the class is read from lane 0 (log 72). -/
def mmaClocks (p : MmaPart) : Nat :=
  let t := tileCfg p.tcfg
  let d := if fld p.fmt.toNat 10 2 = 0 then 16 else 8
  (t.m + 63) / 64 * ((t.n + 31) / 32) * ((t.k + d - 1) / d)

/-- Clocks from the end of the occupancy to the completion (R95). -/
def mmaDrain : Nat := 40

/-- A part's core. -/
def MmaPart.key (p : MmaPart) : Nat × Nat × Nat := (p.die, p.clus, p.core)

/-- Number of a core on the device. -/
def coreNum (k : Nat × Nat × Nat) : Nat := k.1 * 48 + k.2.1 * 12 + k.2.2

/-- The delay of an acceptance by a core's unit: a limiter that withholds delays it, by how much is free (R239; DESIGN CHOICE, log 98). -/
def State.acceptDelay (s : State) (k : Nat × Nat × Nat) : Nat :=
  match s.dies[k.1]? with
  | none => 0
  | some d => if d.withheld.isSome then Config.acceptDelay (coreNum k) d.cycle else 0

/-- The unit of its core accepts a part behind those it has: the state, and the cycle at which the part completes. -/
def State.acceptPart (s : State) (p : MmaPart) : State × Nat :=
  let fin := max (s.cycleOf p.die) (s.core p.key).unitFree + s.acceptDelay p.key + mmaClocks p
  (s.updCore p.key fun c => { c with unitFree := fin }, fin + mmaDrain)

/-- The units accept the parts of an operation; it completes with the last of them (R95). -/
def acceptParts : List MmaPart → State → State × Nat
  | [], s => (s, 0)
  | p :: r, s =>
    let (s1, d) := s.acceptPart p
    let (s2, ds) := acceptParts r s1
    (s2, max d ds)

/-- The comb writes that colony `j` has made. -/
def State.combSeqOf (s : State) (j : Nat) : Nat :=
  match s.colonies[j]? with
  | none => 0
  | some c => c.combSeq

/-- Accepts a matrix operation of colony `j` as its number `n`. -/
def State.acceptMma (s : State) (j n : Nat) (parts : List MmaPart) (free : Bool) : State :=
  let (s1, due) := acceptParts parts s
  { s1 with mmas := s1.mmas ++ [⟨j, n, parts, free, due, s.combSeqOf j, false⟩] }

/-! ### MMA and MMA.COOP -/

/-- The part an issuing swarm contributes. -/
def mmaPart (e : Env) (q t : Nat) (z : Bool) (m : W64) (f : W32) : MmaPart :=
  ⟨e.i, e.w.nextOp, e.core.1, e.core.2.1, e.core.2.2, q, t, z, m, e.w.tcfg, e.w.ucfg, e.col.rings, f⟩

/-- MMA (R91, R338, R339). -/
def execMma (c : Ctrl) (k : KReg) (z : Bool) (t : Fin 2) (fmt : Operand) (s : State) :
    Host.Outcome State Fault Refusal :=
  issue c {} false (fun e =>
    let m := e.mask k
    let v := e.read 0 fmt
    let f := el v (lowLane m)
    orTrap (firstTrap [
      e.pre [] [.vec fmt false],
      tokenTrap e t.val true,
      fmtVote v m,
      mcfg ((tileCfg e.w.tcfg).m == 0) 1,
      mcfg (e.w.ucfg.all (· == 0)) 2,
      if m = 0 then none else mmaRangeTrap e (tileCfg e.w.tcfg) (unfCfg e.w.ucfg) f.toNat 0 0])
    fun _ =>
      let n := e.col.mmaIssued + 1
      let s1 := e.s.updColony e.w.colony fun c => { c with mmaIssued := n }
      .go (s1.acceptMma e.w.colony n [mmaPart e 0 t.val z m f] false) (some (.engine, none)) none) s

/-- MCFG cause 3 (R94). -/
def coopBad (e : Env) (t : TileCfg) : Bool :=
  decide (t.rb * t.cb > e.fld.desc.span)
  || decide ((e.w.idx : Int) - t.qpart + (t.rb * t.cb : Nat) - 1 ≥ (e.fld.desc.swarms : Int))

/-- The arrivals of an operation, part by part, once all are there (R94): participant 0 says how many they are. -/
def coopGroup (arrs : List CoopArr) (base : Int) : Option (List CoopArr) := do
  let a0 ← arrs.find? fun a => a.base == base && a.q == 0
  let l := (List.range a0.parts).filterMap fun q => arrs.find? fun a => a.base == base && a.q == q
  if l.length = a0.parts then some l else none

/-- An arrival's configuration without QPART. -/
def CoopArr.cfg (a : CoopArr) : List W64 × List W64 × W32 :=
  let w2 := a.tcfg.getD 2 0
  ([a.tcfg.getD 0 0, a.tcfg.getD 1 0, w2 &&& ~~~0x0F000000], a.ucfg, a.fmt)

/-- A cooperative operation starts (R94): every part takes participant 0's configuration and format word; with
differing ones the results are unspecified. -/
def startCoop (j : Nat) (base : Int) (s : State) : State :=
  match s.colonies[j]? with
  | none => s
  | some c =>
    match c.place, coopGroup c.coop base with
    | some sp, some (a0 :: r) =>
      let part := fun a : CoopArr =>
        let k := match s.swarms[a.swarm]? with
          | none => coreAt sp 0
          | some w => coreAt sp w.idx
        (⟨a.swarm, a.op, k.1, k.2.1, k.2.2, a.q, a.tile, a.z, a.mask, a0.tcfg, a0.ucfg, a.rings, a0.fmt⟩ : MmaPart)
      let n := c.mmaIssued + 1
      let grp := a0 :: r
      let s1 := s.updColony j fun c =>
        { c with mmaIssued := n, coop := c.coop.filter fun a => !(grp.any fun b => b.swarm == a.swarm) }
      s1.acceptMma j n (grp.map part) (r.any fun a => a.cfg != a0.cfg)
    | _, _ => s

/-- MMA_COOP (R94, R338, R339). -/
def execMmaCoop (c : Ctrl) (k : KReg) (z : Bool) (t : Fin 2) (fmt : Operand) (s : State) :
    Host.Outcome State Fault Refusal :=
  issue c {} false (fun e =>
    let m := e.mask k
    let v := e.read 0 fmt
    let voters := if m = 0 then allLanes else m
    let f := el v (lowLane voters)
    let tc := tileCfg e.w.tcfg
    let (rb, cb) := blockOf tc.qpart tc.cb
    if e.col.coop.any fun a => a.swarm == e.i then .hold
    else orTrap (firstTrap [
      e.pre [] [.vec fmt false],
      tokenTrap e t.val true,
      fmtVote v voters,
      mcfg (tc.m == 0) 1,
      mcfg (e.w.ucfg.all (· == 0)) 2,
      mcfg (coopBad e tc) 3,
      mmaRangeTrap e tc (unfCfg e.w.ucfg) f.toNat rb cb])
    fun _ =>
      let base : Int := (e.w.idx : Int) - tc.qpart
      let a : CoopArr := ⟨base, tc.rb * tc.cb, tc.qpart, e.i, e.w.nextOp, t.val, z, m, e.w.tcfg, e.w.ucfg, f, e.col.rings⟩
      .go (startCoop e.w.colony base (e.s.updColony e.w.colony fun c => { c with coop := c.coop ++ [a] }))
        (some (.engine, none)) none) s

end Sys2Proof.Machine
end

