-- ==== Sys2Proof/Machine/Copy.lean ====
section
/-! DEFINITION. COPY and COPYX (R138-R142, R317, R318): records, slice arguments, the checks of a slice, joining and
closing a collective, and the engines' accesses to global memory. -/

namespace Sys2Proof.Machine

/-! ### Records and slices -/

/-- A copy record (Table 7.7). -/
structure CopyRec where
  npart : Nat
  ctx : Nat
  barv : Bool
  bar : Nat
  log2g : Nat
  toGlobal : Bool
  mode : Nat
  esz : Nat
deriving DecidableEq, Repr

/-- Reads Table 7.7. -/
def copyRec (w : Nat) : CopyRec :=
  ⟨fld w 27 9, fld w 25 2, w.testBit 24, fld w 19 5, fld w 16 3, w.testBit 6, fld w 4 2, 2 ^ fld w 2 2⟩

/-- The record breaks Table 7.7 (R140, R317). -/
def copyRecBad (e : Env) (w : Nat) : Bool :=
  let r := copyRec w
  w / 2 ^ 36 != 0 || decide (r.npart > e.fld.desc.swarms) || fld w 8 8 != 2 || w.testBit 7 || r.mode == 3
  || (r.mode == 1 && r.toGlobal) || (r.mode == 2 && !r.toGlobal) || (r.mode == 0 && r.log2g != 0)
  || fld w 2 2 == 3 || fld w 0 2 != 0 || (r.barv && decide (r.bar ≥ e.col.bars.length))

/-- The arguments of a slice (R140): sB upward. -/
structure CopyArgs where
  va : Nat
  comb : Nat
  a2 : Nat
  a3 : Nat
  nrow : Nat
  grow : Nat
  crow : Nat
deriving DecidableEq, Repr

/-- Reads the argument words; COPY has one row. -/
def copyArgs (ws : List W64) : CopyArgs :=
  let g := fun k => (ws.getD k 0).toNat
  if ws.length ≤ 4 then ⟨g 0, g 1, g 2, g 3, 1, 0, 0⟩ else ⟨g 0, g 1, g 2, g 3, g 4, g 5, g 6⟩

/-- Channels of a packed slice. -/
def CopyArgs.chans (a : CopyArgs) : Nat := fld a.a2 0 16
/-- Positions of a packed slice. -/
def CopyArgs.posns (a : CopyArgs) : Nat := fld a.a2 16 32
/-- Channels rounded up to whole groups. -/
def CopyArgs.padded (a : CopyArgs) (r : CopyRec) : Nat := roundUp a.chans (2 ^ r.log2g)

/-- A slice argument breaks R140. Bits 63:48 of sB + 2 of a packed slice are not read (DESIGN CHOICE, log 97). -/
def copyArgsBad (r : CopyRec) (a : CopyArgs) : Bool :=
  a.comb % 16 != 0
  || (if r.mode = 0 then a.a2 % r.esz != 0 || a.a3 != 0 else a.chans == 0 || a.posns == 0 || a.a3 % r.esz != 0)
  || a.nrow == 0 || decide (a.nrow > 65535) || a.crow % 16 != 0

/-- Global and comb base of row `n` (R140). -/
def CopyArgs.row (a : CopyArgs) (n : Nat) : Nat × Nat :=
  ((a.va + n * a.grow) % 2 ^ 64, (a.comb + n * a.crow) % 2 ^ 64)

/-- Global ranges of a slice: (first byte, length). -/
def copyRanges (r : CopyRec) (a : CopyArgs) : List (Nat × Nat) :=
  (List.range a.nrow).flatMap fun n =>
    if r.mode = 0 then [((a.row n).1, a.a2)]
    else (List.range a.chans).map fun c => (((a.row n).1 + c * a.a3) % 2 ^ 64, a.posns * r.esz)

/-- Comb ranges of a slice. -/
def copyCombRanges (r : CopyRec) (a : CopyArgs) : List (Nat × Nat) :=
  (List.range a.nrow).map fun n =>
    ((a.row n).2, if r.mode = 0 then a.a2 else a.padded r * a.posns * r.esz)

/-- The elements a slice moves (R140): global address (none for a padding channel) and comb address before mapping. -/
def copyMoves (r : CopyRec) (a : CopyArgs) : List (Option Nat × Nat) :=
  (List.range a.nrow).flatMap fun n =>
    let (g, m) := a.row n
    if r.mode = 0 then (List.range (a.a2 / r.esz)).map fun k => (some ((g + k * r.esz) % 2 ^ 64), m + k * r.esz)
    else (List.range a.posns).flatMap fun x => (List.range (a.padded r)).map fun c =>
      let gr := 2 ^ r.log2g
      (if c < a.chans then some ((g + c * a.a3 + x * r.esz) % 2 ^ 64) else none,
        m + ((c / gr * a.posns + x) * gr + c % gr) * r.esz)

/-! ### Issue -/

/-- COPYCFG with a cause. -/
def copyCfg (bad : Bool) (cause : Nat) : Option Trap := check bad (.plain 0x0E cause 0)

/-- BADVA over a slice's global ranges (R140): cause 1, then cause 2. -/
def copyBadVa (r : CopyRec) (a : CopyArgs) : Option Trap :=
  let rs := copyRanges r a
  firstTrap [
    (rs.find? fun x => decide (x.1 ≥ vaTop) || decide (x.1 + x.2 > vaTop)).map fun x => .plain 9 1 x.1,
    (rs.find? fun x => x.1 % r.esz != 0).map fun x => .plain 9 2 x.1]

/-- COMBOOR over a slice's comb ranges; mapping keeps an address inside its ring's region. INFO names the first comb address of the
range that lies outside, and an empty range has none (DESIGN CHOICE, log 97). -/
def copyCombOor (e : Env) (r : CopyRec) (a : CopyArgs) : Option Trap :=
  ((copyCombRanges r a).find? fun x => x.2 != 0 && decide (x.1 + x.2 > e.fld.desc.combSize)).map fun x =>
    .plain 0x0C 1 (max x.1 e.fld.desc.combSize)

/-- The collective a slice joins (R138): the oldest open one of its context that its swarm has not joined. -/
def Env.joins (e : Env) (ctx : Nat) : Option Coll :=
  e.s.colls.find? fun x => x.colony == e.w.colony && x.ctx == ctx && x.state == .open_
    && !(x.slices.any fun l => l.swarm == e.i)

/-- The barrier of a collective is a ring barrier, and its stage is not this swarm's (R318). -/
def copyStageBad (e : Env) (x : Coll) : Bool :=
  match recBar x.rec_.toNat with
  | none => false
  | some b => (e.col.ringOf b).isSome && x.stage != e.w.stage

/-- Collectives of the issuing swarm's cluster that wait for an engine (R138). -/
def copyQueued (e : Env) : Nat :=
  e.s.colls.countP fun x => x.state == .queued && match e.s.colonies[x.colony]? with
    | none => false
    | some c => match c.place with
      | none => false
      | some p => p.die == e.span.die && p.clus == e.span.clus

/-- The most collectives that wait for an engine in one cluster (R138). -/
def copyQueueMax : Nat := 64

/-- Adds a slice to its collective; the last one closes it (R138): it takes its number and goes to the end of the
queue. Its barrier epoch is that of its first slice's issue (DESIGN CHOICE, log 101). -/
def addSlice (e : Env) (idx w : Nat) (r : CopyRec) (sl : Slice) (s : State) : State :=
  let x : Coll := match e.joins r.ctx with
    | some x => x
    | none => ⟨e.w.colony, r.ctx, idx, BitVec.ofNat 64 w, e.w.stage, (e.col.bar r.bar).epoch, [], 0, .open_, 0⟩
  let np := (copyRec x.rec_.toNat).npart
  let x1 := { x with slices := x.slices ++ [sl] }
  let rest := match e.joins r.ctx with
    | some y => s.colls.erase y
    | none => s.colls
  if x1.slices.length ≥ (if np = 0 then e.fld.desc.swarms else np) then
    let n := e.col.copyIssued.getD r.ctx 0 + 1
    { s with colls := rest ++ [{ x1 with num := n, state := .queued }] }.updColony e.w.colony fun c =>
      { c with copyIssued := c.copyIssued.set r.ctx n }
  else match e.joins r.ctx with
    | some y => { s with colls := s.colls.map fun z => if z = y then x1 else z }
    | none => { s with colls := s.colls ++ [x1] }

/-- A line holds bytes of a slice's global ranges. -/
def copyTouches (r : CopyRec) (a : CopyArgs) (line : Nat) : Bool :=
  (copyRanges r a).any fun x => decide (x.1 < line * 64 + 64) && decide (line * 64 < x.1 + x.2)

/-- The dirty lines that a slice's source touches go back first (R141). -/
def copyFlush (e : Env) (c : Ctrl) (r : CopyRec) (a : CopyArgs) (s : State) : State :=
  if r.toGlobal then s else s.flush e.i e.core e.ctx.asid (e.asOp c) (copyTouches r a)

/-- A home holds one of those write-backs: the slice does not issue yet. -/
def copyHeldBack (e : Env) (r : CopyRec) (a : CopyArgs) : Bool :=
  !r.toGlobal && !e.s.mayFlush e.core e.ctx.asid (copyTouches r a)

/-- One word of the record pool of the issuing swarm's kernel (R281): the state after the read, and the word, or what the
instruction does without it. An index outside the pool and a word on a page that cannot be read raise COPYCFG with cause 2: R140
names no outcome for them (DESIGN CHOICE, log 73). -/
def poolWord (e : Env) (idx : Nat) : State × Except Act Nat :=
  let bad := Except.error (Act.trap (.plain 0x0E 2 0))
  if 8 * idx + 8 > e.fld.desc.recSize then (e.s, bad)
  else match e.s.readAcross e.ctx.asid (e.fld.desc.recBase + 8 * idx) 8 with
    | (s1, .ok bs) => (s1, .ok (leNat bs))
    | (s1, .held) => (s1, .error .hold)
    | (s1, .poison) => (s1, .error (.trap .ecc))
    | (s1, _) => (s1, bad)

/-- A slice (R138-R141, R317). -/
def copyForm (c : Ctrl) (idx n : Nat) (sb : SReg) (s : State) : Host.Outcome State Fault Refusal :=
  issue c { access := true } false (fun e =>
    let regs := regsFrom sb.val n
    if copyQueued e ≥ copyQueueMax then .hold
    else orTrap (e.pre regs (regs.map Rd.sc)) fun _ =>
      match poolWord e idx with
      | (_, .error act) => act
      | (s1, .ok w) =>
        let r := copyRec w
        let ws := scalarsFrom e sb.val n
        let a := copyArgs ws
        orTrap (firstTrap [
          copyCfg (copyRecBad e w || copyArgsBad r a) 2,
          match e.joins r.ctx with
            | none => none
            | some x => firstTrap [copyCfg (x.recIdx != idx) 1, copyCfg (copyStageBad e x) 3],
          copyBadVa r a,
          check (mmaRingBad e.col e.w.stage (copyCombRanges r a)) (.plain 0x0D 6 0),
          copyCombOor e r a])
        fun _ =>
          if copyHeldBack e r a then .hold
          else .go (addSlice e idx w r ⟨e.i, e.w.nextOp, ws, e.col.rings⟩ (copyFlush e c r a s1))
            (some (.engine, none)) none) s

/-- COPY. -/
def execCopy (c : Ctrl) (idx : Fin 16384) (sb : SReg) (s : State) : Host.Outcome State Fault Refusal :=
  copyForm c idx.val 4 sb s

/-- COPYX. -/
def execCopyx (c : Ctrl) (idx : Fin 16384) (sb : SReg) (s : State) : Host.Outcome State Fault Refusal :=
  copyForm c idx.val 7 sb s

/-! ### Engine accesses (R141, R142, R220) -/

/-- What an engine's transfer met. -/
structure EngineRun where
  s : State
  nonres : Bool
  reads : List LaneFault
  writes : List LaneFault
  poison : Bool
deriving DecidableEq, Repr

/-- An engine read of `n` bytes for colony `j` (R141, R142): zero from a page that is not resident, a free value where the read
faults (log 23). R104 has an engine access look up the core's L1 first, R141 says that engines never go through any L1: here they
do not (DEDUCED, log 74). Poison is consumed by the colony and travels on with the data (R219, log 75). -/
def engineRead (j asid va n : Nat) (x : EngineRun) : EngineRun × List Byte :=
  match x.s.readHome asid va n with
  | (s1, .nonres, _) => ({ x with s := s1, nonres := true }, (s1.overlayOf j va (List.replicate n 0)))
  | (s1, .fault c, _) =>
    ({ x with s := { s1 with fresh := s1.fresh + n }, reads := x.reads ++ [⟨64, c, va⟩] },
      (List.range n).map fun k => Config.freeByte (s1.fresh + k))
  | (s1, .held, _) => ({ x with s := s1 }, List.replicate n 0)
  | (s1, .poison, _) => ({ x with s := s1, poison := true }, s1.overlayOf j va ((s1.peek asid va n).getD (List.replicate n 0)))
  | (s1, .ok bs, _) => ({ x with s := s1 }, s1.overlayOf j va bs)

/-- Poison that an engine write carries to a resident page (R219). -/
def State.mark (s : State) (m : MapRec) (va : Nat) (bad : Bool) : State :=
  if bad then { s with poison := insNat (m.paOf va / 16) s.poison } else s

/-- An engine write for colony `j` (R111, R141, R142, R220); `bad` is poison that travels with the data (R219). -/
def engineWrite (j h asid : Nat) (who : Who) (va : Nat) (bad : Bool) (bs : List Byte) (x : EngineRun) : EngineRun :=
  match x.s.askWrite asid va with
  | (s1, .fault c) => { x with s := s1, writes := x.writes ++ [⟨64, c, va⟩] }
  | (s1, .bounce) =>
    { x with s :=
        if s1.restartable j && !s1.bufferFull j va then s1.buffer j (.bytes va bs)
        else (s1.endRestart j 2).bounceLine asid (va / 64) (addrBytes va bs) (if bad then [va / 16] else []) who }
  | (s1, .peer pa) => { x with s := (s1.endRestart j 6).postStore h nobody pa va who bs }
  | (s1, .home m) => { x with s := (((s1.endRestart j 3).homeWrite m asid va bs).dirHome m va false).mark m va bad }
  | (s1, .l1 m) =>
    { x with s :=
        if !s1.restartable j then (s1.homeWrite m asid va bs).mark m va bad
        else if s1.bufferFull j va then ((s1.endRestart j 2).homeWrite m asid va bs).mark m va bad
        else s1.buffer j (.bytes va bs) }

/-- Whose transfer it is: colony, context, address space, attribution; and when it reads the comb. -/
structure Transfer where
  j : Nat
  h : Nat
  asid : Nat
  who : Who
  at_ : ReadAt
deriving DecidableEq, Repr

/-- One element of a slice (R140). -/
def copyElement (t : Transfer) (r : CopyRec) (map : Nat → Nat) (x : EngineRun) (mv : Option Nat × Nat) :
    EngineRun :=
  let cm := map mv.2
  let fill := fun (x : EngineRun) (bad : Bool) (bs : List Byte) =>
    { x with s := x.s.updColony t.j fun c =>
        let c1 := (c.combWrite t.at_.now cm bs).setCell true (cm / 16)
        if bad then { c1 with combPoison := insNat (cm / 16) c1.combPoison } else c1 }
  match mv.1, r.toGlobal with
  | none, false => fill x false (List.replicate r.esz 0)
  | none, true => x
  | some va, false =>
    let (x1, bs) := engineRead t.j t.asid va r.esz { x with poison := false }
    fill { x1 with poison := x.poison || x1.poison } x1.poison bs
  | some va, true =>
    match x.s.colonies[t.j]? with
    | none => x
    | some c =>
      let bad := c.combPoison.contains (cm / 16)
      let x1 := engineWrite t.j t.h t.asid t.who va bad (c.combReadAt t.at_.now t.at_.since t.at_.occ cm r.esz) x
      { x1 with poison := x1.poison || bad }

/-- The comb cells that a slice writes, mapped; those that it writes whole. -/
def copyCells (r : CopyRec) (a : CopyArgs) (map : Nat → Nat) : List Nat :=
  if r.toGlobal then [] else ((copyMoves r a).map fun mv => map mv.2 / 16).foldl (fun acc c => insNat c acc) []

/-- Cells that a slice writes whole lose their poison (R219). -/
def Colony.clearPoison (r : CopyRec) (a : CopyArgs) (map : Nat → Nat) (c : Colony) : Colony :=
  if c.combPoison.isEmpty || r.toGlobal then c
  else
    let whole := (copyCombRanges r a).flatMap fun x =>
      (List.range ((x.1 + x.2) / 16 - (x.1 + 15) / 16)).map fun k => map (((x.1 + 15) / 16 + k) * 16) / 16
    { c with combPoison := c.combPoison.filter fun p => !whole.contains p }

/-- The home holds one of a slice's accesses (R111, R112). -/
def copyHeld (s : State) (j asid : Nat) (r : CopyRec) (a : CopyArgs) : Bool :=
  let vas := (copyMoves r a).filterMap Prod.fst
  if r.toGlobal then s.writesHeld j asid false vas else s.readsHeld asid vas

end Sys2Proof.Machine
end

