-- ==== Sys2Proof/Machine/Work.lean ====
section
/-! DEFINITION. TILE.NEXT (R193, R194, R363), TASK.PUSH and TASK.POP at issue (R196, R360, R361), LAUNCH and LWAIT
(R197-R200, R334, R335). -/

namespace Sys2Proof.Machine

/-! ### Tiles -/

/-- Tiles of a field. -/
def FieldSt.tiles (f : FieldSt) : Nat := f.tx * f.ty * f.tz

/-- Coordinates of a tile (R193). -/
def FieldSt.coords (f : FieldSt) (t : Nat) : Nat × Nat × Nat :=
  (t % f.tx, t / f.tx % f.ty, t / (f.tx * f.ty))

/-- The scalars TILE.NEXT writes for `m` tiles from `t` (R194). -/
def tileWrites (f : FieldSt) (d t m : Nat) : List (Nat × W64) :=
  let (x, y, z) := f.coords t
  [(d, BitVec.ofNat 64 t), (d + 1, BitVec.ofNat 64 m), (d + 2, BitVec.ofNat 64 x), (d + 3, BitVec.ofNat 64 y),
    (d + 4, BitVec.ofNat 64 z)]

/-- The most logged tile ranges of a restartable colony (R221). -/
def tileLogMax : Nat := 64

/-- Logs a range that a restartable colony took; a 65th ends restartability first (R221, R222). -/
def logTiles (j t m : Nat) (s : State) : State :=
  match s.colonies[j]? with
  | none => s
  | some c =>
    if !c.rst then s
    else if c.tileLog.length ≥ tileLogMax then s.endRestart j 7
    else s.updColony j fun c => { c with tileLog := c.tileLog ++ [(t, m)] }

/-- TILE_NEXT (R194, R222, R363). The dispenser serves requests in the order of their issue (log 3). -/
def execTileNext (c : Ctrl) (d : SReg) (n : Fin 4096) (s : State) : Host.Outcome State Fault Refusal :=
  issue c {} false (fun e =>
    orTrap (e.pre (regsFrom d.val 5) []) fun _ =>
      let j := e.w.colony
      match e.col.tileReplay with
      | (t, m) :: r =>
        scalarResult { e with s := logTiles j t m (e.s.updColony j fun c => { c with tileReplay := r }) }
          (tileWrites e.fld d.val t m) none
      | [] =>
        let t := e.fld.nextTile
        let m := min n.val (e.fld.tiles - t)
        if m = 0 then scalarResult e [(d.val, BitVec.allOnes 64), (d.val + 1, 0)] none
        else
          scalarResult { e with s := logTiles j t m (e.s.updField e.col.field fun f => { f with nextTile := t + m }) }
            (tileWrites e.fld d.val t m) none) s

/-! ### Task queues -/

/-- TASK_PUSH at issue (R196, R360). -/
def execTaskPush (c : Ctrl) (d a : SReg) (p : Fin 8) (s : State) : Host.Outcome State Fault Refusal :=
  issue c { access := true } false (fun e =>
    orTrap (e.pre [d.val, a.val, a.val + 1] [.sc a.val, .sc (a.val + 1)]) fun _ =>
      e.ending 5 fun s1 => .go s1 (some (.taskPush p.val (e.scalar 0 a.val) (e.scalar 1 (a.val + 1)) d.val, none)) none) s

/-- TASK_POP at issue (R196, R360). -/
def execTaskPop (c : Ctrl) (d : SReg) (p : Fin 8) (s : State) : Host.Outcome State Fault Refusal :=
  issue c { access := true } false (fun e =>
    orTrap (e.pre (regsFrom d.val 3) []) fun _ => e.ending 5 fun s1 => .go s1 (some (.taskPop p.val d.val, none)) none) s

/-! ### Launch and join -/

/-- Entries of a pending-launch queue (R197). -/
def launchMax : Nat := 4

/-- The fence that LAUNCH begins with (R198), after restartability has ended (R221). -/
def launchFence (e : Env) (c : Ctrl) : State :=
  (e.s.endRestart e.w.colony 5).fenceFlush e.i e.core e.ctx.asid (e.asOp c)

/-- The fence and the drain before it can be made now. -/
def launchReady (e : Env) : Bool :=
  e.w.quiet && e.s.sendsOk e.ctx.asid [e.s.drainSends e.w.colony, sendsOfLines (e.s.dirtyLines e.core e.ctx.asid fun _ => true)]

/-- A LAUNCH of the colony has issued in this clock: the entries that this clock frees were freed before it (R198). -/
def State.noteLaunch (s : State) (j : Nat) : State := { s with clk := { s.clk with launched := j :: s.clk.launched } }

/-- LAUNCH with its checks (R198, R334); its fence waits until the swarm's accesses have completed, and while a home holds one of its
write-backs. -/
def launchForm (wait : Bool) (c : Ctrl) (d a : SReg) (s : State) : Host.Outcome State Fault Refusal :=
  issueWith settle c { access := true } true (fun e =>
    orTrap (e.pre [d.val, a.val] [.sc a.val]) fun _ =>
      let va := (e.scalar 0 a.val).toNat
      orTrap (badVa1 va 64) fun _ =>
        let s1 := (launchFence e c).noteLaunch e.w.colony
        if !launchReady e then .hold
        else if wait then waitOn e (.launch va d.val) 0 s1
        else if e.col.launchQ.length < launchMax then .go (enqueueLaunch e va d.val s1) none none
        else .go (s1.updSwarm e.i fun w => w.sset d.val 0) none none) s

/-- LAUNCH. -/
def execLaunch (c : Ctrl) (d a : SReg) (s : State) : Host.Outcome State Fault Refusal := launchForm false c d a s

/-- LAUNCH_WAIT. -/
def execLaunchWait (c : Ctrl) (d a : SReg) (s : State) : Host.Outcome State Fault Refusal := launchForm true c d a s

/-- Class and target of a record as LWAIT checks them (R200, R335): class 3 counts as CONC. -/
def lwaitLegal (w1 : Nat) : Bool :=
  let cls := fld w1 30 2
  legalWait (if cls = 3 then 0 else cls) (if w1.testBit 29 then .reserved else .other) false

/-- LWAIT once its operands are checked (R200, R335). -/
def lwaitAct (e : Env) (d va n : Nat) : Act :=
  match e.s.readHome e.ctx.asid va 64 with
  | (s1, .nonres, _) => .go ((s1.setNonres e.i).updSwarm e.i fun w => w.sset d 0) none none
  | (s1, .fault cause, _) => preciseFault e s1 cause va
  | (_, .held, _) => .hold
  | (s1, .poison, _) => .go (s1.consumeBy e.w.colony (some e.i)) none none
  | (s1, .ok bs, coherent) =>
    orTrap (illWait (lwaitLegal (lineWord bs 1))) fun _ =>
      if coherent then waitOn e (.lwait va n d) (fld (lineWord bs 1) 30 2) s1 else preciseFault e s1 3 va

/-- LWAIT (R200, R335). -/
def execLwait (c : Ctrl) (d a : SReg) (s : State) : Host.Outcome State Fault Refusal :=
  issueWith settle c { access := true } true (fun e =>
    orTrap (e.pre [d.val, a.val, a.val + 1] [.sc a.val, .sc (a.val + 1)]) fun _ =>
      let va := (e.scalar 0 a.val).toNat
      orTrap (badVa1 va 64) fun _ => e.afterAcq (some (va, 64)) <| lwaitAct e d.val va (e.scalar 1 (a.val + 1)).toNat) s

end Sys2Proof.Machine
end

