-- ==== Sys2Proof/Machine/Special.lean ====
section
/-! DEFINITION. GETID (R328, Table 22.1), GETID.HOP (R229), SRD and SWR (R298, R358, R359, Table 20.11). -/

namespace Sys2Proof.Machine

/-- Clocks of GETID and SRD. -/
def idClocks : Nat := 2
/-- Clocks of SWR. -/
def swrClocks : Nat := 1

/-! ### Identifiers -/

/-- Virtual-die state "present" (Table 16.1). -/
def vdiePresent : Nat := 1

/-- The virtual die whose entry names a compute socket. -/
def Ctx.vdieOf (c : Ctx) (socket : Nat) : Nat :=
  (c.vdies.findIdx? fun v => v.state != 0 && v.socket == socket).getD 0

/-- Value of an identifier (Table 22.1). -/
def identifier (e : Env) : IdSel → Nat
  | .swarm => e.w.idx
  | .stage => e.w.stage
  | .colony => e.col.index
  | .field => e.fld.id
  | .nswarm => e.fld.desc.swarms
  | .span => e.fld.desc.span
  | .nstage => e.fld.desc.stages.length
  | .class => e.fld.cls
  | .spanpos => e.w.idx % max 1 e.span.cores.length
  | .vdie => e.ctx.vdieOf e.span.die
  | .cluster => e.span.clus
  | .core => e.core.2.2
  | .ncolony => e.fld.colonies

/-- GETID (R328). -/
def execGetid (c : Ctrl) (d : SReg) (sel : IdSel) (s : State) : Host.Outcome State Fault Refusal :=
  issue c {} false (fun e =>
    orTrap (e.pre [d.val] []) fun _ => scalarResult e [(d.val, BitVec.ofNat 64 (identifier e sel))] (some idClocks)) s

/-- Passenger a number names (R229); none where no place answers. -/
def hopPlace (c : Ctx) (v : Nat) : Option Nat :=
  if v < 4 then match c.vdies[v]? with
    | none => none
    | some x => if x.state = vdiePresent then some x.socket else none
  else if (4 ≤ v && v ≤ 11) || v = 20 then some v
  else none

/-- Router coordinates (Table 16.2). -/
def routerAt (p : Nat) : Nat × Nat :=
  if p < 4 then (p, 1) else if p < 8 then (p - 4, 0) else if p < 12 then (p - 8, 2) else (4, 1)

/-- Difference of two coordinates. -/
def distNat (a b : Nat) : Nat := (a - b) + (b - a)

/-- The hop distance of two passengers (R229). -/
def hopDistance (c : Ctx) (a b : Nat) : W64 :=
  match hopPlace c a, hopPlace c b with
  | some p, some q =>
    BitVec.ofNat 64 (distNat (routerAt p).1 (routerAt q).1 + distNat (routerAt p).2 (routerAt q).2)
  | _, _ => BitVec.allOnes 64

/-- GETID_HOP (R229). -/
def execGetidHop (c : Ctrl) (d a b : SReg) (s : State) : Host.Outcome State Fault Refusal :=
  issue c {} false (fun e =>
    orTrap (e.pre [d.val, a.val, b.val] [.sc a.val, .sc b.val]) fun _ =>
      scalarResult e [(d.val, hopDistance e.ctx (e.scalar 0 a.val).toNat (e.scalar 1 b.val).toNat)] (some idClocks)) s

/-! ### Special registers -/

/-- Flag counters `lo` to `lo + n - 1` as 6-bit fields (Table 14.3). -/
def flagFields (fs : List Nat) (lo n : Nat) : Nat :=
  ((List.range n).map fun k => fs.getD (lo + k) 0 * 2 ^ (6 * k)).sum

/-- SR.RESTART (Table 14.8). -/
def restartWord (c : Colony) : Nat :=
  c.rst.toNat * 2 ^ 31 + c.rstCause * 2 ^ 28 + c.rstCount * 2 ^ 24 + c.sbufLines

/-- A special register as it stands (Table 20.11). -/
def spRead (e : Env) : SpReg → W64
  | .starve => BitVec.ofNat 64 (e.w.starveLevel * 2 ^ 8 + e.w.starveLog2)
  | .resumes => e.col.resumes.setWidth 64
  | .check => BitVec.ofNat 64 e.ctx.check.toNat
  | .nonres => BitVec.ofNat 64 e.w.nonres.toNat
  | .privbase => BitVec.ofNat 64 e.w.privBase
  | .privsize => BitVec.ofNat 64 e.w.privSize
  | .combhash => BitVec.ofNat 64 e.fld.desc.hash
  | .barstat => BitVec.ofNat 64 e.w.barstat
  | .bardrop => e.col.bardrop.setWidth 64
  | .copyst => BitVec.ofNat 64 e.col.copyst
  | .restart => BitVec.ofNat 64 (restartWord e.col)
  | .tvec => e.ctx.tvec.setWidth 64
  | .trec i => [e.w.trap.rec0, e.w.trap.rec1, e.w.trap.rec2, e.w.trap.rec3].getD i.val 0
  | .tresume => e.w.trap.resume.setWidth 64
  | .tstat => BitVec.ofNat 64 e.w.trap.intrap.toNat
  | .tflags i => BitVec.ofNat 64 (if i.val = 0 then flagFields e.w.trap.flags 0 10 else flagFields e.w.trap.flags 10 2)
  | .tcfg i => e.w.tcfg.getD i.val 0
  | .ucfg i => e.w.ucfg.getD i.val 0

/-- SRD (R358). -/
def execSrd (c : Ctrl) (d : SReg) (r : SpReg) (s : State) : Host.Outcome State Fault Refusal :=
  issue c {} false (fun e =>
    orTrap (e.pre [d.val] []) fun _ => scalarResult e [(d.val, spRead e r)] (some idClocks)) s

/-- What a write of a special register does when it lands (R298, R358): a value its own table rejects changes nothing. -/
def State.spWrite (s : State) (i : Nat) (r : SpReg) (v : W64) : State :=
  match r with
  | .starve =>
    let l := fld v.toNat 0 5
    if 10 ≤ l && l ≤ 30 then s.updSwarm i fun w => { w with starveLog2 := l } else s
  | .nonres => s.updSwarm i fun w => { w with nonres := w.nonres && (!v.getLsbD 0 || s.clk.nonres.contains i) }
  | .copyst =>
    match s.swarms[i]? with
    | none => s
    | some w =>
      -- a bit that hardware has set in this very clock stays set (R359)
      let kept := (List.range 4).foldl (fun m b => if s.clk.copyst.contains (w.colony, b) then m ||| 2 ^ b else m) 0
      s.updColony w.colony fun c => { c with copyst := c.copyst &&& (15 - fld v.toNat 0 4 ||| kept) }
  | .tresume =>
    if v.toNat % 8 = 0 then s.updSwarm i fun w => { w with trap := { w.trap with resume := v.setWidth 52 } } else s
  | _ => s

/-- SWR (R298, R358, R359). -/
def execSwr (c : Ctrl) (r : SpReg) (a : SReg) (s : State) : Host.Outcome State Fault Refusal :=
  issue c {} false (fun e =>
    orTrap (firstTrap [check (!r.writable) (.illop 5), e.pre [a.val] [.sc a.val]]) fun _ =>
      .go e.s (some (.result [] [] none (some (r, e.scalar 0 a.val)), some swrClocks)) none) s

end Sys2Proof.Machine
end

