-- ==== Sys2Proof/Machine/Complete.lean ====
section
/-! DEFINITION. What operations in flight do when they perform and complete: results landing (R38, R202, R333), loads,
stores, atomics and reductions (R109-R114, R163, R166-R168, R303-R306, R315, R346, R377, R386), BIND, UNBIND, REL and
FENCE (R153, R154, R160), CINV (R107), BULKPF (R117), task queues (R195, R196), collectives (R141, R142) and matrix
operations (R91-R95). Each event names an operation in flight; it does not happen (notEnabled) before its time. -/

namespace Sys2Proof.Machine

/-! ### Finding an operation -/

/-- Operation `id` of swarm `i`. -/
def State.op? (s : State) (i id : Nat) : Option Op := do
  let w ← s.swarms[i]?
  w.ops.find? fun o => o.id == id

/-- Who performs the accesses of swarm `i`: none while its colony has no place. -/
def State.actorOf (s : State) (i : Nat) : Option Actor := do
  let w ← s.swarms[i]?
  let c ← s.colonies[w.colony]?
  let f ← s.fields[c.field]?
  let x ← s.ctx? f.ctx
  let p ← c.place
  return ⟨i, w.colony, coreAt p w.idx, x.asid, x.handle⟩

/-- An operation's fixed latency has run out. -/
def Op.isDue (o : Op) (cycle : Nat) : Bool :=
  match o.due with
  | none => true
  | some d => d ≤ cycle

/-- An operation whose latency has run out lands before this one: those that end earlier, and of one cycle those issued earlier;
every one of them before an operation of variable latency, whose residency report comes after the writes of K forms (R333). -/
def Op.landsBefore (cycle : Nat) (o p : Op) : Bool :=
  match p.due with
  | none => false
  | some d => decide (d ≤ cycle) && p.id != o.id && (match o.due with
    | none => true
    | some t => decide (d < t) || (d == t && decide (p.id < o.id)))

/-- No operation of the swarm is still to land before this one. -/
def State.landsNext (s : State) (i cycle : Nat) (o : Op) : Bool :=
  match s.swarms[i]? with
  | none => false
  | some w => w.ops.all fun p => !o.landsBefore cycle p

/-- The operations of a swarm issued before operation `id`. -/
def Swarm.earlier (w : Swarm) (id : Nat) : List Op := w.ops.filter fun o => o.id < id

/-- The operation ends: its flag counts down, a handler that waits for it is entered, and waits it released go on. -/
def finish (i : Nat) (o : Op) (s : State) : State := settle ((s.updSwarm i fun w => w.endOp o).tryEnter i)

/-- An event on an operation in flight, with the actor that performs it; it answers none when it cannot happen yet. -/
def onOp (i id : Nat) (f : Actor → Op → State → Option State) (s : State) : Host.Outcome State Fault Refusal :=
  match s.op? i id, s.actorOf i with
  | some o, some a =>
    if o.isDue (s.cycleOf a.k.1) && s.landsNext i (s.cycleOf a.k.1) o then
      match f a o s with
      | none => .refused .notEnabled
      | some s1 => .next s1
    else .refused .notEnabled
  | _, _ => .refused .notEnabled

/-! ### Order within a swarm (R154, R160, R162, R163, R196) -/

/-- An access through a tainted address (R163). -/
def OpBody.tainted : OpBody → Bool
  | .load _ _ _ _ _ t | .store _ _ _ _ t | .atom _ _ _ _ _ _ _ t | .red _ _ _ _ _ t => t
  | .atom2 _ _ _ _ _ _ _ _ _ _ t => t
  | _ => false

/-- A read of global memory. -/
def OpBody.loads : OpBody → Bool
  | .load .. | .cload .. | .atom .. | .atom2 .. => true
  | _ => false

/-- A load-consume. -/
def OpBody.consumes : OpBody → Bool
  | .load _ c .. => c
  | _ => false

/-- An access that writes. -/
def OpBody.writes : OpBody → Bool
  | .store .. | .cstore .. | .atom .. | .atom2 .. | .red .. | .bind .. | .rel .. => true
  | _ => false

/-- A TASK.POP: when it returns a pair, every later access comes after it (R196, R361). -/
def OpBody.pops : OpBody → Bool
  | .taskPop .. => true
  | _ => false

/-- A REL. -/
def OpBody.releases : OpBody → Bool
  | .rel .. => true
  | _ => false

/-- Port of a task operation. -/
def OpBody.port? : OpBody → Option Nat
  | .taskPush p .. | .taskPop p _ => some p
  | _ => none

/-- No earlier operation of the swarm holds this one back. A read comes after an earlier access through a tainted address, which may have
acquired what it reads (R161). -/
def Swarm.inOrder (w : Swarm) (o : Op) : Bool :=
  (w.earlier o.id).all fun p =>
    !(p.body.span.any fun a => o.body.span.any (meets a))
    && !(o.body.tainted && p.body.consumes)
    && !(o.body.isAccess && p.body.pops)
    && !(o.body.loads && p.body.tainted)
    && (match o.body with
        | .rel .. | .fence _ => !p.body.isAccess
        | .taskPush .. => !p.body.writes
        | .taskPop .. => !p.body.releases
        | _ => true)
    && (match o.body.port?, p.body.port? with
        | some a, some b => a != b
        | _, _ => true)

/-- The fabric peers that a store sends to (R258). -/
def State.peersOf (s : State) (asid : Nat) (b : OpBody) : List Nat :=
  match b with
  | .store .. | .cstore .. => b.span.filterMap fun x =>
    match s.heldMap asid x.1 with
    | some m => if isPeerPa (m.paOf x.1) then some (m.paOf x.1 / 2 ^ 32 % 2 ^ 11) else none
    | none => match s.walkAny asid x.1 with
      | .ok m _ => if isPeerPa (m.paOf x.1) then some (m.paOf x.1 / 2 ^ 32 % 2 ^ 11) else none
      | _ => none
  | _ => []

/-- Posted stores of a swarm to one peer are sent in the order of their issue (R259, Table 9.9 note 6). -/
def State.postsInOrder (s : State) (i : Nat) (w : Swarm) (o : Op) : Bool :=
  let ps := s.peersOf (s.asidOf i) o.body
  ps.isEmpty || (w.earlier o.id).all fun p => !(s.peersOf (s.asidOf i) p.body).any ps.contains

/-- The operation may perform now. -/
def State.mayPerform (s : State) (i : Nat) (o : Op) : Bool :=
  match s.swarms[i]? with
  | none => false
  | some w => w.inOrder o && s.postsInOrder i w o

/-- The homes of atomics hold one of these accesses: each snoops every sharer of its line, and none waits in a bounce buffer
(R110, R112, R232). -/
def State.atomHeld (s : State) (asid : Nat) (vas : List Nat) : Bool :=
  vas.any fun v => s.holds asid v false || (s.snooped asid v true).any s.linkHeld

/-! ### Results -/

/-- Lands the parts of a result. -/
def landResult (i id : Nat) (vecs : List (W64 × List W32)) (scals : List (Nat × W64)) (km : Option (Nat × W64))
    (sr : Option (SpReg × W64)) (s : State) : State :=
  let s1 := s.updSwarm i fun w =>
    let w1 := (Swarm.landAll id 0 vecs w).writeScalars scals
    match km with
    | none => w1
    | some (k, v) => { w1 with top := w1.top.setMask k v }
  match sr with
  | none => s1
  | some (r, v) => s1.spWrite i r v

/-- VECTOR_RESULT_COMPLETE (R38, R202, R333): entries, frame slots and masks. -/
def execVectorResultComplete (sw op : Nat) (s : State) : Host.Outcome State Fault Refusal :=
  onOp sw op (fun _ o s => match o.body with
    | .result vecs scals km sr =>
      if vecs.isEmpty && km.isNone then none else some (finish sw o (landResult sw op vecs scals km sr s))
    | .mrd _ m d => some (finish sw o (landResult sw op [(m, d)] [] none none s))
    | .mwr _ => some (finish sw o s)
    | _ => none) s

/-- SCALAR_RESULT_COMPLETE (R202, R212): scalar registers and special registers. -/
def execScalarResultComplete (sw op : Nat) (s : State) : Host.Outcome State Fault Refusal :=
  onOp sw op (fun _ o s => match o.body with
    | .result [] scals none sr =>
      if scals.isEmpty && sr.isNone then none else some (finish sw o (landResult sw op [] scals none sr s))
    | _ => none) s

/-! ### Loads -/

/-- Value of loaded bytes (Table 20.6): extended to 64 bits. -/
def mtValue (mt : MT) (bs : List Byte) : W64 :=
  let v := leNat bs
  match mt with
  | .s8 => (BitVec.ofNat 8 v).signExtend 64
  | .s16 => (BitVec.ofNat 16 v).signExtend 64
  | _ => BitVec.ofNat 64 v

/-- The entries of 64 wide elements: one, or the low halves and then the high halves (R42). -/
def entriesOf (wide : Bool) (vs : List W64) : List (List W32) :=
  if wide then [vs.map lo32, vs.map hi32] else [vs.map lo32]

/-- What the lanes of an access have met so far (Table 14.2). -/
structure LaneRun where
  s : State
  vals : List (Nat × W64)
  nonres : List Nat
  faults : List LaneFault
  held : Bool
  poison : Bool
deriving DecidableEq, Repr

/-- A run before its first lane. -/
def LaneRun.start (s : State) : LaneRun := ⟨s, [], [], [], false, false⟩

/-- The value delivered in a lane; zero where none was. -/
def LaneRun.val (r : LaneRun) (l : Nat) : W64 := spGet 0 r.vals l

/-- One lane of a load (R377). -/
def loadLaneStep (a : Actor) (mt : MT) (tainted : Bool) (r : LaneRun) (lv : Nat × Nat) : LaneRun :=
  match r.s.loadLane a lv.2 (mtBytes mt) tainted with
  | (s1, .ok bs) => { r with s := s1, vals := (lv.1, mtValue mt bs) :: r.vals }
  | (s1, .nonres) =>
    -- a restartable colony still sees its own buffered bytes (R220)
    { r with s := s1, nonres := lv.1 :: r.nonres,
             vals := (lv.1, mtValue mt (s1.overlayOf a.j lv.2 (List.replicate (mtBytes mt) 0))) :: r.vals }
  | (s1, .fault c) => { r with s := s1, faults := r.faults ++ [⟨lv.1, c, lv.2⟩] }
  | (s1, .held) => { r with s := s1, held := true }
  | (s1, .poison) => { r with s := s1, poison := true }

/-- The active lanes with their addresses. -/
def laneAddrs (m : W64) (vas : List Nat) : List (Nat × Nat) := (lanesOf m).map fun l => (l, vas.getD l 0)

/-- The lanes of a list as a mask. -/
def maskOfLanes (ls : List Nat) : W64 := maskOf fun l => ls.contains l

/-- An access meets an uncorrectable error (R210, R219): it never retires and its flag keeps its count; the colony consumes the error.
What its other lanes had done in memory by then the spec does not say: here it stays (DESIGN CHOICE, log 89). -/
def State.consumeOp (s : State) (a : Actor) (o : Op) : State :=
  (s.updSwarm a.i fun w => { w with ops := w.ops.map fun p => if p.id == o.id then { p with body := .stuck } else p }).consumeBy
    a.j (some a.i)

/-- Ends an access whose lanes have run: consumption (R210), or its entries, its residency report and its faults. -/
def finishLanes (a : Actor) (o : Op) (asid kind kr : Nat) (mask : W64) (entries : List (List W32)) (r : LaneRun) : State :=
  if r.poison then r.s.consumeOp a o
  else
    let s1 := r.s.refuse a.i o asid kind r.faults
    let s2 := landResult a.i o.id (entries.map fun v => (mask, v)) [] none none s1
    finish a.i o (s2.updSwarm a.i fun w => w.orMask kr (maskOfLanes r.nonres))

/-- An access through a tainted address acquires as a fence pair does (R161): the core's bound lines are read from their homes again, by
every later access of the core (DEDUCED, log 105). -/
def State.acquireFor (s : State) (a : Actor) (b : OpBody) : State := if b.tainted then s.acqLines a.k a.asid else s

/-- LOAD_COMPLETE of VLD and VLDC (R109, R163, R377), and of CLD (R315). -/
def execLoadComplete (sw op : Nat) (s : State) : Host.Outcome State Fault Refusal :=
  onOp sw op (fun a o s =>
    if !s.mayPerform sw o then none
    else match o.body with
    | .load mt _ m vas kr t =>
      let r := (laneAddrs m vas).foldl (loadLaneStep a mt t) (LaneRun.start (s.acquireFor a o.body))
      if r.held then none
      else some (finishLanes a o a.asid 0 kr m (entriesOf (mtWide mt) (laneList.map r.val)) r)
    | .cload mt va d =>
      let r := loadLaneStep a mt false (LaneRun.start s) (64, va)
      if r.held then none
      else if r.poison then some (r.s.consumeOp a o)
      else
        let s1 := (r.s.refuse a.i o a.asid 0 r.faults).updSwarm sw fun w => w.sset d (r.val 64)
        some (finish sw o (if r.nonres.isEmpty then s1 else s1.setNonres sw))
    | _ => none) s

/-! ### Stores, reductions, BIND and UNBIND -/

/-- One lane of a store (R386). -/
def storeLaneStep (a : Actor) (pc z : Nat) (r : State × List LaneFault) (x : Nat × Nat × W64) : State × List LaneFault :=
  match r.1.storeLane a pc x.2.1 (leBytes z x.2.2.toNat) with
  | (s1, none) => (s1, r.2)
  | (s1, some c) => (s1, r.2 ++ [⟨x.1, c, x.2.1⟩])

/-- One lane of a reduction (R167, R346). -/
def redLaneStep (a : Actor) (op : AtomOp) (wide : Bool) (who : Who) (r : State × List LaneFault) (x : Nat × Nat × W64) :
    State × List LaneFault :=
  match r.1.atomHome a.asid x.2.1 with
  | (s1, .nonres) => (s1.bounce a.asid x.2.1 (.red op wide x.2.1 x.2.2) who, r.2)
  | (s1, .fault c) => (s1, r.2 ++ [⟨x.1, c, x.2.1⟩])
  | (s1, .ok m) => (s1.redAt a.k op wide m a.asid x.2.1 x.2.2, r.2)

/-- The active lanes with addresses and data. -/
def laneData (m : W64) (vas : List Nat) (data : List W64) : List (Nat × Nat × W64) :=
  (lanesOf m).map fun l => (l, vas.getD l 0, el64 data l)

/-- A reduction reads an uncorrectable error at its home (R219). -/
def State.redPoisoned (s : State) (asid z : Nat) (vas : List Nat) : Bool :=
  !s.poison.isEmpty && vas.any fun v => match s.heldMap asid v with
    | none => false
    | some m => s.poisoned (m.paOf v) z

/-- What BIND (a region) or UNBIND (none) writes (Table 9.2). -/
def State.bindAt (s : State) (m : MapRec) (asid va : Nat) (region : Option (Nat × Nat)) : State :=
  match region with
  | some (base, len) => (s.putWord m asid va 1 (base + 1)).putWord m asid va 2 len
  | none =>
    let w1 := s.getWord m va 1
    s.putWord m asid va 1 (w1 - w1 % 2)

/-- STORE_COMPLETE of VST, CST, RED, BIND, UNBIND, and of a comb store whose clocks are over (R111, R113, R124, R153,
R346, R386). -/
def execStoreComplete (sw op : Nat) (s : State) : Host.Outcome State Fault Refusal :=
  onOp sw op (fun a o s =>
    let who := s.whoOf sw o.pc.toNat
    if !s.mayPerform sw o then none
    else match o.body with
    | .store mt m vas data _ =>
      let ls := laneData m vas data
      if s.storesHeld a (ls.map fun x => x.2.1) then none
      else
        let (s1, fs) := ls.foldl (storeLaneStep a o.pc.toNat (mtBytes mt)) (s.acquireFor a o.body, [])
        some (finish sw o (s1.refuse sw o a.asid 1 fs))
    | .cstore mt va v =>
      if s.storesHeld a [va] then none
      else
        let (s1, fs) := storeLaneStep a o.pc.toNat (mtBytes mt) (s, []) (64, va, v)
        some (finish sw o (s1.refuse sw o a.asid 1 fs))
    | .red rop wide m vas val _ =>
      let ls := laneData m vas val
      let vas := ls.map fun x => x.2.1
      if s.writesHeld a.j a.asid true vas then none
      else
        let (s1, fs) := ls.foldl (redLaneStep a rop wide who) (s.acquireFor a o.body, [])
        if s1.redPoisoned a.asid (atomBytes wide) vas then some (s1.consumeOp a o)
        else some (finish sw o (s1.refuse sw o a.asid 3 fs))
    | .bind va region =>
      if s.holds a.asid va true || s.clk.rels.contains (a.asid, va) then none
      else match s.objHome a.asid va with
      | (s1, .nonres) => some (finish sw o (s1.bounce a.asid va (.bind va region) who))
      | (s1, .fault c) => some (finish sw o (s1.refuse sw o a.asid 1 [⟨64, c, va⟩]))
      | (s1, .ok m) => some (finish sw o (s1.bindAt m a.asid va region))
    | .result [] [] none none => some (finish sw o s)
    | _ => none) s

/-! ### Atomics -/

/-- One lane of an ATOM (R303). -/
def atomLaneStep (a : Actor) (op : AtomOp) (wide : Bool) (val exp : List W64) (r : LaneRun) (lv : Nat × Nat) : LaneRun :=
  match r.s.atomHome a.asid lv.2 with
  | (s1, .nonres) => { r with s := s1, nonres := lv.1 :: r.nonres }
  | (s1, .fault c) => { r with s := s1, faults := r.faults ++ [⟨lv.1, c, lv.2⟩] }
  | (s1, .ok m) =>
    let z := atomBytes wide
    if s1.poisoned (m.paOf lv.2) z then { r with s := s1, poison := true }
    else
      let (s2, old) := s1.homeVal m lv.2 z
      { r with
        s := s2.homePut m a.asid lv.2 z (atomNew op wide old (el64 val lv.1) (el64 exp lv.1))
        vals := (lv.1, old) :: r.vals }

/-- What a lane of ATOM2 writes at its two locations, when it writes (R168, R305). -/
def atom2New (dcas : Bool) (o1 o2 e1 e2 n1 n2 : W64) : Option (W64 × W64) :=
  if dcas then (if o1 = e1 && o2 = e2 then some (n1, n2) else none) else some (n2, o1)

/-- The operands of ATOM2, lane by lane. -/
structure Atom2Args where
  dcas : Bool
  wide : Bool
  v1 : List Nat
  v2 : List Nat
  e1 : List W64
  e2 : List W64
  n1 : List W64
  n2 : List W64
deriving DecidableEq, Repr

/-- One lane of an ATOM2 (R168, R305, R306): both old values are kept, location 1 under the lane's number and location 2
under 64 more. -/
def atom2LaneStep (a : Actor) (x : Atom2Args) (r : LaneRun) (l : Nat) : LaneRun :=
  let va1 := x.v1.getD l 0
  let va2 := x.v2.getD l 0
  let z := atomBytes x.wide
  let (s1, h1) := r.s.atomHome a.asid va1
  let (s2, h2) := s1.atomHome a.asid va2
  match h1, h2 with
  | .fault c, .fault d =>
    { r with s := s2, faults := r.faults ++ (if c = d then [⟨l, c, va1⟩] else [⟨l, c, va1⟩, ⟨l, d, va2⟩]) }
  | .fault c, .ok _ => { r with s := s2, faults := r.faults ++ [⟨l, c, va1⟩] }
  | .ok _, .fault c => { r with s := s2, faults := r.faults ++ [⟨l, c, va2⟩] }
  -- one location faults and the other is not resident: both are reported
  | .fault c, .nonres => { r with s := s2, faults := r.faults ++ [⟨l, c, va1⟩], nonres := l :: r.nonres }
  | .nonres, .fault c => { r with s := s2, faults := r.faults ++ [⟨l, c, va2⟩], nonres := l :: r.nonres }
  | .ok m1, .ok m2 =>
    if s2.poisoned (m1.paOf va1) z || s2.poisoned (m2.paOf va2) z then { r with s := s2, poison := true }
    else
      let (s3, o1) := s2.homeVal m1 va1 z
      let (s4, o2) := s3.homeVal m2 va2 z
      let s5 := match atom2New x.dcas o1 o2 (el64 x.e1 l) (el64 x.e2 l) (el64 x.n1 l) (el64 x.n2 l) with
        | none => s4
        | some (w1, w2) =>
          if x.dcas then (s4.homePut m1 a.asid va1 z w1).homePut m2 a.asid va2 z w2
          else (s4.homePut m2 a.asid va2 z w2).homePut m1 a.asid va1 z w1
      { r with s := s5, vals := (l, o1) :: (l + 64, o2) :: r.vals }
  | _, _ => { r with s := s2, nonres := l :: r.nonres }

/-- ATOMIC_PERFORM (R110, R166, R168, R303-R306). -/
def execAtomicPerform (sw op : Nat) (s : State) : Host.Outcome State Fault Refusal :=
  onOp sw op (fun a o s =>
    if !s.mayPerform sw o then none
    else match o.body with
    | .atom aop wide m vas val exp kr _ =>
      let ls := laneAddrs m vas
      if s.atomHeld a.asid (ls.map Prod.snd) then none
      else
        let r := ls.foldl (atomLaneStep a aop wide val exp) (LaneRun.start (s.acquireFor a o.body))
        some (finishLanes a o a.asid 2 kr m (entriesOf wide (laneList.map r.val)) r)
    | .atom2 dcas wide m v1 v2 e1 e2 n1 n2 kr _ =>
      let ls := lanesOf m
      if s.atomHeld a.asid (ls.flatMap fun l => [v1.getD l 0, v2.getD l 0]) then none
      else
        let r := ls.foldl (atom2LaneStep a ⟨dcas, wide, v1, v2, e1, e2, n1, n2⟩) (LaneRun.start (s.acquireFor a o.body))
        let first := entriesOf wide (laneList.map r.val)
        let second := if dcas then entriesOf wide (laneList.map fun l => r.val (l + 64)) else []
        some (finishLanes a o a.asid 2 kr m (first ++ second) r)
    | _ => none) s

/-! ### REL and FENCE -/

/-- The swarm's posted fabric stores have been acknowledged. -/
def State.postedDone (s : State) (i : Nat) : Bool := s.posted.all fun p => p.swarm != i

/-- The bound region of an object, when it can be read and a region is bound (R154). -/
def State.boundRegion (s : State) (asid va : Nat) : Option (Nat × Nat) :=
  match s.peek asid va objBytes with
  | none => none
  | some bs =>
    let w1 := lineWord bs 1
    if w1 % 2 = 1 then some (fld w1 6 46 * 64, fld (lineWord bs 2) 0 37) else none

/-- The lines that a REL writes back (R154): those that overlap the bound region. Of an object that is not resident the region
is not to be read; its REL has made its write-backs all the same (R153): here they are those of every line (DEDUCED, log 77). -/
def State.relLines (s : State) (asid va line : Nat) : Bool :=
  match s.walkAny asid va, s.heldMap asid va with
  | .nonres, none => true
  | _, _ => match s.boundRegion asid va with
    | none => false
    | some r => meets (line * 64, 64) r

/-- What a REL sends to its object's home: nothing while the store buffer takes it (R220, R349, log 78), the buffer's drain first where its
line is one too many (R221). -/
def State.relSends (s : State) (j va : Nat) : List Sends :=
  if !s.restartable j then [[(va, true)]]
  else if s.bufferFull j va then [s.drainSends j, [(va, true)]]
  else []

/-- REL_PERFORM (R153, R154, R349). A REL at swarm or colony scope of a restartable colony goes to the store buffer, as every global
write of the colony, its object resident or not. -/
def execRelPerform (sw op : Nat) (s : State) : Host.Outcome State Fault Refusal :=
  onOp sw op (fun a o s => match o.body with
    | .rel sc va =>
      let code := scopeCode sc
      let ours := fun l => code ≥ 1 && s.relLines a.asid va l
      let lines := s.dirtyLines a.k a.asid ours
      if !s.mayPerform sw o || s.blocked a.asid va true || (code == 5 && !s.postedDone sw)
          || !s.sendsOk a.asid (sendsOfLines lines :: s.relSends a.j va) then none
      else
        let s0 := { s with clk := { s.clk with rels := (a.asid, va) :: s.clk.rels } }
        let s1 := s0.flush sw a.k a.asid o ours
        let who := s.whoOf sw o.pc.toNat
        let cls := match s.fieldOf a.j with
          | none => 0
          | some f => f.cls
        let buffered := fun t : State => t.restartable a.j && !t.bufferFull a.j va
        let keep := fun t : State => finish sw o (t.buffer a.j (.rel va code who.field who.colony cls))
        match s1.objHome a.asid va with
        | (s2, .nonres) =>
          if buffered s2 then some (keep s2)
          else some (finish sw o ((s2.endRestart a.j 2).bounce a.asid va (.rel va code false who.field who.colony cls) who))
        | (s2, .fault c) => some (finish sw o (s2.refuse sw o a.asid 1 [⟨64, c, va⟩]))
        | (s2, .ok m) =>
          if s2.poisoned (m.paOf va) objBytes then some (s2.consumeOp a o)
          else if buffered s2 then some (keep s2)
          else some (finish sw o ((s2.endRestart a.j 2).relAt m a.asid va code false who.field who.colony cls))
    | _ => none) s

/-- FENCE_COMPLETE (R160, R327). -/
def execFenceComplete (sw op : Nat) (s : State) : Host.Outcome State Fault Refusal :=
  onOp sw op (fun a o s => match o.body with
    | .fence sc =>
      let code := scopeCode sc
      if !s.mayPerform sw o || (code == 5 && !s.postedDone sw)
          || (code ≥ 1 && !s.mayFlush a.k a.asid fun _ => true) then none
      else some (finish sw o (if code ≥ 1 then s.fenceFlush sw a.k a.asid o else s))
    | _ => none) s

/-! ### CINV and BULKPF -/

/-- A 64 KiB unit lies in the range [base, base + len). -/
def unitIn (base len u : Nat) : Bool := len != 0 && decide (base / 2 ^ 16 ≤ u) && decide (u ≤ (base + len - 1) / 2 ^ 16)

/-- A tag belongs to an address space: its ASID, or 0xFFFF of G pages. -/
def ofSpace (asid tag : Nat) : Bool := tag == asid || tag == 0xFFFF

/-- What CINV does to a core's lines (R107, R299): clean ones go; dirty ones keep their dirty bytes and lose W; fetched
words go. -/
def CoreSt.cinv (c : CoreSt) (asid base len : Nat) : CoreSt :=
  let inR := fun l : L1Line => ofSpace asid l.asid && unitIn base len (l.line / 1024)
  { c with
    l1 := (c.l1.filter fun l => !(inR l) || l.dirty != 0).map fun l =>
      if inR l then { l with w := false, have_ := l.dirty } else l
    icache := c.icache.filter fun l => !(ofSpace asid l.asid && unitIn base len (l.line / 1024)) }

/-- What CINV does to a home port (R107): translations and directory entries of the range go. -/
def Port.cinv (p : Port) (asid base len : Nat) : Port :=
  { p with
    maps := p.maps.filter fun m => !(ofSpace asid m.asid && unitIn base len m.unit)
    dir := p.dir.filter fun d => !(ofSpace asid d.asid && unitIn base len (d.line / 1024)) }

/-- The update-only copies in a range are combined at their homes (R107, R167), as modified coherent lines are written back. -/
def State.cinvCopies (s : State) (asid base len : Nat) : State :=
  (s.ports.flatMap (·.maps)).foldl (fun s m =>
    if ofSpace asid m.asid && unitIn base len m.unit then State.combine m.pa (2 ^ 16) s.upd.length s else s) s

/-- CINV's effect on the whole device (R107). -/
def State.cinv (s : State) (asid base len : Nat) : State :=
  let s := s.cinvCopies asid base len
  { s with
    ports := s.ports.map fun p => p.cinv asid base len
    dies := s.dies.map fun d => { d with clusters := d.clusters.map fun c =>
      { c with cores := c.cores.map fun k => k.cinv asid base len } } }

/-- CINV_COMPLETE (R107, R313). -/
def execCinvComplete (sw op : Nat) (s : State) : Host.Outcome State Fault Refusal :=
  onOp sw op (fun a o s => match o.body with
    | .cinv base len => some (finish sw o (s.cinv a.asid base len))
    | _ => none) s

/-- BULKPF_COMPLETE (R117): no architectural state changes. -/
def execBulkpfComplete (sw op : Nat) (s : State) : Host.Outcome State Fault Refusal :=
  onOp sw op (fun _ o s => match o.body with
    | .bulkpf .. => some (finish sw o s)
    | _ => none) s

/-! ### Task queues (R195, R196) -/

/-- Pairs a task queue holds (R195). -/
def taskMax : Nat := 262144

/-- Inserts a pair by key, behind its equals. -/
def insTask (x : TaskPair) : List TaskPair → List TaskPair
  | [] => [x]
  | y :: r => if y.key.toNat ≤ x.key.toNat then y :: insTask x r else x :: y :: r

/-- Quota of an address space at a port. -/
def Port.quota (p : Port) (asid : Nat) : Nat := spGet 0 p.quotas asid

/-- A push has room (R195). -/
def Port.taskRoom (p : Port) (asid : Nat) : Bool :=
  decide (p.tasks.length < taskMax) && decide ((p.tasks.countP fun t => t.asid == asid) < p.quota asid)

/-- A pop chooses among the lowest 64 (R195). -/
def popRanks : Nat := 64

/-- TASK_QUEUE_PERFORM (R195, R196, R360): `pick` is the rank a pop removes. -/
def execTaskQueuePerform (sw op pick : Nat) (s : State) : Host.Outcome State Fault Refusal :=
  onOp sw op (fun a o s =>
    if !s.mayPerform sw o then none
    else match o.body with
    | .taskPush port key payload d =>
      match s.ports[port]? with
      | none => none
      | some p =>
        -- pushes of one clock come before its pops (R196, R360)
        if s.clk.popped.contains port then none
        else if p.taskRoom a.asid then
          let s1 := s.updPort port fun p => { p with tasks := insTask ⟨a.asid, key, payload⟩ p.tasks }
          some (finish sw o (s1.updSwarm sw fun w => w.sset d 0))
        else some (finish sw o (s.updSwarm sw fun w => w.sset d 1))
    | .taskPop port d =>
      let s := { s with clk := { s.clk with popped := port :: s.clk.popped } }
      match s.ports[port]? with
      | none => none
      | some p =>
        let own := p.tasks.filter fun t => t.asid == a.asid
        match own[pick]? with
        | some t =>
          if pick < popRanks then
            let s1 := s.updPort port fun p => { p with tasks := p.tasks.erase t }
            some (finish sw o (s1.updSwarm sw fun w => w.writeScalars [(d, 0), (d + 1, t.key), (d + 2, t.payload)]))
          else none
        | none =>
          if own.isEmpty then
            some (finish sw o (s.updSwarm sw fun w => w.writeScalars [(d, 1), (d + 1, 0), (d + 2, 0)]))
          else none
    | _ => none) s

/-! ### Collectives (R138, R141, R142) -/

/-- Engines of a cluster (R138). -/
def enginesPer : Nat := 4

/-- A collective of a colony placed on a cluster. -/
def State.collOn (s : State) (die clus : Nat) (x : Coll) : Bool :=
  match s.colonies[x.colony]? with
  | none => false
  | some c => match c.place with
    | none => false
    | some p => p.die == die && p.clus == clus

/-- COPY_COLLECTIVE_START (R138): a free engine of the cluster takes the collective that closed first. -/
def execCopyCollectiveStart (clus : Nat) (s : State) : Host.Outcome State Fault Refusal :=
  let here := s.collOn (clus / 4) (clus % 4)
  match s.colls.find? fun x => x.state == .queued && here x with
  | none => .refused .notEnabled
  | some x =>
    if (s.colls.countP fun y => y.state == .running && here y) < enginesPer then
      .next { s with colls := s.colls.map fun y => if y = x then { y with state := .running, since := s.combSeqOf x.colony } else y }
    else .refused .notEnabled

/-- Stage of a swarm. -/
def State.stageNo (s : State) (i : Nat) : Nat :=
  match s.swarms[i]? with
  | none => 0
  | some w => w.stage

/-- How a slice maps comb addresses: by the rings as they stood at its issue (R136, R145). -/
def State.sliceMap (s : State) (sl : Slice) (m : Nat) : Nat := mapRings sl.rings (s.stageNo sl.swarm) m

/-- Every slice's transfer (R140, R141). -/
def runSlices (x : Coll) (t : Transfer) (s : State) : EngineRun :=
  let r := copyRec x.rec_.toNat
  x.slices.foldl (fun acc sl =>
    let map := s.sliceMap sl
    let a := copyArgs sl.args
    (copyMoves r a).foldl (copyElement t r map)
      { acc with s := acc.s.updColony t.j (Colony.clearPoison r a map) })
    ⟨s, false, [], [], false⟩

/-- A swarm has accessed a cell in this clock that a slice would write: the engine's write of the cell comes first in a clock
(R146, Table 7.9), so it comes in a later one. -/
def State.cellsTaken (s : State) (j : Nat) (r : CopyRec) (sl : Slice) : Bool :=
  !s.clk.cells.isEmpty && (copyCells r (copyArgs sl.args) (s.sliceMap sl)).any fun c => s.clk.cells.contains (j, c)

/-- Engines and matrix units come in a clock after BAR.INVAL and before every other access of a swarm (Table 7.9, R146). -/
def engineClass : Nat := 1

/-- It is still the engines' turn in this clock (Table 7.9; log 106). -/
def State.engineTurn (s : State) : Bool := s.clk.last.all fun t => decide (t.cls ≤ engineClass)

/-- An engine or matrix unit has taken its turn. -/
def State.noteEngine (s : State) : State := { s with clk := { s.clk with last := some ⟨engineClass, 0, 0⟩ } }

/-- Ends an operation of a swarm by its number, with the faults recorded against it. -/
def endEngineOp (fs : List LaneFault) (s : State) (p : Nat × Nat) : State :=
  match s.op? p.1 p.2 with
  | none => s
  | some o => ((s.recordFaults p.1 o fs).updSwarm p.1 fun w => w.endOp o).tryEnter p.1

/-- A collective is over. -/
def State.dropColl (s : State) (x : Coll) : State :=
  { s with colls := s.colls.filter fun y =>
      !(y.colony == x.colony && y.ctx == x.ctx && y.num == x.num && y.state == CollState.running) }

/-- Cycle count of the die a colony stands on. -/
def State.colCycle (s : State) (j : Nat) : Nat :=
  match s.colonies[j]? with
  | none => 0
  | some c => match c.place with
    | none => 0
    | some p => s.cycleOf p.die

/-- Free choices that one engine or matrix operation takes for the comb bytes it reads. -/
def freshPerRead : Nat := 2 ^ 24

/-- What a finished collective does in one cycle (R141, R142, R318): faults, SR.COPYST, flags, barrier, timeline. -/
def finishColl (x : Coll) (asid : Nat) (who : Who) (ns : List Nat) (r : EngineRun) : State :=
  let s1 := (r.s.logFaults asid 5 who r.reads).logFaults asid 4 who r.writes
  let s2 := (x.slices.map fun sl => (sl.swarm, sl.op)).foldl (endEngineOp (r.reads ++ r.writes)) s1
  let s3 := s2.dropColl x
  let s4 := if r.nonres then { s3 with clk := { s3.clk with copyst := (x.colony, x.ctx) :: s3.clk.copyst } } else s3
  settle (s4.updColony x.colony fun c =>
    let c1 := { c with
      copyDone := c.copyDone.modify x.ctx (insNat x.num)
      copyst := if r.nonres then c.copyst ||| 2 ^ x.ctx else c.copyst }
    match recBar x.rec_.toNat with
    | none => c1
    | some b => c1.engineArrive ns b x.epoch x.stage)

/-- COPY_COLLECTIVE_COMPLETE (R141, R142, R318). -/
def execCopyCollectiveComplete (col ctx num : Nat) (s : State) : Host.Outcome State Fault Refusal :=
  match s.colls.find? fun x => x.colony == col && x.ctx == ctx && x.num == num && x.state == .running with
  | none => .refused .notEnabled
  | some x =>
    match s.fieldOf col, s.ctx? (s.colCtx col) with
    | some f, some cx =>
      let r := copyRec x.rec_.toNat
      if !s.engineTurn || x.slices.any fun sl => copyHeld s col cx.asid r (copyArgs sl.args) || s.cellsTaken col r sl then
        .refused .notEnabled
      else
        let first := x.slices.headD ⟨0, 0, [], []⟩
        let pc := match s.op? first.swarm first.op with
          | none => 0
          | some o => o.pc.toNat
        let who := s.whoOf first.swarm pc
        let run := runSlices x ⟨col, f.ctx, cx.asid, who, ⟨s.colCycle col, x.since, s.fresh⟩⟩ { s.noteEngine with fresh := s.fresh + freshPerRead }
        if run.poison then .next ((run.s.dropColl x).consume col) else .next (finishColl x cx.asid who f.desc.stages run)
    | _, _ => .refused .notEnabled

/-! ### Matrix operations (R91-R95) -/

/-- A part's core as one number. -/
def MmaPart.coreNo (p : MmaPart) : Nat := p.die * 48 + p.clus * 12 + p.core

/-- The operation uses a core. -/
def MmaOp.uses (m : MmaOp) (core : Nat) : Bool := m.parts.any fun p => p.coreNo == core

/-- The operations accepted up to `x`, with it. -/
def mmasUpTo (x : MmaOp) : List MmaOp → List MmaOp
  | [] => []
  | y :: r => if y = x then [y] else y :: mmasUpTo x r

/-- The operations, latest first, that run before the units of these cores are free, and those in turn that the units of their other
cores run before. -/
def mmasBefore (cores : List Nat) : List MmaOp → List MmaOp
  | [] => []
  | y :: r =>
    if cores.any y.uses then y :: mmasBefore (y.parts.map MmaPart.coreNo ++ cores) r else mmasBefore cores r

/-- What runs, in order, when `x` completes: `x`, and of the operations before it those that its units come to first (R95). -/
def mmasDue (x : MmaOp) (l : List MmaOp) : List MmaOp :=
  (mmasBefore (x.parts.map MmaPart.coreNo) (mmasUpTo x l).reverse).reverse.filter fun m => !m.ran

/-- The part reads an uncorrectable error: of a comb cell, or of its accumulator (R93, R219). -/
def State.partBad (s : State) (m : MmaOp) (p : MmaPart) : Bool :=
  (match s.colonies[m.colony]? with
    | none => false
    | some c => !m.free && !c.combPoison.isEmpty && (mmaReads (s.stageNo p.swarm) p).any fun a => c.combPoison.contains (a / 16))
  || mmaAccBad p ((s.core p.key).tiles.getD p.tile ⟨none, none, [], []⟩)

/-- A unit runs a part: its tile is updated (R91), the comb read on occasion `occ`. -/
def runPart (m : MmaOp) (occ : Nat) (s : State) (p : MmaPart) : State :=
  match s.colonies[m.colony]? with
  | none => s
  | some c =>
    s.updTile p.key p.tile fun x =>
      let y := mmaUpdate c ⟨s.cycleOf p.die, m.since, occ⟩ (s.stageNo p.swarm) p (if m.free then some occ else none) x
      { y with bad := y.bad.filter fun g => !(mmaTouches p g).1 }

/-- The units of an operation run it: what its parts share they read once (R94). -/
def runMma (s : State) (m : MmaOp) : State :=
  m.parts.foldl (runPart m s.fresh) { s with fresh := s.fresh + freshPerRead }

/-- The units run what they come to up to `x`, in order (R95). -/
def runUpTo (x : MmaOp) (s : State) : State :=
  let due := mmasDue x s.mmas
  let s1 := due.foldl runMma s
  { s1 with mmas := s1.mmas.map fun m => if due.contains m then { m with ran := true } else m }

/-- Completion of a matrix operation: flags and timeline (R91, R95). -/
def endMma (x : MmaOp) (s : State) : State :=
  let s1 := (x.parts.map fun p => (p.swarm, p.op)).foldl (endEngineOp [])
    { s with mmas := s.mmas.filter fun m => !(m.colony == x.colony && m.num == x.num) }
  settle (s1.updColony x.colony fun c => { c with mmaDone := insNat x.num c.mmaDone })

/-- MMA_COMPLETE (R91, R94, R95): the oldest operation that a core's unit has accepted and whose time has come completes. -/
def execMmaComplete (core : Nat) (s : State) : Host.Outcome State Fault Refusal :=
  match s.mmas.find? fun m => m.uses core && decide (m.due ≤ s.cycleOf (core / 48)) with
  | none => .refused .notEnabled
  | some x =>
    if !s.engineTurn then .refused .notEnabled
    else match (mmasDue x s.mmas).find? fun m => m.parts.any fun p => s.partBad m p with
      | some m => .next ({ s with mmas := s.mmas.filter fun y => !(y.colony == m.colony && y.num == m.num) }.consume m.colony)
      | none => .next (endMma x (runUpTo x s.noteEngine))

end Sys2Proof.Machine
end

