-- ==== Sys2Proof/Machine/Control.lean ====
section
/-! DEFINITION. NOP, EXIT, YIELD, TRAP, branches, calls, ENTER, ARM, REJOIN and IRET (R49-R60, R213, R302, R310, R312,
R321-R323, R329, R343, R348, R350, R366, R387). -/

namespace Sys2Proof.Machine

/-- Completes in its issue cycle with no effect of its own. -/
def Act.plain (e : Env) : Act := .go e.s none none

/-- ILLOP with a cause, when the test holds. -/
def illopIf (bad : Bool) (cause : Nat) : Option Trap := check bad (.illop cause)

/-- REJOIN with cause 3 (R49, R50). -/
def forkOpen (e : Env) : Option Trap := check e.w.top.fork (.plain 5 3 0)

/-- NOP (R343). -/
def execNop (c : Ctrl) (s : State) : Host.Outcome State Fault Refusal := issue c {} false Act.plain s

/-- The swarm holds a pending or admitted lane of a reserving loop (R183). -/
def Swarm.holdsItems (w : Swarm) : Bool := w.lanes.any fun l => l.item.isSome

/-- The operation is not that of a wait set aside. -/
def Swarm.keepsOp (w : Swarm) (o : Op) : Bool := w.starved.all fun wt => o.id != wt.op

/-- The swarm ends (R34, R35, R322): levels, tokens and waits go, also a wait that STARVE set aside. -/
def endSwarm (e : Env) : State :=
  let s1 := e.s.updCore e.core fun k => { k with tiles := k.tiles.map (Tile.dropTokens [e.i]) }
  let s2 := s1.updColony e.w.colony fun c => { c with bars := c.bars.map fun b => b.dropToken e.w.idx }
  s2.updSwarm e.i fun w =>
    { w with ended := true, under := [], top := Level.entry 0 0, ops := w.ops.filter w.keepsOp, starved := none }

/-- EXIT (R322, R323). -/
def execExit (c : Ctrl) (s : State) : Host.Outcome State Fault Refusal :=
  issue c { flagsZero := true } true (fun e =>
    orTrap (firstTrap [
      illopIf (e.w.trap.intrap && !e.w.faults.isEmpty) 6,
      forkOpen e,
      check e.w.holdsItems (.plain 0x14 6 0)])
    fun _ => .go (endSwarm e) none none) s

/-- Clocks of a YIELD hold (R387). -/
def yieldClocks : Nat := 64

/-- The hold of a YIELD begins. -/
def State.holdCur (s : State) : State :=
  s.updSwarm s.cur fun w => { w with hold := w.lastIssue.map (· + yieldClocks) }

/-- YIELD (R387). -/
def execYield (c : Ctrl) (s : State) : Host.Outcome State Fault Refusal :=
  issueWith State.holdCur c {} false Act.plain s

/-- TRAP (R366): SWTRAP with the code in INFO. -/
def execTrap (c : Ctrl) (code : Fin 4096) (s : State) : Host.Outcome State Fault Refusal :=
  issue c {} false (fun _ => .trap (.plain 0x15 0 code.val)) s

/-- A word offset from the instruction (R310). -/
def branchTo (e : Env) (off : BitVec 22) : BitVec 52 := e.w.pc + 8 * off.signExtend 52

/-- BR (R310). -/
def execBr (c : Ctrl) (off : BitVec 22) (s : State) : Host.Outcome State Fault Refusal :=
  issue c {} false (fun e => .go e.s none (some (branchTo e off))) s

/-- BRC conditions on a signed value (Table 20.7). -/
def brTest (cond : BrC) (v : W64) : Bool :=
  match cond with
  | .z => v == 0
  | .nz => v != 0
  | .lt => decide (v.toInt < 0)
  | .ge => decide (0 ≤ v.toInt)
  | .gt => decide (0 < v.toInt)
  | .le => decide (v.toInt ≤ 0)

/-- BRC (R310). -/
def execBrc (c : Ctrl) (cond : BrC) (r : SReg) (off : BitVec 22) (s : State) : Host.Outcome State Fault Refusal :=
  issue c {} false (fun e =>
    orTrap (e.pre [r.val] [.sc r.val]) fun _ =>
      .go e.s none (if brTest cond (e.scalar 0 r.val) then some (branchTo e off) else none)) s

/-- The deepest call level (R60). -/
def maxDepth : Nat := 1024

/-- Opens a level and spills what no longer fits (R54, R58). -/
def openLevel (e : Env) (nargs : Nat) : State :=
  (e.s.updSwarm e.i fun w => { w with top := w.top.callee nargs (w.pc + 8), under := w.top :: w.under }).trim e.i e.w.depth

/-- An instruction that may spill or refill a level is held while a page of the private area waits for a DRAIN (R112). -/
def spillOr (e : Env) (a : Act) : Act := if e.s.privHeld e.i then .hold else a

/-- CALL (R54, R312). -/
def execCall (c : Ctrl) (nargs : Fin 64) (off : BitVec 22) (s : State) : Host.Outcome State Fault Refusal :=
  issue c { drained := true } true (fun e =>
    orTrap (firstTrap [
      check (nargs.val > e.w.top.depth) (.plain 2 0 0),
      check (e.w.depth ≥ maxDepth) (.plain 6 0 0)])
    fun _ => spillOr e (.go (openLevel e nargs.val) none (some (branchTo e off)))) s

/-- CALLI (R54, R312). -/
def execCalli (c : Ctrl) (a : SReg) (nargs : Fin 4096) (s : State) : Host.Outcome State Fault Refusal :=
  issue c { drained := true } true (fun e =>
    let t := e.scalar 0 a.val
    let late := e.ctx.check && e.w.sBusy a.val
    orTrap (firstTrap [
      illopIf (decide (a.val ≥ e.w.scalars.length)) 5,
      illopIf (!late && t.toNat % 8 != 0) 6,
      check (nargs.val > e.w.top.depth) (.plain 2 0 0),
      e.pre [] [.sc a.val],
      check (e.w.depth ≥ maxDepth) (.plain 6 0 0)])
    fun _ => spillOr e (.go (openLevel e nargs.val) none (some (t.setWidth 52)))) s

/-- The caller's level takes the callee's youngest ages, the oldest of them first (R56). -/
def Level.takeAges (ages : List Slot) (lv : Level) : Level := ages.foldr (fun sl lv => lv.pushNow sl) lv

/-- The return to the caller's level (R56): a caller that has been spilled is read back first (R58), and then the callee's youngest
ages are pushed. -/
def closeLevel (e : Env) (m : Nat) : State :=
  ((e.s.updSwarm e.i fun w => { w with top := w.under.headD w.top, under := w.under.tail }).refill e.i).updSwarm e.i fun w =>
    { w with top := w.top.takeAges (e.w.top.queue.take m) }

/-- RET (R56, R350). -/
def execRet (c : Ctrl) (m : Fin 4096) (s : State) : Host.Outcome State Fault Refusal :=
  issue c { drained := true } true (fun e =>
    orTrap (firstTrap [
      illopIf (e.w.under.isEmpty || e.w.depth == e.w.hdepth) 6,
      check (m.val > e.w.top.depth) (.plain 2 0 0),
      forkOpen e,
      if (e.w.top.queue.take m.val).any Slot.bad then some .ecc else none])
    fun _ => spillOr e (.go (closeLevel e m.val) none (some e.w.top.retpc))) s

/-- ENTER (R55, R321). Table 14.3 gives INFO of FRAMEOOR as an operand code and ENTER names no operand: INFO is 0 (DESIGN
CHOICE, log 35). -/
def execEnter (c : Ctrl) (f : Fin 321) (s : State) : Host.Outcome State Fault Refusal :=
  issue c {} false (fun e =>
    orTrap (firstTrap [
      illopIf e.w.top.wopen 6,
      check (f.val > e.fld.desc.frame) (.plain 3 0 0)])
    fun _ => spillOr e (.go ((e.s.updSwarm e.i fun w =>
        { w with top := { w.top with wopen := true, win := List.replicate f.val Slot.zero } }).trim e.i e.w.depth)
      none none)) s

/-- ARM (R49, R302). -/
def execArm (c : Ctrl) (n : Fin 4) (s : State) : Host.Outcome State Fault Refusal :=
  issue c {} false (fun e =>
    let lv := e.w.top
    orTrap (check (if n.val = 0 then lv.fork else !lv.fork || n.val != lv.cur + 1) (.plain 5 3 0)) fun _ =>
      let base := if n.val = 0 then armsClear else lv.arms
      .go (e.s.updSwarm e.i fun w =>
        { w with top := { w.top with fork := true, cur := n.val, arms := base.set n.val ⟨true, 0⟩ } }) none none) s

/-! ### REJOIN -/

/-- One arm of a rejoin record (Table 3.3). -/
structure RecArm where
  k : Nat
  count : Nat
  src : List Nat
deriving DecidableEq, Repr

/-- One arm from its two words; none when a reserved bit or a source byte breaks Table 3.3. -/
def recArm (n w1 w2 : Nat) : Option RecArm :=
  let src := (List.range 8).map fun j => fld w2 (8 * j) 8
  if w1 / 2 ^ 10 != 0 || src.zipIdx.any (fun p => if p.2 < n then 0x40 ≤ p.1 && p.1 ≤ 0xFE else p.1 != 0) then none
  else some ⟨fld w1 6 4, fld w1 0 6, src.take n⟩

/-- The arms of a record, two words each. -/
def recArms (n : Nat) : List Nat → Option (List RecArm)
  | [] => some []
  | [_] => none
  | w1 :: w2 :: r => do
    let a ← recArm n w1 w2
    let rest ← recArms n r
    return a :: rest

/-- N of a header, when the header is a rejoin record's (Table 3.3). -/
def recHeader (h : Nat) : Option Nat :=
  let n := fld h 4 4
  if h / 2 ^ 16 != 0 || fld h 2 2 != 0 || fld h 8 8 != 1 || n < 1 || n > 8 then none else some n

/-- The record at an index of the pool (R51, R52): N and the arms; none for cause 1. A record word whose page is not resident or
faults has no outcome of its own in the spec: it too is cause 1 (DESIGN CHOICE, log 69). -/
def readRejoin (e : Env) (idx : Nat) : State × Option (Nat × List RecArm) :=
  let va := e.fld.desc.recBase + 8 * idx
  if 8 * idx + 8 > e.fld.desc.recSize then (e.s, none)
  else match State.readWords e.ctx.asid va 1 e.s with
    | (s1, some [h]) =>
      match recHeader h with
      | none => (s1, none)
      | some n =>
        let arms := fld h 0 2 + 1
        if 8 * idx + 8 + 16 * arms > e.fld.desc.recSize then (s1, none)
        else match State.readWords e.ctx.asid (va + 8) (2 * arms) s1 with
          | (s2, some ws) => (s2, (recArms n ws).map fun a => (n, a))
          | (s2, none) => (s2, none)
    | (s1, _) => (s1, none)

/-- The record may lie on a page whose home holds its misses (R112). -/
def rejoinPageHeld (e : Env) (idx : Nat) : Bool :=
  let va := e.fld.desc.recBase + 8 * idx
  e.s.holds e.ctx.asid va false || e.s.holds e.ctx.asid (va + 64) false

/-- An uncorrectable error stands in what REJOIN reads of its record: the header, or the arms that a good header counts. -/
def rejoinPoison (e : Env) (idx : Nat) : Bool :=
  let va := e.fld.desc.recBase + 8 * idx
  let bad := fun va n : Nat => decide ((e.s.readAcross e.ctx.asid va n).2 = Res.poison)
  decide (8 * idx + 8 ≤ e.fld.desc.recSize) && (bad va 8 || (match State.readWords e.ctx.asid va 1 e.s with
    | (_, some [h]) =>
      let n := 16 * (fld h 0 2 + 1)
      (recHeader h).isSome && decide (8 * idx + 8 + n ≤ e.fld.desc.recSize) && bad (va + 8) n
    | _ => false))

/-- The first arm whose opening or count breaks the record (R52, cause 2): INFO. An opened arm that the record does not have
declares no count; INFO holds 0 for it (DESIGN CHOICE, log 69). -/
def rejoinMismatch (lv : Level) (arms : List RecArm) : Option Nat :=
  (List.range 4).findSome? fun i =>
    let a := lv.arms.getD i ⟨false, 0⟩
    match arms[i]? with
    | some r => if !a.opened || a.count != r.count then some (i * 2 ^ 16 + a.count * 2 ^ 8 + r.count) else none
    | none => if a.opened then some (i * 2 ^ 16 + a.count * 2 ^ 8) else none

/-- The arm a lane takes (R53). -/
def laneArm (lv : Level) (arms : List RecArm) (l : Nat) : Option RecArm := arms.find? fun a => has (lv.mask a.k) l

/-- Element of source byte `x` in a lane: 0 for 0xFF, else the age's. -/
def rejoinEl (e : Env) (x l : Nat) : W32 :=
  if x = 0xFF then 0
  else match e.w.top.queue[x]? with
    | none => 0
    | some sl => el (e.slotVal (64 + x) sl) l

/-- Taint of a source byte. -/
def rejoinTaint (e : Env) (x : Nat) : Bool :=
  match e.w.top.queue[x]? with
  | none => false
  | some sl => sl.taint

/-- The pushes of a REJOIN (R52). -/
def rejoinPushes (e : Env) (n : Nat) (arms : List RecArm) : List Push :=
  let mask := maskOf fun l => (laneArm e.w.top arms l).isSome
  (List.range n).map fun j =>
    { mask := mask
      taint := laneList.any fun l => match laneArm e.w.top arms l with
        | none => false
        | some a => rejoinTaint e (a.src.getD j 0xFF)
      data := lanes fun l => match laneArm e.w.top arms l with
        | none => 0
        | some a => rejoinEl e (a.src.getD j 0xFF) l }

/-- The fork closes and its records clear (R52). -/
def Level.closeFork (lv : Level) : Level := { lv with fork := false, cur := 0, arms := armsClear }

/-- Clocks of a REJOIN (R348). -/
def rejoinClocks : Nat := 4

/-- The record's sources that are incomplete, under SR.CHECK (R348). -/
def rejoinBusy (e : Env) (srcs : List Nat) : Option Trap :=
  if !e.ctx.check then none
  else (srcs.find? fun x => match e.w.top.queue[x]? with
    | none => false
    | some sl => sl.busy.isSome).map fun x => .plain 4 0 x

/-- A source age holds an uncorrectable error (R219). -/
def rejoinBad (e : Env) (x : Nat) : Bool :=
  match e.w.top.queue[x]? with
  | none => false
  | some sl => sl.bad

/-- The slots N pushes would overwrite are complete (R39). -/
def rejoinHeld (e : Env) (n : Nat) : Bool := !e.w.top.canPush n

/-- REJOIN (R52, R53, R348). An uncorrectable error in the record is consumed (R219). Where several sources are ages at or beyond D, INFO names the first: the lowest arm's, and of one arm
the lowest byte's (DESIGN CHOICE, log 69). -/
def execRejoin (c : Ctrl) (idx : Fin 16384) (s : State) : Host.Outcome State Fault Refusal :=
  issue c {} false (fun e =>
    if rejoinPageHeld e idx.val then .hold
    else match readRejoin e idx.val with
    | (_, none) => .trap (if rejoinPoison e idx.val then .ecc else .plain 5 1 0)
    | (s1, some (n, arms)) =>
      let srcs := arms.flatMap fun a => a.src.filter (· != 0xFF)
      orTrap (firstTrap [
        check (!e.w.top.fork) (.plain 5 3 0),
        (rejoinMismatch e.w.top arms).map fun x => .plain 5 2 x,
        (srcs.find? (· ≥ e.w.top.depth)).map fun x => .plain 2 0 x,
        rejoinBusy e srcs,
        if srcs.any (rejoinBad e) then some .ecc else none])
      fun _ =>
        if rejoinHeld e n then .hold
        else match pushEntries { e with s := s1 } (rejoinPushes e n arms) [] none (some rejoinClocks) with
          | .go s2 op pc => .go (s2.updSwarm e.i fun w => { w with top := w.top.closeFork }) op pc
          | x => x) s

/-! ### IRET -/

/-- A wait that STARVE set aside and that IRET does not resume is dropped: its operation ends, and the entry it pushed
holds a free value (log 13). -/
def dropStarved (s : State) (i : Nat) : State :=
  match s.swarms[i]? with
  | none => s
  | some w =>
    match w.starved with
    | none => s
    | some wt =>
      let free := lanes fun l => Config.freeLane (s.fresh + 200) l
      let fill := fun sl : Slot => match sl.busy with
        | none => sl
        | some b => if b.1 = wt.op then ⟨free, sl.taint, none, false⟩ else sl
      let w1 := match w.ops.find? fun o => o.id == wt.op with
        | none => w
        | some o => w.endOp o
      s.updSwarm i fun _ => { w1.calm with starved := none, top := { w1.top with queue := w1.top.queue.map fill } }

/-- IRET's effect (R213), and R29: the wait of a STARVE trap goes on when the handler returns to its instruction. -/
def returnFrom (e : Env) : State × BitVec 52 :=
  let s1 := (e.s.updSwarm e.i Swarm.returnTrap).refill e.i
  let at_ := e.w.trap.resume
  match e.w.starved, (e.w.starved.bind fun wt => e.w.ops.find? fun o => o.id == wt.op) with
  | some wt, some o =>
    if o.pc = at_ then
      (s1.updSwarm e.i fun w => { w with wait := some { wt with timer := 0 }, starved := none, starveLevel := 0 }, at_ + 8)
    else (dropStarved s1 e.i, at_)
  | _, _ => (s1, at_)

/-- IRET (R213, R329). -/
def execIret (c : Ctrl) (s : State) : Host.Outcome State Fault Refusal :=
  issueWith settle c { drained := true } false (fun e =>
    orTrap (firstTrap [
      illopIf (!e.w.trap.intrap || e.w.depth != e.w.hdepth) 6,
      forkOpen e])
    fun _ =>
      if e.s.privHeld e.i then .hold
      else if e.w.flags.all (· == 0) && e.w.fell.all (12 ≤ ·) then
        let (s1, pc) := returnFrom e
        .go s1 none (some pc)
      else .hold) s

end Sys2Proof.Machine
end

