-- ==== Sys2Proof/Machine/Firmware.lean ====
section
/-! DEFINITION. Kernel descriptors (R13, R283), the resources of a placement (R14-R19), launch records (R189, R190),
reservations and lending (R23, R191), acceptance with the field's private range (R388), and the end of a field (R170,
R199, R255). -/

namespace Sys2Proof.Machine

/-! ### Kernel descriptors (Table 19.5) -/

/-- A field of word `k` of a list of words. -/
def wfld (ws : List Nat) (k lo n : Nat) : Nat := fld (ws.getD k 0) lo n

/-- A descriptor's eight words, decoded. -/
def descOfWords (ws : List Nat) : KDesc where
  entry := wfld ws 0 0 52
  recBase := wfld ws 1 0 52
  depth := 8 * 2 ^ wfld ws 2 56 2
  frame := wfld ws 2 47 9
  scalars := wfld ws 2 36 11
  cls := wfld ws 2 34 2
  rst := wfld ws 2 33 1 == 1
  swarms := wfld ws 2 24 8 + 1
  span := wfld ws 2 20 4
  stages := (List.range (wfld ws 2 17 3 + 1)).map fun t => wfld ws 3 (8 * t) 8 + 1
  bars := wfld ws 2 11 6
  rings := wfld ws 2 7 4
  combSize := wfld ws 4 16 11 * 2 ^ 14
  hash := wfld ws 4 0 13
  privSize := wfld ws 5 0 32
  codeSize := wfld ws 6 32 32
  recSize := wfld ws 6 0 32

/-- A hash offset of Table 7.1. -/
def hashOffsetOk (n : Nat) : Bool := 8 ≤ n && n ≤ 12

/-- Every field keeps Table 19.5. -/
def descFieldsOk (ws : List Nat) : Bool :=
  let d := descOfWords ws
  wfld ws 0 52 12 == 0 && wfld ws 1 52 12 == 0 && wfld ws 2 58 6 == 0 && wfld ws 2 32 1 == 0 && wfld ws 2 0 7 == 0
  && decide (d.frame ≤ 320) && decide (1 ≤ d.scalars) && decide (d.scalars ≤ 1024) && decide (d.cls ≤ 2)
  && decide (1 ≤ d.span) && decide (d.span ≤ 12) && decide (d.bars ≤ 32) && decide (d.rings ≤ 8)
  && ((List.range 8).all fun t => decide (t < d.stages.length) || wfld ws 3 (8 * t) 8 == 0)
  && wfld ws 4 27 37 == 0 && wfld ws 4 13 3 == 0 && decide (d.combSize ≤ 2 ^ 24)
  && hashOffsetOk (fld d.hash 0 4) && hashOffsetOk (fld d.hash 4 4)
  && wfld ws 5 32 32 == 0 && d.privSize % 2 ^ 16 == 0 && ws.getD 7 0 == 0

/-- The stage counts sum to S (R13). -/
def KDesc.stagesOk (d : KDesc) : Bool := d.stages.sum == d.swarms

/-! ### Resources (Table 2.2) -/

/-- Program cores of a cluster (R14). -/
def coresIn (clus : Nat) : Nat := if clus = 0 then 12 else 11

/-- Register-file bytes of a swarm, rounded to its granule. -/
def KDesc.fileBytes (d : KDesc) : Nat := roundUp (256 * (4 * d.depth + d.frame)) 2048

/-- Scalar words of a swarm, rounded to their granule. -/
def KDesc.scalarWords (d : KDesc) : Nat := roundUp d.scalars 8

/-- Register file of a core. -/
def fileSize : Nat := 2048 * 1024
/-- Scalar pool of a core. -/
def poolSize : Nat := 131072
/-- Comb of a cluster. -/
def combOfCluster : Nat := 2 ^ 24
/-- Swarms of a core. -/
def swarmsOfCore : Nat := 256

/-- Swarms of a kernel that fit on an empty core (R19). -/
def KDesc.perCore (d : KDesc) : Nat := min swarmsOfCore (min (fileSize / max 1 d.fileBytes) (poolSize / max 1 d.scalarWords))

/-- Most swarms of a colony on one core of its span (R16). -/
def KDesc.most (d : KDesc) : Nat := (d.swarms + d.span - 1) / max 1 d.span

/-- A charge: a colony's descriptor on a span. -/
structure Hold where
  desc : KDesc
  span : Span
deriving DecidableEq, Repr

/-- Swarms a charge puts on a core (R16). -/
def Hold.swarmsOn (h : Hold) (core : Nat) : Nat :=
  match h.span.cores.idxOf? core with
  | none => 0
  | some p => (h.desc.swarms + h.span.cores.length - 1 - p) / max 1 h.span.cores.length

/-- The charges of one cluster. -/
def holdsIn (hs : List Hold) (die clus : Nat) : List Hold := hs.filter fun h => h.span.die == die && h.span.clus == clus

/-- A core can take the charges on it. -/
def coreFits (hs : List Hold) (core : Nat) : Bool :=
  decide ((hs.map fun h => h.swarmsOn core).sum ≤ swarmsOfCore)
  && decide ((hs.map fun h => h.swarmsOn core * h.desc.fileBytes).sum ≤ fileSize)
  && decide ((hs.map fun h => h.swarmsOn core * h.desc.scalarWords).sum ≤ poolSize)

/-- Two spans share a core. -/
def Span.meets (a b : Span) : Bool := a.die == b.die && a.clus == b.clus && a.cores.any b.cores.contains

/-- Named barriers of the colonies resident on a span's cores stay within 128 × c. -/
def barsFit (hs : List Hold) (sp : Span) : Bool :=
  decide (((hs.filter fun h => h.span.meets sp).map fun h => h.desc.bars).sum ≤ 128 * sp.cores.length)

/-- A charge fits beside others (R18). -/
def fitsWith (others : List Hold) (x : Hold) : Bool :=
  let hs := x :: holdsIn others x.span.die x.span.clus
  x.span.cores.all (coreFits hs)
  && decide ((hs.map fun h => h.desc.combSize).sum ≤ combOfCluster)
  && ((hs.filter fun h => h.span.meets x.span).all fun h => barsFit hs h.span)

/-- A cluster of the device as it stands. -/
def State.cluster? (s : State) (die clus : Nat) : Option Cluster := do
  let d ← s.dies[die]?
  d.clusters[clus]?

/-- Some placement could satisfy the descriptor on an idle device (R18, R19). -/
def State.placeable (s : State) (d : KDesc) : Bool :=
  decide (d.most ≤ d.perCore) && decide (d.combSize ≤ combOfCluster)
  && ((List.range s.dies.length).any fun i => (List.range 4).any fun k =>
      decide (d.span ≤ coresIn k) && (match s.dies[i]?, s.cluster? i k with
        | some x, some c => !x.dead && !c.gated
        | _, _ => false))

/-! ### Spans a context may use -/

/-- The context's entry for a die reads present (R228). -/
def Ctx.present (c : Ctx) (die : Nat) : Bool := c.vdies.any fun v => v.state == vdiePresent && v.socket == die

/-- A cluster takes placements of a context (R14, R17, R228). R14 and R192 speak of clusters marked failed; R224 has firmware hold
such a cluster out of spans at the next bring-up: until then it takes placements here (DEDUCED, log 26). -/
def State.usable (s : State) (c : Ctx) (die clus : Nat) : Bool :=
  c.present die && (match s.cluster? die clus with
    | none => false
    | some k => !k.gated)

/-- The clusters a context may use, in ascending order. -/
def State.usableClusters (s : State) (c : Ctx) : List (Nat × Nat) :=
  ((List.range 4).flatMap fun d => (List.range 4).map fun k => (d, k)).filter fun p => s.usable c p.1 p.2

/-- A span is well formed: c program cores of one cluster, ascending (R14, R16). The spec gives how many cores of a cluster are
program cores, not which: those of clusters 1 to 3 are here 0 to 10 (DESIGN CHOICE, log 79). -/
def Span.ok (p : Span) (width : Nat) : Bool :=
  p.cores.length == width && p.cores.Pairwise (· < ·) && p.cores.all fun k => k < coresIn p.clus

/-- Every span of a width in the clusters a context may use. -/
def State.spans (s : State) (c : Ctx) (width : Nat) : List Span :=
  (s.usableClusters c).flatMap fun p => (List.sublistsLen width (List.range (coresIn p.2))).reverse.map fun l => ⟨p.1, p.2, l⟩

/-- How many disjoint spans of a width the context has (R14, R17). -/
def State.spanCount (s : State) (c : Ctx) (width : Nat) : Nat :=
  ((s.usableClusters c).map fun p => coresIn p.2 / max 1 width).sum

/-! ### Reservations (R23, R24, R191, R270) -/

/-- The colony is not retired or stopped. -/
def Colony.alive (c : Colony) : Bool := c.status == .waiting || c.status == .running || c.status == .saved

/-- Its reservation is lent: it has been swapped out and has not got it back (R191). -/
def Colony.lentOut (c : Colony) : Bool := c.lent && c.status == .saved

/-- Lending `x.2` of colony `x.1` still stands. -/
def State.lends (s : State) (x : Nat × Nat) : Bool :=
  match s.colonies[x.1]? with
  | none => false
  | some c => c.alive && (c.lentOut && c.lendNo == x.2 || c.lentResv.any fun r => r.1 == x.2)

/-- Lending `x.2` of colony `x.1` is that of its present reservation. -/
def State.lendsNow (s : State) (x : Nat × Nat) : Bool :=
  match s.colonies[x.1]? with
  | none => false
  | some c => c.lendNo == x.2

/-- The colony uses a lent reservation of another one, but for those in whose place the present ones of the list `free` count. -/
def State.borrows (s : State) (free : List Nat) (c : Colony) : Bool :=
  c.lenders.any fun x => !(free.contains x.1 && s.lendsNow x) && s.lends x

/-- A charge for each of some spans. -/
def State.charges (s : State) (c : Colony) (sps : List Span) : List Hold :=
  match s.fields[c.field]? with
  | none => []
  | some f => sps.map fun sp => ⟨f.desc, sp⟩

/-- The reservations a new one must fit beside, while lent ones are in their borrowers' hands; `out` are left out. -/
def State.resvLent (s : State) (out : List Nat) : List Hold :=
  s.colonies.zipIdx.flatMap fun p =>
    if out.contains p.2 || !p.1.alive || p.1.lentOut then [] else s.charges p.1 p.1.resv.toList

/-- The reservations it must fit beside once the lent ones are back with their owners; those of `free` are not asked back. -/
def State.resvBack (s : State) (out free : List Nat) : List Hold :=
  s.colonies.zipIdx.flatMap fun p =>
    if out.contains p.2 || !p.1.alive || s.borrows free p.1 then []
    else s.charges p.1 (p.1.resv.toList ++ p.1.lentResv.map Prod.snd)

/-- The charges that a new reservation must fit beside, now and later, when the reservations of `free` count as free: the sum of
the reservations on a span never exceeds its capacity (R191). -/
def State.resvHolds (s : State) (free : List Nat) : List (List Hold) := [s.resvLent free, s.resvBack free free]

/-- A charge fits beside each of some lists of others. -/
def fitsAll (hss : List (List Hold)) (x : Hold) : Bool := hss.all fun hs => fitsWith hs x

/-- Cycles of a context rotation period (R192). -/
def rotationPeriod : Nat := 2 ^ 23

/-- Cycles for which another context's time slice holds a pre-empted colony's cores: R24 has the colony back within a rotation period,
and the spec does not share the period out; here a slice is half of it (DESIGN CHOICE, log 90). -/
def sliceTime : Nat := rotationPeriod / 2

/-- The colony gives way to other contexts: it was pre-empted for a time slice, which lasts (R24). -/
def State.sliced (s : State) (c : Colony) : Bool :=
  c.status == .saved && (match c.rotatedAt with
    | none => false
    | some (t, die) => decide (s.cycleOf die < t + sliceTime))

/-- The charges a placement of colony `j` must fit beside: the places of others, and for a colony without a reservation also the
reservations of colonies that are not placed, now and once lent ones are back (R24). -/
def State.placeHolds (s : State) (j h : Nat) (reserved : Bool) : List (List Hold) :=
  let others := (s.colonies.zipIdx.filter fun p => p.2 != j).map Prod.fst
  let kept := fun c : Colony => !reserved && c.alive && !(s.sliced c && (match s.fields[c.field]? with
    | none => false
    | some f => f.ctx != h))
  let at_ := fun (rs : List Span) (c : Colony) => match c.place with
    | some sp => s.charges c [sp]
    | none => if kept c then s.charges c rs else []
  [others.flatMap fun c => at_ (if c.lentOut then [] else c.resv.toList) c]
  ++ (if reserved then [] else [others.flatMap fun c =>
        (if s.borrows [] c then [] else at_ c.resv.toList c) ++ s.charges c (if c.alive then c.lentResv.map Prod.snd else [])])

/-- The most disjoint sets of `w` of some cores that a test accepts one after another, added to those of `acc`; the first found of
the largest. `fuel` bounds the number of cores. -/
def packCores (ok : List (List Nat) → List Nat → Bool) (w : Nat) : Nat → List Nat → List (List Nat) → List (List Nat)
  | 0, _, acc => acc
  | _, [], acc => acc
  | fuel + 1, k :: ks, acc =>
    let most := acc.length + (ks.length + 1) / max 1 w
    let best := (List.sublistsLen (w - 1) ks).reverse.foldl (fun best t =>
      if most ≤ best.length || !ok acc (k :: t) then best
      else
        let r := packCores ok w fuel (ks.filter fun x => !t.contains x) ((k :: t) :: acc)
        if best.length < r.length then r else best) acc
    if most ≤ best.length then best
    else
      let r := packCores ok w fuel ks acc
      if best.length < r.length then r else best

/-- Every swarm that has not ended is blocked in LWAIT or LAUNCH `.wait`, whether its colony runs or has been pre-empted (R191). -/
def State.lendable (s : State) (j : Nat) : Bool :=
  match s.colonies[j]? with
  | none => false
  | some c => c.resv.isSome && (c.lentOut || (c.status == .running || c.status == .saved) && (s.swarmsOf j).all fun i => match s.swarms[i]? with
    | none => true
    | some w => w.ended || (match w.wait with
      | none => false
      | some wt => match wt.kind with
        | .lwait .. | .launch .. => true
        | _ => false))

/-- The lendable colonies of a context, in ascending field age and colony index. -/
def State.lenders (s : State) (h : Nat) : List Nat :=
  (List.range s.colonies.length).filter fun j => s.colCtx j == h && s.lendable j

/-- A record asks for reservations: how many, how many are found when some colonies' reservations are free. -/
structure Ask where
  clusters : List (Nat × Nat)
  desc : KDesc
  ctx : Nat
  /-- Colonies asked for; 0 for one on every span that can be reserved. -/
  g : Nat
deriving DecidableEq, Repr

/-- As many reservations as one cluster can take beside some charges (R23, R191). -/
def Ask.inCluster (a : Ask) (hss : List (List Hold)) (c : Nat × Nat) : List Span :=
  let hold := fun cores => Hold.mk a.desc ⟨c.1, c.2, cores⟩
  (packCores (fun acc t => fitsAll (hss.map (acc.map hold ++ ·)) (hold t)) a.desc.span (coresIn c.2) (List.range (coresIn c.2))
    []).reverse.map fun cores => ⟨c.1, c.2, cores⟩

/-- The spans reserved, none when the request does not fit. -/
def Ask.tryWith (a : Ask) (s : State) (free : List Nat) : Option (List Span) :=
  let sps := a.clusters.flatMap (a.inCluster (s.resvHolds free))
  if a.g = 0 then (if sps.isEmpty then none else some sps)
  else if sps.length < a.g then none
  else some (sps.take a.g)

/-- The shortest prefix of the lenders with which the request fits, and the spans. -/
def Ask.prefixOf (a : Ask) (s : State) (ls : List Nat) : Nat → Option (List Nat × List Span)
  | 0 => none
  | k + 1 =>
    match a.prefixOf s ls k with
    | some r => some r
    | none => (a.tryWith s (ls.take (k + 1))).map fun sp => (ls.take (k + 1), sp)

/-- Of a prefix, the colonies whose reservations the borrowers use: those that do not fit beside them, now or once lent ones are
back. -/
def usedLenders (s : State) (d : KDesc) (sps : List Span) : List Nat → List Nat → List Nat
  | [], used => used
  | j :: r, used =>
    let new := sps.map fun sp => Hold.mk d sp
    let others := [s.resvLent (j :: r ++ used) ++ new, s.resvBack (j :: r ++ used) (r ++ used) ++ new]
    match s.colonies[j]?, s.fieldOf j with
    | some c, some f =>
      match c.resv with
      | none => usedLenders s d sps r used
      | some sp => usedLenders s d sps r (if fitsAll others ⟨f.desc, sp⟩ then used else used ++ [j])
    | _, _ => usedLenders s d sps r used

/-- Of the lenders whose reservations are used, those that a borrower on a span shares, with their lendings: the ones with a reservation
in its cluster. -/
def State.lendersOf (s : State) (used : List Nat) (sp : Span) : List (Nat × Nat) :=
  used.filterMap fun l => match s.colonies[l]? with
    | none => none
    | some c => match c.resv with
      | none => none
      | some x => if x.die == sp.die && x.clus == sp.clus then some (l, c.lendNo) else none

/-- Some living colony uses lending `x.2` of colony `x.1`. -/
def State.lentTo (s : State) (x : Nat × Nat) : Bool := s.colonies.any fun c => c.alive && c.lenders.contains x

/-- A lent reservation whose last borrower has gone (R191, R270): it returns to its owner, or is released where the owner has made a
new one. -/
def Colony.getsBack (n : Nat) (c : Colony) : Colony :=
  if c.lendNo = n then { c with lent := c.lent && c.status == .running } else { c with lentResv := c.lentResv.filter (·.1 != n) }

/-- Colony `j` uses lent reservations no more. -/
def State.giveBack (s : State) (j : Nat) : State :=
  match s.colonies[j]? with
  | none => s
  | some c =>
    c.lenders.foldl (fun s x => if s.lentTo x then s else s.updColony x.1 (Colony.getsBack x.2))
      (s.updColony j fun c => { c with lenders := [] })

/-! ### Launch records (Table 13.1) -/

/-- A launch record that kept Table 13.1. -/
structure LaunchRec where
  va : Nat
  kdesc : Nat
  g : Nat
  cls : Nat
  resv : Bool
  scope : Nat
  tx : Nat
  ty : Nat
  tz : Nat
  args : List Nat
deriving DecidableEq, Repr

/-- Why a record cannot be read: it breaks R190, a home holds the access (R112), or it holds an uncorrectable error (R219). -/
inductive Unread
  | bad
  | held
  | poison
deriving DecidableEq, Repr

/-- Reads words of coherent, resident memory. -/
def State.readCoherent (asid : Nat) : Nat → Nat → State → State × Except Unread (List Nat)
  | _, 0, s => (s, .ok [])
  | va, n + 1, s =>
    match s.readHome asid va 8 with
    | (s1, .ok bs, true) =>
      match State.readCoherent asid (va + 8) n s1 with
      | (s2, .ok ws) => (s2, .ok (leNat bs :: ws))
      | x => x
    | (s1, .held, _) => (s1, .error .held)
    | (s1, .poison, true) => (s1, .error .poison)
    | (s1, _, _) => (s1, .error .bad)

/-- The first eight words keep Table 13.1. -/
def recFieldsOk (ws : List Nat) : Bool :=
  let tx := ws.getD 2 0
  let ty := ws.getD 3 0
  let tz := ws.getD 4 0
  let cls := wfld ws 1 30 2
  wfld ws 0 52 12 == 0 && wfld ws 1 48 16 == 0 && wfld ws 1 0 20 == 0 && cls != 3
  && (cls == 1 || wfld ws 1 29 1 == 0) && decide (3 ≤ wfld ws 1 26 3) && decide (wfld ws 1 26 3 ≤ 5)
  && ([tx, ty, tz].all fun t => t != 0 && decide (t < 2 ^ 48)) && ws.getD 7 0 == 0
  && decide (tx * ty * tz ≤ 2 ^ 48)

/-- Reads and checks a record; `bad` is BADREC (R190). -/
def State.readRecord (s : State) (asid va : Nat) : State × Except Unread LaunchRec :=
  match State.readCoherent asid va 8 s with
  | (s1, .error u) => (s1, .error u)
  | (s1, .ok ws) =>
    if recFieldsOk ws then
      match State.readCoherent asid (va + 64) (wfld ws 1 20 6) s1 with
      | (s2, .error u) => (s2, .error u)
      | (s2, .ok args) =>
        (s2, .ok ⟨va, wfld ws 0 0 52, wfld ws 1 32 16, wfld ws 1 30 2, wfld ws 1 29 1 == 1, wfld ws 1 26 3, ws.getD 2 0,
          ws.getD 3 0, ws.getD 4 0, args⟩)
    else (s1, .error .bad)

/-- STATUS values of Table 13.1. -/
def stBadDesc : Nat := 2
/-- BADCLASS. -/
def stBadClass : Nat := 3
/-- NORESV. -/
def stNoResv : Nat := 4
/-- BADREC. -/
def stBadRec : Nat := 5

/-- The descriptor a record names, when it is loaded and passes R13 and R18, with room for the arguments (R190, R281). -/
def State.recDesc (s : State) (h : Nat) (r : LaunchRec) : Option KDesc :=
  match s.loaded.find? fun l => l.ctx == h && l.va == r.kdesc with
  | none => none
  | some l => if l.desc.stagesOk && s.placeable l.desc && decide (r.args.length ≤ l.desc.scalars) then some l.desc else none

/-- The record takes reservations (R23). -/
def LaunchRec.reserves (r : LaunchRec) : Bool := r.cls == 0 || r.resv

/-! ### The private range of a field (R388) -/

/-- Bytes of a field's private range. -/
def FieldSt.privBytes (f : FieldSt) : Nat := f.colonies * f.desc.swarms * f.desc.privSize

/-- Two ranges (base, size) share a byte. -/
def rangesMeet (a b : Nat × Nat) : Bool := decide (a.1 < b.1 + b.2) && decide (b.1 < a.1 + a.2)

/-- The lowest of a list of candidate bases that a test accepts. -/
def lowestOf (p : Nat → Bool) : List Nat → Option Nat
  | [] => none
  | a :: r =>
    match lowestOf p r with
    | none => if p a then some a else none
    | some b => some (if p a && decide (a < b) then a else b)

/-- The lowest free range of a size in the context's private region. -/
def State.privAllot (s : State) (c : Ctx) (size : Nat) : Option Nat :=
  let used := (s.fields.filter fun f => f.ctx == c.handle && f.live && f.privBytes != 0).map fun f => (f.privBase, f.privBytes)
  lowestOf (fun b => decide (b + size ≤ c.privBase + c.privSize) && used.all fun u => !rangesMeet u (b, size))
    (c.privBase :: used.map fun u => u.1 + u.2)

/-! ### Save areas (R218) -/

/-- Bytes of a swarm's record in a save area, with room for every fault it can hold (Table 14.6, R214). -/
def KDesc.swarmSave (d : KDesc) : Nat := roundUp (256 + 8 * d.scalars + 32 * 64) 64

/-- Bytes of a save area with every record present (Table 14.6): an open loop, both tiles of each core, and open collectives with a
slice of every swarm in each of the four contexts. -/
def KDesc.saveBytes (d : KDesc) : Nat :=
  256 + 64 * d.bars + 64 * d.rings + (64 + 1536 * d.swarms) + 81984 * 2 * d.span + 64 + roundUp (4 * (64 + 32 * d.swarms)) 64
  + roundUp (d.combSize + d.combSize / 128) 64 + d.swarms * d.swarmSave

/-- Base of the save areas for `n` colonies of a kernel: the lowest free range of the context's save region (R218). How the region is
shared out the spec does not say, nor what a record comes to whose areas find no room: here it is NORESV (DESIGN CHOICE, log 80). -/
def State.saveAllot (s : State) (c : Ctx) (size : Nat) : Option Nat :=
  let used := (s.colonies.zipIdx.filter fun p => p.1.alive && s.colCtx p.2 == c.handle && p.1.saveSize != 0).map fun p =>
    (p.1.saveBase, p.1.saveSize)
  lowestOf (fun b => decide (b + size ≤ c.saveBase + c.saveSize) && used.all fun u => !rangesMeet u (b, size))
    (c.saveBase :: used.map fun u => u.1 + u.2)

/-! ### Examining and accepting -/

/-- What the launch engine does with a record (R190, R191). -/
inductive Verdict
  | reject (status : Nat)
  | accept (d : KDesc) (colonies : Nat) (spans : List Span) (priv save : Nat) (lenders : List Nat)
  /-- The record stays: these colonies lend their reservations first. -/
  | hold (lenders : List Nat)
deriving DecidableEq, Repr

/-- With its spans settled, a record is accepted if the private range and the save areas can be allotted; it is held while a lender
whose reservation is used has not been swapped out. -/
def State.acceptWith (s : State) (c : Ctx) (d : KDesc) (n : Nat) (sps : List Span) (used : List Nat) : Verdict :=
  match s.privAllot c (n * d.swarms * d.privSize), s.saveAllot c (n * d.saveBytes) with
  | some b, some v =>
    if used.all fun l => (match s.colonies[l]? with
        | none => true
        | some x => x.lentOut) then .accept d n sps b v used
    else .hold used
  | _, _ => .reject stNoResv

/-- The cases of R191 for a record that needs reservations; `own` is the launching colony. -/
def State.reserveVerdict (s : State) (c : Ctx) (r : LaunchRec) (d : KDesc) (own : Option Nat) : Verdict :=
  let a : Ask := ⟨s.usableClusters c, d, c.handle, r.g⟩
  let ls := s.lenders c.handle
  match a.tryWith s [] with
  | some sps => s.acceptWith c d sps.length sps []
  | none =>
    match a.prefixOf s ls ls.length with
    | some (pre, sps) => s.acceptWith c d sps.length sps (usedLenders s d sps pre [])
    | none =>
      match own with
      | none => .reject stNoResv
      | some j => if (a.tryWith s (j :: ls)).isSome then .hold [] else .reject stNoResv

/-- The verdict on a record (R190, R191). An unreserved record with G = 0 while the context has no available span is accepted with no
colony (DESIGN CHOICE, log 92). -/
def State.verdict (s : State) (c : Ctx) (r : LaunchRec) (own : Option Nat) : Verdict :=
  match s.recDesc c.handle r with
  | none => .reject stBadDesc
  | some d =>
    if r.cls < d.cls then .reject stBadClass
    else if r.reserves then s.reserveVerdict c r d own
    else
      let n := if r.g = 0 then s.spanCount c d.span else r.g
      s.acceptWith c d n [] []

/-- Writes COLONIES and then STATUS (R190). -/
def State.writeStatus (s : State) (asid va status colonies : Nat) : State :=
  s.fwWrite asid (va + 40) (leBytes 8 (status * 2 ^ 56 + colonies))

/-- The new field (R189, R193). -/
def fieldOfRec (id : Nat) (c : Ctx) (r : LaunchRec) (d : KDesc) (n priv : Nat) (host : Option CmdRef) : FieldSt where
  id := id
  ctx := c.handle
  recVa := r.va
  kdesc := r.kdesc
  desc := d
  cls := r.cls
  resv := r.reserves
  scope := match host with
    | none => r.scope
    | some h => max r.scope h.scope
  tx := r.tx
  ty := r.ty
  tz := r.tz
  nextTile := 0
  args := r.args.map (BitVec.ofNat 64)
  colonies := n
  retired := 0
  privBase := priv
  live := true
  host := host
  posted := 0
  owed := []

/-- Field identifiers are 32-bit. -/
def idSpace : Nat := 2 ^ 32

/-- The identifier of a new field: the next one that no live field of its context has (R20, Table 2.3). -/
def State.freeId (s : State) (h : Nat) : Nat :=
  (((List.range (s.fields.length + 1)).map fun k => (s.nextField + k) % idSpace).find? fun n =>
    s.fields.all fun f => !(f.live && f.ctx == h && f.id == n)).getD s.nextField

/-- Acceptance: the field and its colonies come to be, waiting for placement; those of a CONC field are admitted together
(R22, R190). -/
def State.acceptField (s : State) (c : Ctx) (r : LaunchRec) (d : KDesc) (n : Nat) (sps : List Span) (priv save : Nat)
    (used : List Nat) (host : Option CmdRef) : State :=
  let fi := s.fields.length
  let cols := (List.range n).map fun j =>
    { Colony.start fi j d 0 [] with
      admitted := r.cls == 0
      resv := sps[j]?
      lenders := (sps[j]?.map (s.lendersOf used)).getD []
      saveBase := save + j * d.saveBytes
      saveSize := d.saveBytes }
  let s1 := { s with
    fields := s.fields ++ [fieldOfRec (s.freeId c.handle) c r d n priv host]
    nextField := (s.freeId c.handle + 1) % idSpace
    colonies := s.colonies ++ cols }
  s1.writeStatus c.asid r.va 1 n

/-! ### The end of a field -/

/-- One more colony in DONE (R199). -/
def State.addDone (s : State) (f : FieldSt) : State :=
  let asid := s.asidOfCtx f.ctx
  let v := match s.peekWord asid (f.recVa + 48) with
    | none => f.retired
    | some old => (old + 1) % 2 ^ 64
  s.fwWrite asid (f.recVa + 48) (leBytes 8 v)

/-- A context signals no completion after its fault (R215). -/
def State.signals (s : State) (h : Nat) : Bool :=
  match s.ctx? h with
  | none => false
  | some c => c.fault.isNone

/-- The DONE add of a retired colony may be made: it is a REL at the field's scope, which at system scope waits until every posted
store of the colony has been acknowledged (R154, R199). -/
def State.addReady (s : State) (f : FieldSt) (idx : Nat) : Bool :=
  f.scope != 5 || s.posted.all fun p => !(p.who.field == f.id && p.who.colony == idx && p.ctx == f.ctx)

/-- The DONE adds that may be made now, but for one that would bring DONE to COLONIES (R199). -/
def State.makeAdds (fi : Nat) : List Nat → State → State
  | [], s => s
  | k :: r, s =>
    match s.fields[fi]? with
    | none => s
    | some f =>
      if f.owed.length ≤ 1 && f.retired == f.colonies then s
      else if s.addReady f k then
        State.makeAdds fi r ((s.addDone f).updField fi fun f => { f with owed := f.owed.erase k })
      else State.makeAdds fi r s

/-- The field completes (R170, R199, R255): the last DONE add, the end of its private range, and the host's completion; none while a
colony or a posted store is outstanding. Adds that posted stores held back are made before it. A field without a colony completes at
once (DESIGN CHOICE, log 92). -/
def State.endField (s : State) (fi : Nat) : State :=
  match s.fields[fi]? with
  | none => s
  | some f0 =>
    if !f0.live || !s.signals f0.ctx then s
    else
      let s := State.makeAdds fi f0.owed s
      match s.fields[fi]? with
      | none => s
      | some f =>
        if f.retired == f.colonies && f.posted == 0 then
          let s1 := if f.colonies = 0 then s else s.addDone f
          let s2 := s1.updField fi fun f => { f with live := false, owed := [] }
          match f.host with
          | none => s2
          | some r => s2.complete r 0 1 (BitVec.ofNat 64 f.colonies)
        else s

/-- A colony of the field has retired: its add to DONE, and the field's end when it was the last. -/
def State.retireOne (s : State) (fi idx : Nat) : State :=
  (s.updField fi fun f => { f with retired := f.retired + 1, owed := f.owed ++ [idx] }).endField fi

/-- No home holds a write-back that leaving these cores makes, after a buffer has drained (R111, R112). -/
def State.mayLeave (s : State) (asid : Nat) (drain : Sends) (ks : List (Nat × Nat × Nat)) : Bool :=
  s.sendsOk asid [drain, sendsOfLines (ks.flatMap fun k => s.dirtyLines k asid fun _ => true)]

/-- Writes back the dirty bound lines of an address space on some cores, for no instruction: a fault is the context's, of
cause 4 (R115, R169). -/
def State.leaveCores (s : State) (h asid : Nat) (ks : List (Nat × Nat × Nat)) : State :=
  let (s1, fs) := ks.foldl (fun (acc : State × List (Nat × Nat)) k =>
    let (t, g) := State.writeBackAll k asid Who.none (acc.1.dirtyLines k asid fun _ => true) acc.1
    (t, acc.2 ++ g)) (s, [])
  if fs.isEmpty then s1
  else contextFault h 4 (s1.logFaults asid 7 Who.none (fs.map fun f => ⟨64, f.1, f.2⟩))

end Sys2Proof.Machine
end

