-- ==== Sys2Proof/Machine/Save.lean ====
section
/-! DEFINITION. Save areas (R218, Table 14.6): the records of a pre-empted colony, as bytes of its context's memory, written when it is
saved and read back when it resumes (R216). Table 14.6 gives the records' sizes and the order of what they hold, and not the places inside
them: here each item takes the next word of 64 bits, or the bits that its comment names (DESIGN CHOICE, log 81). -/

namespace Sys2Proof.Machine

/-! ### Reading -/

/-- Reads bytes at their homes, page by page. -/
def State.readPages (asid : Nat) : Nat → Nat → Nat → State → State × Res
  | 0, _, _, s => (s, .ok [])
  | fuel + 1, va, n, s =>
    if n = 0 then (s, .ok [])
    else
      let k := min n (pageLeft va)
      match s.readHome asid va k with
      | (s1, .ok bs, _) =>
        match State.readPages asid fuel (va + k) (n - k) s1 with
        | (s2, .ok r) => (s2, .ok (bs ++ r))
        | x => x
      | (s1, r, _) => (s1, r)

/-- Reads a range of bytes at their homes. -/
def State.readRange (s : State) (asid va n : Nat) : State × Res := State.readPages asid (n / 2 ^ 16 + 2) va n s

/-! ### Records -/

/-- The parts of a save area, in the order of Table 14.6. -/
inductive SavePart
  | header
  | bar (b : Nat)
  /-- A defined ring: the words of Table 7.6, then the stage pointers. -/
  | ring (r : Nat)
  /-- The header of the reserving loop. -/
  | loop
  /-- The lanes of the k-th swarm. -/
  | lanes (k i : Nat)
  | tileHead (k : Nat)
  /-- Elements of the k-th saved tile, in row order. -/
  | tile (k : Nat)
  /-- The VAs of the pending launches. -/
  | launches
  | issued
  | colls
  | comb
  /-- Full bits, bit L for cell L. -/
  | cells
  /-- The first 256 bytes of a swarm's record. -/
  | swarm (i : Nat)
  /-- The scalar registers of a swarm. -/
  | scalars (i : Nat)
  | faults (i : Nat)
deriving DecidableEq, Repr

/-- Bytes of a tile's record. -/
def tileSave : Nat := 81984

/-- Bytes of the record of open collectives. -/
def State.copySave (s : State) (j : Nat) : Nat :=
  match s.colls.filter fun x => x.colony == j with
  | [] => 0
  | xs => roundUp (64 + 32 * (xs.map fun x => x.slices.length).sum) 64

/-- Bytes of a swarm's record. -/
def Swarm.saveSize (w : Swarm) : Nat := roundUp (256 + 8 * w.scalars.length + 32 * w.faults.length) 64

/-- The parts of the swarm records from an offset up, and the end of the records. -/
def State.swarmParts (s : State) : List Nat → Nat → List (Nat × SavePart) × Nat
  | [], o => ([], o)
  | i :: r, o =>
    let (k, n) := match s.swarms[i]? with
      | none => (0, 0)
      | some w => (w.scalars.length, w.saveSize)
    let (ps, e) := s.swarmParts r (o + n)
    ((o, .swarm i) :: (o + 256, .scalars i) :: (o + 256 + 8 * k, .faults i) :: ps, e)

/-- Bytes of the header. -/
def headSave : Nat := 256
/-- Bytes of the record of the reserving loop's header, and of a swarm's lanes in it. -/
def loopSave : Nat := 64
/-- Bytes of a swarm's lanes. -/
def lanesSave : Nat := 1536

/-- The parts of colony `j`'s save area with their offsets, in the order of Table 14.6, and its length. -/
def State.saveParts (s : State) (j : Nat) (c : Colony) (d : KDesc) : List (Nat × SavePart) × Nat :=
  let rings := headSave + 64 * d.bars
  let loop := rings + 64 * d.rings
  let tiles := loop + (if c.rsv.isSome then loopSave + lanesSave * d.swarms else 0)
  let launches := tiles + tileSave * c.savedTiles.length
  let comb := launches + 64 + s.copySave j
  let (ws, e) := s.swarmParts (s.swarmsOf j) (comb + roundUp (d.combSize + d.combSize / 128) 64)
  ([(0, .header)]
    ++ (List.range d.bars).map (fun b => (headSave + 64 * b, .bar b))
    ++ (ringsOf c.rings).map (fun r => (rings + 64 * r.1, .ring r.1))
    ++ (if c.rsv.isSome then (loop, .loop) :: (s.swarmsOf j).zipIdx.map (fun p => (loop + loopSave + lanesSave * p.2, .lanes p.2 p.1))
        else [])
    ++ (List.range c.savedTiles.length).flatMap (fun k => [(tiles + tileSave * k, .tileHead k), (tiles + tileSave * k + 64, .tile k)])
    ++ [(launches, .launches), (launches + 32, .issued), (launches + 64, .colls), (comb, .comb), (comb + d.combSize, .cells)] ++ ws, e)

/-- A byte of bits: bit b for item 8n + b. -/
def bitByte (p : Nat → Bool) (n : Nat) : Byte :=
  BitVec.ofNat 8 (((List.range 8).map fun b => (p (8 * n + b)).toNat * 2 ^ b).sum)

/-- Elements of a tile. -/
def tileSize : Nat := 20480

/-! ### What the records hold -/

/-- Words that hold a set of indices below 256. -/
def setWords (p : Nat → Bool) : List W64 := (List.range 4).map fun k => maskOf fun l => p (64 * k + l)

/-- The set that four words hold has a member. -/
def inSet (ws : List W64) (n : Nat) : Bool := has (ws.getD (n / 64) 0) (n % 64)

/-- Packs fields, each with its width, from bit 0 up. -/
def packBits : List (Nat × Nat) → Nat
  | [] => 0
  | (n, v) :: r => v % 2 ^ n + 2 ^ n * packBits r

/-- Field `k` of such a word, by the widths. -/
def unpackBits (ns : List Nat) (k w : Nat) : Nat := fld w (ns.take k).sum (ns.getD k 0)

/-- Index of a swarm in its colony. -/
def State.idxOf (s : State) (i : Nat) : Nat :=
  match s.swarms[i]? with
  | none => 0
  | some w => w.idx

/-- The header, word by word in the order of Table 14.6. -/
def State.headWords (s : State) (c : Colony) (f : FieldSt) : List W64 :=
  [BitVec.ofNat 64 f.kdesc, BitVec.ofNat 64 f.id, BitVec.ofNat 64 c.index, c.resumes.setWidth 64, BitVec.ofNat 64 f.desc.hash,
    c.bardrop.setWidth 64, BitVec.ofNat 64 c.copyst, BitVec.ofNat 64 (restartWord c),
    c.timeline (.copy 0), c.timeline (.copy 1), c.timeline (.copy 2), c.timeline (.copy 3),
    c.timeline (.coll 0), c.timeline (.coll 1), c.timeline (.coll 2), c.timeline (.coll 3), c.timeline .matrix, c.timeline .launch]
  ++ setWords fun k => c.coop.any fun a => s.idxOf a.swarm == k

/-- Widths of a barrier's first word: V, class, ring mode, ring, M, E, arrivals of swarms and engines, held engine arrivals. -/
def barBits : List Nat := [1, 2, 1, 4, 9, 8, 9, 8, 22]
/-- Widths of a stage's counts, four stages in a word. -/
def stageBits : List Nat := [9, 4, 3]

/-- The counts of four stages of a ring barrier. -/
def stageWord (x : Bar) (lo : Nat) : Nat :=
  packBits ((List.range 4).map fun k =>
    let t := x.stages.getD (lo + k) (0, 0, 0)
    (16, packBits (stageBits.zip [t.1, t.2.1, t.2.2])))

/-- A barrier: its fields, GEN and epoch, the counts of eight stages, and the tokens by swarm index (R129). -/
def barWords (x : Bar) : List W64 :=
  [packBits (barBits.zip [x.valid.toNat, x.cls, x.ring.isSome.toNat, x.ring.getD 0, x.m, x.e, x.sArr, x.eArr, x.eHeld]),
    x.gen.toNat + x.epoch % 2 ^ 32 * 2 ^ 32, stageWord x 0, stageWord x 4].map (BitVec.ofNat 64)
  ++ setWords fun k => x.tokens.any fun t => t.1 == k

/-- Widths of a lane's first word: item, state (0 free, 1 pending, 2 admitted), claim count. -/
def laneBits : List Nat := [32, 2, 4]

/-- A lane of a reserving loop: three words, the claims' signatures four to a word. -/
def laneWords (x : RLane) : List W64 :=
  let st := if x.item.isNone then 0 else if x.admitted then 2 else 1
  let sigs := fun lo => packBits ((List.range 4).map fun k => (16, x.claims.getD (lo + k) 0))
  [packBits (laneBits.zip [x.item.getD 0, st, x.claims.length]), sigs 0, sigs 4].map (BitVec.ofNat 64)

/-- A tile's name and token holder: its core in the span, its number, and one more than the swarm's index. -/
def tileWords (s : State) (t : SavedTile) : List W64 :=
  [t.core + t.tile * 2 ^ 8, match t.token with
    | none => 0
    | some i => s.idxOf i + 1].map (BitVec.ofNat 64)

/-- An open collective in a word: record index, stage, context, arrived slices, epoch. -/
def collWord (x : Coll) : W64 :=
  BitVec.ofNat 64 (packBits ([14, 3, 2, 9, 32].zip [x.recIdx, x.stage, x.ctx, x.slices.length, x.epoch]))

/-- An arrived slice: its collective's place in the list and its swarm, and its first three arguments. -/
def sliceWords (s : State) (k : Nat) (x : Slice) : List W64 :=
  BitVec.ofNat 64 (packBits ([8, 8].zip [k, s.idxOf x.swarm])) :: (List.range 3).map fun n => x.args.getD n 0

/-- The special registers of a swarm that its record holds (Table 20.11), the trap state of Table 14.3 last. -/
def swarmRegs : List SpReg :=
  [.starve, .nonres, .privbase, .privsize, .barstat, .tcfg 0, .tcfg 1, .tcfg 2, .ucfg 0, .ucfg 1, .ucfg 2, .ucfg 3,
    .trec 0, .trec 1, .trec 2, .trec 3, .tresume, .tstat]

/-- A swarm's PC, call depth, flag counters, set-aside counters, special registers and wait: kind as the row of Table 2.5, target as
INFO of Table 14.3, class, timer. -/
def swarmWords (e : Env) : List W64 :=
  let wait := match e.w.wait with
    | none => [0, 0, 0, 0]
    | some wt =>
      let row := wt.kind.row e.col e.fld.desc.stages e.w.stage
      [row, wt.kind.info e.s e.w.colony e.col row, wt.cls, wt.timer]
  [e.w.pc.setWidth 64, BitVec.ofNat 64 e.w.depth, BitVec.ofNat 64 (flagFields e.w.flags 0 10),
    BitVec.ofNat 64 (flagFields e.w.flags 10 2), spRead e (.tflags 0), spRead e (.tflags 1)]
  ++ swarmRegs.map (spRead e) ++ wait.map (BitVec.ofNat 64)

/-- A deferred fault record: PC and cause, lanes, address, flag and order. -/
def faultWords (f : FaultRec) : List W64 :=
  [BitVec.ofNat 64 (f.pc.toNat + f.cause * 2 ^ 52), f.lanes, BitVec.ofNat 64 f.va,
    BitVec.ofNat 64 (packBits ([8, 56].zip [match f.flag with
      | none => 0
      | some n => n.val + 1, f.order]))]

/-- The bytes of a part. -/
def State.partBytes (s : State) (j : Nat) (c : Colony) (f : FieldSt) : SavePart → List Byte
  | .header => (s.headWords c f).flatMap wordBytes
  | .bar b => (barWords (c.bar b)).flatMap wordBytes
  | .ring r => match c.rings.getD r none with
    | none => []
    | some x => wordBytes x.w0 ++ wordBytes x.w1 ++ x.ptrs.flatMap fun p => leBytes 4 p.toNat
  | .loop => match c.rsv with
    | none => []
    | some r => [r.n, r.next, r.quota].flatMap (leBytes 8)
  | .lanes _ i => match s.swarms[i]? with
    | none => []
    | some w => (w.lanes.flatMap laneWords).flatMap wordBytes
  | .tileHead k => match c.savedTiles[k]? with
    | none => []
    | some t => (tileWords s t).flatMap wordBytes
  | .tile k => match c.savedTiles[k]? with
    | none => []
    | some t => (List.range tileSize).flatMap fun e => leBytes 4 (spGet (0 : W32) t.elems e).toNat
  | .launches => c.launchQ.flatMap (leBytes 8)
  | .issued => leBytes 8 c.launchIssued
  | .colls => match s.colls.filter fun x => x.colony == j with
    | [] => []
    | xs => (((xs.map collWord ++ List.replicate 8 0).take 8) ++ xs.zipIdx.flatMap fun p => p.1.slices.flatMap (sliceWords s p.2)).flatMap
      wordBytes
  | .comb => (List.range f.desc.combSize).map fun a => spGet 0 c.comb a
  | .cells => (List.range (f.desc.combSize / 128)).map (bitByte c.full.contains)
  | .swarm i => match looseEnv s i with
    | none => []
    | some e => (swarmWords e).flatMap wordBytes
  | .scalars i => match s.swarms[i]? with
    | none => []
    | some w => w.scalars.flatMap wordBytes
  | .faults i => match s.swarms[i]? with
    | none => []
    | some w => (w.faults.flatMap faultWords).flatMap wordBytes

/-! ### Reading the records back -/

/-- Words of `z` bytes. -/
def wordsOf (z : Nat) (bs : List Byte) : List Nat :=
  (List.range (bs.length / z)).map fun k => leNat ((bs.drop (z * k)).take z)

/-- Values at their indices, as a sparse map. -/
def spOf {α : Type} [DecidableEq α] (d : α) (l : List α) : List (Nat × α) := l.zipIdx.filterMap fun p =>
  if p.1 = d then none else some (p.2, p.1)

/-- Numbers 1 to n: the operations of a timeline that has reached n (R143). -/
def upTo (n : Nat) : List Nat := (List.range n).map (· + 1)

/-- A colony as the header's words give it: its counters and timelines, and the arrivals that wait. -/
def Colony.ofHead (s : State) (ws : List W64) (c : Colony) : Colony :=
  let g := fun k => (ws.getD k 0).toNat
  let cs := (List.range 4).map fun k => g (8 + k)
  { c with
    resumes := BitVec.ofNat 32 (g 3)
    bardrop := BitVec.ofNat 32 (g 5)
    copyst := fld (g 6) 0 4
    rst := (g 7).testBit 31
    rstCause := fld (g 7) 28 3
    rstCount := fld (g 7) 24 4
    copyIssued := cs
    copyDone := cs.map upTo
    collTl := (List.range 4).map fun k => ws.getD (12 + k) 0
    mmaIssued := g 16
    mmaDone := upTo (g 16)
    launchTl := g 17
    coop := c.coop.filter fun a => inSet (ws.drop 18) (s.idxOf a.swarm) }

/-- A barrier as its words give it. -/
def Bar.ofWords (ws : List W64) (x : Bar) : Bar :=
  let w := (ws.getD 0 0).toNat
  let g := fun k => unpackBits barBits k w
  let w1 := (ws.getD 1 0).toNat
  let stage := fun k => let v := fld ((ws.getD (2 + k / 4) 0).toNat) (16 * (k % 4)) 16
    (unpackBits stageBits 0 v, unpackBits stageBits 1 v, unpackBits stageBits 2 v)
  { x with
    valid := g 0 == 1
    cls := g 1
    ring := if g 2 = 1 then some (g 3) else none
    m := g 4
    e := g 5
    sArr := g 6
    eArr := g 7
    eHeld := g 8
    gen := BitVec.ofNat 32 w1
    epoch := fld w1 32 32
    stages := (List.range x.stages.length).map stage
    tokens := x.tokens.filter fun t => inSet (ws.drop 4) t.1 }

/-- A lane as its words give it. -/
def RLane.ofWords (ws : List W64) : RLane :=
  let w := (ws.getD 0 0).toNat
  let st := unpackBits laneBits 1 w
  ⟨if st = 0 then none else some (unpackBits laneBits 0 w), st == 2,
    (List.range (unpackBits laneBits 2 w)).map fun k => fld ((ws.getD (1 + k / 4) 0).toNat) (16 * (k % 4)) 16⟩

/-- Six-bit flag counters of two words (Table 14.3). -/
def flagsOf (a b : W64) : List Nat :=
  (List.range 12).map fun k => if k < 10 then fld a.toNat (6 * k) 6 else fld b.toNat (6 * (k - 10)) 6

/-- A swarm as the words of its record give it; its levels are on its spill stack, and what its wait is for stays what it was. -/
def Swarm.ofWords (ws : List W64) (w : Swarm) : Swarm :=
  let g := fun k => ws.getD k 0
  { w with
    pc := (g 0).setWidth 52
    flags := flagsOf (g 2) (g 3)
    starveLog2 := fld (g 6).toNat 0 5
    starveLevel := fld (g 6).toNat 8 2
    nonres := (g 7).getLsbD 0
    privBase := (g 8).toNat
    privSize := (g 9).toNat
    barstat := fld (g 10).toNat 0 2
    tcfg := [g 11, g 12, g 13]
    ucfg := [g 14, g 15, g 16, g 17]
    trap := ⟨g 18, g 19, g 20, g 21, (g 22).setWidth 52, (g 23).getLsbD 0, flagsOf (g 4) (g 5)⟩
    wait := w.wait.map fun wt => { wt with cls := fld (g 26).toNat 0 2, timer := (g 27).toNat } }

/-- A fault record as its words give it. -/
def FaultRec.ofWords (ws : List W64) : FaultRec :=
  let w := (ws.getD 0 0).toNat
  let x := (ws.getD 3 0).toNat
  ⟨BitVec.ofNat 52 w, fld w 52 12, ws.getD 1 0, (ws.getD 2 0).toNat,
    if fld x 0 8 = 0 then none else some (Fin.ofNat 12 (fld x 0 8 - 1)), fld x 8 56⟩

/-- The words of some bytes. -/
def words64 (bs : List Byte) : List W64 := (wordsOf 8 bs).map (BitVec.ofNat 64)

/-- Groups of `n` words. -/
def groupsOf (n : Nat) (ws : List W64) : List (List W64) := (List.range (ws.length / n)).map fun k => (ws.drop (n * k)).take n

/-- The State that the bytes of a part give. -/
def State.loadPart (s : State) (j : Nat) (bs : List Byte) : SavePart → State
  | .header => s.updColony j (Colony.ofHead s (words64 bs))
  | .bar b => s.updColony j fun c => c.updBar b (Bar.ofWords (words64 bs))
  | .ring r => s.updColony j fun c => { c with rings := c.rings.set r (some
      ⟨BitVec.ofNat 64 (leNat (bs.take 8)), BitVec.ofNat 64 (leNat ((bs.drop 8).take 8)),
        (wordsOf 4 (bs.drop 16)).map (BitVec.ofNat 32)⟩) }
  | .loop => s.updColony j fun c =>
      let ws := wordsOf 8 bs
      { c with rsv := some ⟨ws.getD 0 0, ws.getD 1 0, ws.getD 2 0⟩ }
  | .lanes _ i => s.updSwarm i fun w => { w with lanes := (groupsOf 3 (words64 bs)).map RLane.ofWords }
  | .tileHead k => s.updColony j fun c => { c with savedTiles := c.savedTiles.modify k fun t =>
      let ws := wordsOf 8 bs
      { t with
        core := fld (ws.getD 0 0) 0 8
        tile := fld (ws.getD 0 0) 8 8
        token := if ws.getD 1 0 = 0 then none else (s.swarmsOf j).find? fun i => s.idxOf i + 1 == ws.getD 1 0 } }
  | .tile k => s.updColony j fun c => { c with savedTiles := c.savedTiles.modify k fun t =>
      { t with elems := spOf 0 ((wordsOf 4 bs).map (BitVec.ofNat 32)) } }
  | .launches => s.updColony j fun c => { c with launchQ := wordsOf 8 bs }
  | .issued => s.updColony j fun c => { c with launchIssued := leNat bs }
  | .colls => s
  | .comb => s.updColony j fun c => { c with comb := spOf 0 bs }
  | .cells => s.updColony j fun c => { c with full := (List.range (8 * bs.length)).filter fun n => (bs.getD (n / 8) 0).getLsbD (n % 8) }
  | .swarm i => s.updSwarm i (Swarm.ofWords (words64 bs))
  | .scalars i => s.updSwarm i fun w => { w with scalars := words64 bs }
  | .faults i => s.updSwarm i fun w => { w with faults := (groupsOf 4 (words64 bs)).map FaultRec.ofWords }

/-- Writes the save area of colony `j` (Table 14.4, step 5): free bytes, and over them the parts. -/
def State.writeSave (s : State) (j asid : Nat) : State :=
  match s.colonies[j]?, s.fieldOf j with
  | some c, some f =>
    if c.saveSize = 0 then s
    else
      let (ps, n) := s.saveParts j c f.desc
      let s1 := s.fwWrite asid c.saveBase ((List.range n).map fun k => Config.freeByte (s.fresh + k))
      let s2 := ps.foldl (fun t p => t.fwWrite asid (c.saveBase + p.1) (s.partBytes j c f p.2)) s1
      { s2 with fresh := s2.fresh + n }
  | _, _ => s

/-- Reads parts of a save area back. A part whose bytes are those that were written gives back exactly what was saved; of others the
State takes what they say, but for what a record only names: the levels, what a wait is for, open collectives. An uncorrectable error is
the context's fault, of cause 7 (Table 14.5); of a page that is not there any more, which R218 has resident, the State keeps what was
saved (DESIGN CHOICE, log 81). -/
def State.readParts (j h asid base : Nat) : List (Nat × SavePart × List Byte) → State → State
  | [], s => s
  | (o, p, was) :: r, s =>
    match s.readRange asid (base + o) was.length with
    | (s1, .ok bs) => State.readParts j h asid base r (if bs = was then s1 else s1.loadPart j bs p)
    | (s1, .poison) => contextFault h 7 s1
    | (s1, _) => State.readParts j h asid base r s1

/-- Reads the save area of colony `j` back (Table 14.4, restore step 2). -/
def State.readSave (s : State) (j : Nat) (cx : Ctx) : State :=
  match s.colonies[j]?, s.fieldOf j with
  | some c, some f =>
    if c.saveSize = 0 then s
    else
      State.readParts j cx.handle cx.asid c.saveBase ((s.saveParts j c f.desc).1.map fun p => (p.1, p.2, s.partBytes j c f p.2)) s
  | _, _ => s

end Sys2Proof.Machine
end

