-- ==== Sys2Proof/Machine/VecInt.lean ====
section
/-! DEFINITION. Vector integer instructions (R371-R375, R380, R381, R384), reductions, scans, permutes and broadcasts
(R376, R382, R383, R385). -/

namespace Sys2Proof.Machine

/-- Clocks of vector add, logic, shift, min and max (Table 24.2). -/
def vaddClocks : Nat := 4
/-- Clocks of vector multiply (Table 24.2). -/
def vmulClocks : Nat := 6

/-- What the last source reads. -/
def srcReads (wide : Bool) : Src → List Rd
  | .op o => [.vec o wide]
  | .imm _ => []

/-- Taint of the last source. -/
def srcTaint (e : Env) (wide : Bool) : Src → Bool
  | .op o => e.taint wide o
  | .imm _ => false

/-- An immediate of format VI extended to a width (R371). -/
def immExt (n : Nat) (sgn : Bool) (v : BitVec 18) : BitVec n := if sgn then v.signExtend n else v.setWidth n

/-- The last source as 32-bit lanes. -/
def src32 (e : Env) (sgn : Bool) : Src → List W32
  | .op o => e.read 1 o
  | .imm v => splat (immExt 32 sgn v)

/-- The last source as 64-bit lanes. -/
def src64 (e : Env) (sgn : Bool) : Src → List W64
  | .op o => e.read64 1 o
  | .imm v => laneList.map fun _ => immExt 64 sgn v

/-- A 64-bit result as its two entries, the low half first (R42). -/
def halves (r : List W64) : List (List W32) := [r.map lo32, r.map hi32]

/-- The result entries of a two-operand family (R371). -/
def vecEntries (e : Env) (t : IntT) (a : Operand) (b : Src) (f : W32 → W32 → W32) (g : W64 → W64 → W64) :
    List (List W32) :=
  if intWide t then halves (List.zipWith g (e.read64 0 a) (src64 e (intSigned t) b))
  else [List.zipWith f (e.read 0 a) (src32 e (intSigned t) b)]

/-- A two-operand vector integer instruction (R371-R373). -/
def vecBin (c : Ctrl) (k : KReg) (t : IntT) (a : Operand) (b : Src) (clocks : Nat) (f : W32 → W32 → W32)
    (g : W64 → W64 → W64) (s : State) : Host.Outcome State Fault Refusal :=
  let wide := intWide t
  issue c { pushes := wOf wide } false (fun e =>
    orTrap (e.pre [] (.vec a wide :: srcReads wide b)) fun _ =>
      pushes e (e.mask k) (e.taint wide a || srcTaint e wide b) (vecEntries e t a b f g) (some clocks)) s

/-- The exact value of an element by signedness. -/
def valOf {n : Nat} (sgn : Bool) (x : BitVec n) : Int := if sgn then x.toInt else (x.toNat : Int)

/-- An exact result clamped to the type's range (R374). -/
def clampInt (n : Nat) (sgn : Bool) (z : Int) : BitVec n :=
  let lo : Int := if sgn then -(2 ^ (n - 1) : Nat) else 0
  let hi : Int := if sgn then (2 ^ (n - 1) : Nat) - 1 else (2 ^ n : Nat) - 1
  BitVec.ofInt n (max lo (min hi z))

/-- Addition, wrapping or saturating. -/
def addEl {n : Nat} (t : IntT) (sat : Bool) (x y : BitVec n) : BitVec n :=
  if sat then clampInt n (intSigned t) (valOf (intSigned t) x + valOf (intSigned t) y) else x + y

/-- Subtraction, wrapping or saturating. -/
def subEl {n : Nat} (t : IntT) (sat : Bool) (x y : BitVec n) : BitVec n :=
  if sat then clampInt n (intSigned t) (valOf (intSigned t) x - valOf (intSigned t) y) else x - y

/-- VADD (R374). -/
def execVadd (c : Ctrl) (k : KReg) (t : IntT) (sat : Bool) (a : Operand) (b : Src) (s : State) :
    Host.Outcome State Fault Refusal :=
  vecBin c k t a b vaddClocks (addEl t sat) (addEl t sat) s

/-- VSUB (R374): opa less the last source. -/
def execVsub (c : Ctrl) (k : KReg) (t : IntT) (sat : Bool) (a : Operand) (b : Src) (s : State) :
    Host.Outcome State Fault Refusal :=
  vecBin c k t a b vaddClocks (subEl t sat) (subEl t sat) s

/-- VAND (R375). -/
def execVand (c : Ctrl) (k : KReg) (t : IntT) (a : Operand) (b : Src) (s : State) : Host.Outcome State Fault Refusal :=
  vecBin c k t a b vaddClocks (fun x y => x &&& y) (fun x y => x &&& y) s

/-- VOR (R375). -/
def execVor (c : Ctrl) (k : KReg) (t : IntT) (a : Operand) (b : Src) (s : State) : Host.Outcome State Fault Refusal :=
  vecBin c k t a b vaddClocks (fun x y => x ||| y) (fun x y => x ||| y) s

/-- VXOR (R375). -/
def execVxor (c : Ctrl) (k : KReg) (t : IntT) (a : Operand) (b : Src) (s : State) : Host.Outcome State Fault Refusal :=
  vecBin c k t a b vaddClocks (fun x y => x ^^^ y) (fun x y => x ^^^ y) s

/-- VANDN (R375). -/
def execVandn (c : Ctrl) (k : KReg) (t : IntT) (a : Operand) (b : Src) (s : State) : Host.Outcome State Fault Refusal :=
  vecBin c k t a b vaddClocks (fun x y => x &&& ~~~y) (fun x y => x &&& ~~~y) s

/-- A shift count: the low 5 or 6 bits (R384). -/
def countOf {n : Nat} (y : BitVec n) : Nat := y.toNat % n

/-- VSHL (R384). -/
def execVshl (c : Ctrl) (k : KReg) (t : IntT) (a : Operand) (b : Src) (s : State) : Host.Outcome State Fault Refusal :=
  vecBin c k t a b vaddClocks (fun x y => x <<< countOf y) (fun x y => x <<< countOf y) s

/-- VSHR (R384). -/
def execVshr (c : Ctrl) (k : KReg) (t : IntT) (a : Operand) (b : Src) (s : State) : Host.Outcome State Fault Refusal :=
  vecBin c k t a b vaddClocks (fun x y => x >>> countOf y) (fun x y => x >>> countOf y) s

/-- VSRA (R384). -/
def execVsra (c : Ctrl) (k : KReg) (t : IntT) (a : Operand) (b : Src) (s : State) : Host.Outcome State Fault Refusal :=
  vecBin c k t a b vaddClocks (fun x y => x.sshiftRight (countOf y)) (fun x y => x.sshiftRight (countOf y)) s

/-- Less than by the type's signedness. -/
def ltEl {n : Nat} (sgn : Bool) (x y : BitVec n) : Bool := if sgn then x.slt y else x.ult y

/-- The smaller element (R380). -/
def minEl {n : Nat} (sgn : Bool) (x y : BitVec n) : BitVec n := if ltEl sgn y x then y else x
/-- The larger element. -/
def maxEl {n : Nat} (sgn : Bool) (x y : BitVec n) : BitVec n := if ltEl sgn x y then y else x

/-- The high half of the exact product (R381). -/
def mulhi {n : Nat} (sgn : Bool) (x y : BitVec n) : BitVec n := BitVec.ofInt n (valOf sgn x * valOf sgn y / (2 ^ n : Nat))

/-- VMIN. -/
def execVmin (c : Ctrl) (k : KReg) (t : IntT) (a : Operand) (b : Src) (s : State) : Host.Outcome State Fault Refusal :=
  vecBin c k t a b vaddClocks (fun x y => minEl (intSigned t) x y) (fun x y => minEl (intSigned t) x y) s

/-- VMAX. -/
def execVmax (c : Ctrl) (k : KReg) (t : IntT) (a : Operand) (b : Src) (s : State) : Host.Outcome State Fault Refusal :=
  vecBin c k t a b vaddClocks (fun x y => maxEl (intSigned t) x y) (fun x y => maxEl (intSigned t) x y) s

/-- VMUL. -/
def execVmul (c : Ctrl) (k : KReg) (t : IntT) (a : Operand) (b : Src) (s : State) : Host.Outcome State Fault Refusal :=
  vecBin c k t a b vmulClocks (fun x y => x * y) (fun x y => x * y) s

/-- VMULHI. -/
def execVmulhi (c : Ctrl) (k : KReg) (t : IntT) (a : Operand) (b : Src) (s : State) : Host.Outcome State Fault Refusal :=
  vecBin c k t a b vmulClocks (fun x y => mulhi (intSigned t) x y) (fun x y => mulhi (intSigned t) x y) s

/-! ### Across lanes -/

/-- The running combination over the active lanes, ascending (R383); a lane before the first active one, or inactive,
holds what came before it. -/
def scanFrom {α : Type} (op : α → α → α) (m : W64) : Nat → Option α → List α → List (Option α)
  | _, _, [] => []
  | l, acc, x :: r =>
    let acc1 := if has m l then (match acc with
      | none => some x
      | some y => some (op y x))
    else acc
    acc1 :: scanFrom op m (l + 1) acc1 r

/-- The combined lanes: every prefix for a scan, the whole in every lane for a reduction. -/
def combineLanes {α : Type} (scan : Bool) (op : α → α → α) (d : α) (m : W64) (v : List α) : List α :=
  let rs := scanFrom op m 0 none v
  if scan then rs.map fun x => x.getD d else
    let last := (rs.getLastD none).getD d
    rs.map fun _ => last

/-- The combining operation on integers (R383). -/
def redInt {n : Nat} (op : RedOp) (sgn : Bool) (x y : BitVec n) : BitVec n :=
  match op with
  | .add => x + y
  | .min => minEl sgn x y
  | .max => maxEl sgn x y

/-- The combining operation on f32 (R383, R325). -/
def redF32Op (op : RedOp) (x y : W32) : W32 :=
  match op with
  | .add => addF32 x y
  | .min => f32Of (fMinMaxCode false fmtF32 x.toNat y.toNat 0)
  | .max => f32Of (fMinMaxCode true fmtF32 x.toNat y.toNat 0)

/-- A reduction type is 64 bits wide. -/
def redWide : RedT → Bool
  | .int t => intWide t
  | .f32 => false

/-- Entries of VRED and VSCAN. -/
def redEntries (e : Env) (scan : Bool) (op : RedOp) (t : RedT) (m : W64) (a : Operand) : List (List W32) :=
  match t with
  | .f32 => [combineLanes scan (redF32Op op) 0 m (e.read 0 a)]
  | .int i =>
    if intWide i then halves (combineLanes scan (redInt op (intSigned i)) 0 m (e.read64 0 a))
    else [combineLanes scan (redInt op (intSigned i)) 0 m (e.read 0 a)]

/-- VRED and VSCAN (R383): variable latency. -/
def reduceLanes (scan : Bool) (c : Ctrl) (k : KReg) (op : RedOp) (t : RedT) (a : Operand) (s : State) :
    Host.Outcome State Fault Refusal :=
  issue c { pushes := wOf (redWide t) } false (fun e =>
    orTrap (e.pre [] [.vec a (redWide t)]) fun _ =>
      pushes e (e.mask k) (e.taint (redWide t) a) (redEntries e scan op t (e.mask k) a) none) s

/-- VRED. -/
def execVred (c : Ctrl) (k : KReg) (op : RedOp) (t : RedT) (a : Operand) (s : State) : Host.Outcome State Fault Refusal :=
  reduceLanes false c k op t a s

/-- VSCAN. -/
def execVscan (c : Ctrl) (k : KReg) (op : RedOp) (t : RedT) (a : Operand) (s : State) : Host.Outcome State Fault Refusal :=
  reduceLanes true c k op t a s

/-- VSHUF (R385): the element of lane index[5:0], active or not. -/
def execVshuf (c : Ctrl) (k : KReg) (t : IntT) (data index : Operand) (s : State) : Host.Outcome State Fault Refusal :=
  let wide := intWide t
  issue c { pushes := wOf wide } false (fun e =>
    orTrap (e.pre [] [.vec data wide, .vec index false]) fun _ =>
      let ix := e.read 1 index
      let entries :=
        if wide then
          let v := e.read64 0 data
          halves (ix.map fun j => el64 v (j.toNat % 64))
        else
          let v := e.read 0 data
          [ix.map fun j => el v (j.toNat % 64)]
      pushes e (e.mask k) (e.taint wide data || e.taint false index) entries none) s

/-- VBCAST (R376): the element of lane sS[5:0] in every active lane. -/
def execVbcast (c : Ctrl) (k : KReg) (wide : Bool) (a : Operand) (r : SReg) (s : State) :
    Host.Outcome State Fault Refusal :=
  issue c { pushes := wOf wide } false (fun e =>
    orTrap (e.pre [r.val] [.vec a wide, .sc r.val]) fun _ =>
      let j := (e.scalar 2 r.val).toNat % 64
      let entries :=
        if wide then
          let x := el64 (e.read64 0 a) j
          [splat (lo32 x), splat (hi32 x)]
        else [splat (el (e.read 0 a) j)]
      pushes e (e.mask k) (e.taint wide a) entries none) s

/-- VPUSHS (R382): a scalar in every active lane, taint 0. -/
def execVpushs (c : Ctrl) (k : KReg) (wide : Bool) (r : SReg) (s : State) : Host.Outcome State Fault Refusal :=
  issue c { pushes := wOf wide } false (fun e =>
    orTrap (e.pre [r.val] [.sc r.val]) fun _ =>
      let x := e.scalar 0 r.val
      pushes e (e.mask k) false (if wide then [splat (lo32 x), splat (hi32 x)] else [splat (lo32 x)]) none) s

end Sys2Proof.Machine
end

