-- ==== Sys2Proof/Machine/Sched.lean ====
section
/-! DEFINITION. The launch engine and the scheduler as steps: examining a record (R190, R191, R197), placing a colony
(R8, R12-R18, R190, R192, R201), retiring it (R35, R170, R199), pre-emption and resume (R31, R32, R84, R169, R185, R216,
R225), lending (R191, R269), starvation (R28-R30), top priority, throttling and the end of a YIELD hold (R204-R207, R387). -/

namespace Sys2Proof.Machine

/-! ### Placement -/

/-- Swarms resident on a core's quarter; one that has ended is, until its colony retires (R12, R34). -/
def State.residents (s : State) (k : Nat × Nat × Nat) (q : Nat) : Nat :=
  s.swarms.countP fun w => decide (w.quarter = q) && (match s.colonies[w.colony]? with
    | none => false
    | some c => match c.place with
      | none => false
      | some p => decide (coreAt p w.idx = k))

/-- The quarter with the fewest residents, the lowest on a tie (R201). -/
def State.freeQuarter (s : State) (k : Nat × Nat × Nat) : Nat :=
  (List.range 4).foldl (fun b q => if s.residents k q < s.residents k b then q else b) 0

/-- A quarter no swarm has, for a swarm that is about to join one. -/
def noQuarter : Nat := 4

/-- A swarm of a colony joins a quarter of its core, in the placement that is being made. -/
def State.joinQuarter (p : Span) (s : State) (i : Nat) : State :=
  match s.swarms[i]? with
  | none => s
  | some w =>
    let q := s.freeQuarter (coreAt p w.idx)
    s.updSwarm i fun w => { w with quarter := q, placed := s.nextPlaced }

/-- The swarms of colony `j` join the quarters of a span: one placement, later than any before it (R201, R205). -/
def State.joinAll (s : State) (j : Nat) (p : Span) : State :=
  let s1 := (s.swarmsOf j).foldl (State.joinQuarter p) s
  { s1 with nextPlaced := s1.nextPlaced + 1 }

/-- The swarms of a colony at their first instruction: in place of those of a killed placement, or new ones (R8, R222). -/
def State.startSwarms (s : State) (j : Nat) (f : FieldSt) (index : Nat) : State :=
  let fresh := fun idx => Swarm.start f j index idx noQuarter
  match s.swarmsOf j with
  | [] => { s with swarms := s.swarms ++ (List.range f.desc.swarms).map fresh }
  | is => is.foldl (fun s i => s.updSwarm i fun w => fresh w.idx) s

/-- Bound lines of the context on the cores a colony lands on are treated as by ACQ (R169, R190). -/
def State.arrive (s : State) (p : Span) (asid : Nat) : State := p.coreKeys.foldl (fun s k => s.acqLines k asid) s

/-- Colony `j` may be admitted now (R22, Table 2.4). -/
def State.mayAdmit (s : State) (j : Nat) (c : Colony) (cls : Nat) : Bool :=
  c.admitted || cls != 1
  || s.colonies.zipIdx.all fun p => p.2 == j || p.1.field != c.field || p.1.index > c.index || p.1.admitted

/-- The colony of a field with an index that waits for its first placement. -/
def State.waitingAt (s : State) (fi idx : Nat) : Option Nat :=
  s.colonies.findIdx? fun c => c.field == fi && c.index == idx && c.status == .waiting

/-- The reservations that colony `j` must fit beside when it takes its own along to another span: now, and once lent ones are back
with their owners (R32, R191, R270). -/
def State.moveHolds (s : State) (j : Nat) (c : Colony) : List (List Hold) :=
  if c.lentOut then [s.resvLent [], s.resvBack [] []]
  else
    let away := (c.lenders.filter fun x => s.lendsNow x && s.lends x).map Prod.fst
    [s.resvLent [j], s.resvBack (j :: away) away]

/-- The span shares no core with the places and reservations of the other colonies of the field (R17). -/
def State.apart (s : State) (j : Nat) (c : Colony) (p : Span) : Bool :=
  s.colonies.zipIdx.all fun q => q.2 == j || q.1.field != c.field || !q.1.alive
    || (match q.1.place, q.1.resv with
        | some x, _ => !x.meets p
        | none, some x => !x.meets p
        | none, none => true)

/-- The span may take colony `j` (R14-R18, R24, R191, R222). -/
def State.mayPlace (s : State) (j : Nat) (c : Colony) (f : FieldSt) (cx : Ctx) (p : Span) : Bool :=
  p.ok f.desc.span && s.usable cx p.die p.clus
  && decide (c.avoid ≠ some (p.die, p.clus))
  && s.apart j c p
  && fitsAll (s.placeHolds j f.ctx c.resv.isSome) ⟨f.desc, p⟩
  && (c.resv.isNone || (decide (c.resv = some p) && !c.lentOut) || fitsAll (s.moveHolds j c) ⟨f.desc, p⟩)

/-- The saved tiles are unowned on the cores of a span (R84). -/
def State.tilesFree (s : State) (c : Colony) (p : Span) : Bool :=
  c.savedTiles.all fun t => match p.coreKeys[t.core]? with
    | none => false
    | some k => match (s.core k).tiles[t.tile]? with
      | none => false
      | some x => x.owner.isNone

/-- The loop's quota is free in a cluster (R185). -/
def State.quotaFree (s : State) (c : Colony) (p : Span) : Bool :=
  match c.rsv with
  | none => true
  | some r => s.claimsReserved p.die p.clus + r.quota ≤ sigTable

/-- A swarm of colony `j` waits for a target that has been released; or none of its swarms waits. -/
def State.wakes (s : State) (j : Nat) : Bool :=
  let is := s.swarmsOf j
  (is.any fun i => match looseEnv s i with
    | none => false
    | some e => e.w.wait.any fun wt => e.targetFree wt.kind)
  || is.all fun i => match s.swarms[i]? with
    | none => true
    | some w => w.ended || w.wait.isNone

/-- The colony holds a new reservation, on a span; the lent one stands beside it while it has borrowers (R270). -/
def Colony.renewed (p : Span) (borrowed : Bool) (c : Colony) : Colony :=
  { c with
    resv := some p
    lent := false
    toldBy := none
    lentResv := c.lentResv ++ (if borrowed then c.resv.toList.map fun r => (c.lendNo, r) else [])
    lendNo := c.lendNo + 1 }

/-- A swapped-out lender whose wait target has been released takes a new reservation, on the first span of its width on which one fits
(R18, R270). -/
def State.newResv (s : State) (j : Nat) : State :=
  match s.colonies[j]?, s.fieldOf j, s.ctx? (s.colCtx j) with
  | some c, some f, some cx =>
    if c.lentOut && cx.fault.isNone && s.wakes j then
      match (s.spans cx f.desc.span).find? fun p => s.apart j c p && fitsAll (s.moveHolds j c) ⟨f.desc, p⟩ with
      | none => s
      | some p => s.updColony j (Colony.renewed p (s.lentTo (j, c.lendNo)))
    else s
  | _, _, _ => s

/-- Every lender that can take a new reservation takes one, in ascending field age and colony index (R270). -/
def State.newResvs (s : State) : State := (List.range s.colonies.length).foldl State.newResv s

/-- A page of the colony's save area or of a private area of its swarms is held (R112). -/
def State.restoreHeld (s : State) (j : Nat) (c : Colony) (cx : Ctx) : Bool :=
  s.areaHeld cx.asid c.saveBase c.saveSize || (s.swarmsOf j).any s.privHeld || s.fwHeld.any fun h => h.asid == cx.asid

/-- The span may take a pre-empted colony (R32, R84, R185, R191); one swapped out to lend also needs a reservation again and a released
target. -/
def State.mayResume (s : State) (j : Nat) (c : Colony) (f : FieldSt) (cx : Ctx) (p : Span) : Bool :=
  s.mayPlace j c f cx p && s.tilesFree c p && s.quotaFree c p && !c.lentOut && (c.stop != some .lending || s.wakes j)
  && !s.restoreHeld j c cx

/-- Some span may take colony `j` now, which waits for placement or for a resume. -/
def State.couldGo (s : State) (j : Nat) : Bool :=
  match s.colonies[j]?, s.fieldOf j, s.ctx? (s.colCtx j) with
  | some c, some f, some cx =>
    cx.fault.isNone && f.live && (s.spans cx f.desc.span).any fun p => match c.status with
      | .waiting => s.mayAdmit j c f.cls && s.mayPlace j c f cx p
      | .saved => s.mayResume j c f cx p
      | _ => false
  | _, _, _ => false

/-- Colonies whose raised priority puts them ahead of colony `j` of their context, for admission and for placement on resume
(R207). -/
def State.raisedFirst (s : State) (j h : Nat) : Bool :=
  s.raisedCol j || s.colonies.zipIdx.all fun p =>
    p.2 == j || !(s.colCtx p.2 == h && s.raisedCol p.2 && (p.1.status == .waiting || p.1.status == .saved) && s.couldGo p.2)

/-- Raised colonies go first (R207), then reserved ones, in ascending field age and colony index (R192); one that must avoid a
cluster holds nobody up. -/
def State.itsTurn (s : State) (j h : Nat) (c : Colony) : Bool :=
  s.raisedFirst j h && (s.raisedCol j || s.colonies.zipIdx.all fun p =>
    !(p.1.status == .waiting && p.1.resv.isSome && p.1.avoid.isNone && s.colCtx p.2 == h)
    || (c.resv.isSome && j ≤ p.2) || c.avoid.isSome)

/-- COLONY_PLACE: a colony starts on a span (R8, R12, R192, R201). -/
def execColonyPlace (field idx sock clus : Nat) (cores : List Nat) (s : State) : Host.Outcome State Fault Refusal :=
  let p : Span := ⟨sock, clus, cores⟩
  match s.waitingAt field idx with
  | none => .refused .notEnabled
  | some j =>
    match s.colonies[j]?, s.fields[field]? with
    | some c, some f =>
      match s.ctx? f.ctx with
      | none => .refused .notEnabled
      | some cx =>
        if f.live && cx.fault.isNone && s.mayAdmit j c f.cls && s.itsTurn j f.ctx c && s.mayPlace j c f cx p then
          let s1 := s.updColony j fun c =>
            { c with status := .running, admitted := true, place := some p, avoid := none,
                     resv := if c.resv.isSome then some p else none }
          let s2 := s1.startSwarms j f c.index
          .next ((s2.joinAll j p).arrive p cx.asid)
        else .refused .notEnabled
    | _, _ => .refused .notEnabled

/-! ### Retirement -/

/-- Nothing the colony has in the engines is still to complete, and its pending-launch queue is empty (R35, R322). -/
def State.enginesDone (s : State) (j : Nat) (c : Colony) : Bool :=
  (s.colls.all fun x => x.colony != j) && (s.mmas.all fun m => m.colony != j) && c.coop.isEmpty && c.launchQ.isEmpty

/-- Every swarm of the colony has ended and its operations are done. -/
def State.allEnded (s : State) (j : Nat) : Bool :=
  (s.swarmsOf j).all fun i => match s.swarms[i]? with
    | none => true
    | some w => w.ended && w.ops.isEmpty

/-- A retired colony holds nothing (R35). -/
def Colony.released (c : Colony) : Colony :=
  { c with status := .retired, resv := none, lent := false, toldBy := none, lentResv := [], place := none, stop := none, comb := [], full := [],
           combPoison := [], combOld := [], bars := [], rings := [], rsv := none, coop := [], savedTiles := [], saveSize := 0 }

/-- COLONY_RETIRE (R35, R36, R170, R199, R220, R270): it waits while a home holds one of its write-backs. -/
def execColonyRetire (col : Nat) (s : State) : Host.Outcome State Fault Refusal :=
  match s.colonies[col]?, s.ctx? (s.colCtx col) with
  | some c, some cx =>
    match c.place with
    | none => .refused .notEnabled
    | some p =>
      if c.status == .running && s.allEnded col && s.enginesDone col c && s.mayLeave cx.asid (s.drainSends col) p.coreKeys then
        let is := s.swarmsOf col
        let s1 := s.drainBuffer col
        let s2 := s1.leaveCores cx.handle cx.asid p.coreKeys
        if s2.signals cx.handle then
          let s3 := s2.updSpan p fun k => { k with tiles := k.tiles.map (Tile.leave col is) }
          .next (settle (((s3.updColony col Colony.released).giveBack col).retireOne c.field c.index))
        else .next s2
      else .refused .notEnabled
  | _, _ => .refused .notEnabled

/-! ### Pre-emption and resume -/

/-- An operation that is saved as it is: a blocked wait, or a part of an engine operation that has not started. -/
def savedOp (o : Op) : Bool :=
  match o.body with
  | .waiting | .engine => true
  | _ => false

/-- Step 2 of Table 14.4 has nothing left to wait for: only open collectives and arrivals that have not started are left in the
engines. -/
def State.drainedCol (s : State) (j : Nat) : Bool :=
  ((s.swarmsOf j).all fun i => match s.swarms[i]? with
    | none => true
    | some w => w.ops.all savedOp && !w.entering)
  && (s.colls.all fun x => x.colony != j || x.state == .open_) && s.mmas.all fun m => m.colony != j

/-- Writes the levels of a swarm that are not yet spilled onto its spill stack, oldest first (R225); a context fault where the area
or a page refuses. -/
def State.spillAll (s : State) (i : Nat) : Nat → State
  | 0 =>
    match s.swarms[i]? with
    | none => s
    | some w =>
      if w.top.spilled then s
      else match s.spillTo i (w.under.map Level.size).sum w.top with
        | (s1, true) => s1.updSwarm i fun w => { w with top := { w.top with spilled := true } }
        | (s1, false) => s1
  | fuel + 1 =>
    match s.swarms[i]? with
    | none => s
    | some w =>
      match w.oldest? with
      | none => s.spillAll i fuel
      | some p => match s.spillLevel i p with
        | (s1, true) => s1.spillAll i fuel
        | (s1, false) => s1

/-- Spills every swarm of a colony. -/
def State.spillColony (s : State) (j : Nat) : State :=
  (s.swarmsOf j).foldl (fun s i => match s.swarms[i]? with
    | none => s
    | some w => if w.ended then s else s.spillAll i w.under.length) s

/-- The tiles a colony owns on its span, by core position and number (R84). -/
def State.ownedTiles (s : State) (j : Nat) (p : Span) : List SavedTile :=
  p.coreKeys.zipIdx.flatMap fun kp => ((s.core kp.1).tiles.zipIdx.filter fun t => t.1.owner == some j).map fun t =>
    ⟨kp.2, t.2, t.1.token, t.1.elems, t.1.bad⟩

/-- The colony as its pre-emption leaves it: what has been lent, and when it gave way to a time slice (R24, R191). -/
def Colony.saved (c : Colony) (at_ : Nat × Nat) (tiles : List SavedTile) : Colony :=
  { c with
    status := .saved
    place := none
    savedTiles := tiles
    lent := c.lent && c.stop == some .lending
    rotatedAt := if c.stop = some .rotation then some at_ else none }

/-- Pre-empts colony `j` from its span (R31, R216, Table 14.4): steps 3 to 5. -/
def State.preempt (s : State) (j : Nat) : State :=
  match s.colonies[j]?, s.ctx? (s.colCtx j) with
  | some c, some cx =>
    match c.place with
    | none => s
    | some p =>
      let s1 := s.spillColony j
      if !s1.signals cx.handle then s1
      else
        let s2 := s1.leaveCores cx.handle cx.asid p.coreKeys
        if s2.signals cx.handle then
          let saved := s2.ownedTiles j p
          let s3 := s2.updSpan p fun k => { k with tiles := k.tiles.map (Tile.leave j []) }
          let s4 := (s3.swarmsOf j).foldl (fun s i => s.updSwarm i fun w => { w with hold := none, lastIssue := none }) s3
          (s4.updColony j fun c => c.saved (s.cycleOf p.die, p.die) saved).writeSave j cx.asid
        else s2
  | _, _ => s

/-- Colony `j` has drained, and no home holds what its save writes (R111, R112). In the clock in which its issue stops, waits that can
perform perform first: it is saved in a later one (R217, Table 7.9). -/
def State.mayPreempt (s : State) (j : Nat) : Bool :=
  match s.colonies[j]?, s.ctx? (s.colCtx j) with
  | some c, some cx => c.status == .running && !s.clk.stopped.contains j && s.drainedCol j && !((s.swarmsOf j).any s.privHeld) && (match c.place with
    | none => false
    | some p => s.mayLeave cx.asid [] p.coreKeys)
  | _, _ => false

/-- Issue stops in every swarm of colony `j` (Table 14.4, step 1). -/
def State.stopColony (s : State) (why : StopWhy) (j : Nat) : State :=
  { s.updColony j fun c => { c with stop := if c.stop.isNone || why = .park then some why else c.stop } with
    clk := { s.clk with stopped := j :: s.clk.stopped } }

/-- Colony `j` shares the cluster it runs on with a colony of another context that waits for cores (R192). -/
def State.shared (s : State) (j : Nat) (p : Span) : Bool :=
  s.colonies.zipIdx.any fun q =>
    s.colCtx q.2 != s.colCtx j && (q.1.status == .waiting || (q.1.status == .saved && !q.1.lentOut))
    && (match s.ctx? (s.colCtx q.2) with
      | none => false
      | some cx => cx.fault.isNone && s.usable cx p.die p.clus)

/-- The number of a die's rotation period (R192). -/
def State.periodOf (s : State) (die : Nat) : Nat := s.cycleOf die / rotationPeriod

/-- A rotation period of the die has ended since cores last rotated there (R192). -/
def State.periodOver (s : State) (die : Nat) : Bool :=
  match s.dies[die]? with
  | none => false
  | some d => decide (d.rotation < s.periodOf die)

/-- Colony `q` could run but for its cores: it waits for its first placement, or is back from its time slice or from its lending. -/
def State.runnable (s : State) (q : Nat) (c : Colony) : Bool :=
  match c.status with
  | .waiting => (match s.fieldOf q with
    | none => false
    | some f => s.mayAdmit q c f.cls)
  | .saved => !c.lentOut && !s.sliced c && (c.stop != some .lending || s.wakes q)
  | _ => false

/-- Colony `j`, without a reservation, stands on a span where the reservation of a runnable colony of another context has no room
(R24). -/
def State.inTheWay (s : State) (j : Nat) (c : Colony) (p : Span) : Bool :=
  c.resv.isNone && s.colonies.zipIdx.any fun q =>
    s.colCtx q.2 != s.colCtx j && s.signals (s.colCtx q.2) && s.runnable q.2 q.1
    && (match q.1.resv, s.fieldOf q.2 with
      | some x, some f => x.die == p.die && x.clus == p.clus && !fitsAll (s.placeHolds q.2 f.ctx true) ⟨f.desc, x⟩
      | _, _ => false)

/-- Colony `j` is to give way: to a reservation of another context, or because a rotation period of its die has ended (R24, R192). -/
def State.rotates (s : State) (j : Nat) : Bool :=
  match s.colonies[j]? with
  | none => false
  | some c => c.status == .running && c.stop.isNone && (match c.place with
    | none => false
    | some p => s.inTheWay j c p || s.shared j p && s.periodOver p.die)

/-- The die of colony `j` has rotated its cores in this period. -/
def State.rotated (s : State) (j : Nat) : State :=
  match s.colonies[j]? with
  | none => s
  | some c => match c.place with
    | none => s
    | some p => s.updDie p.die fun d => { d with rotation := s.periodOf p.die }

/-- Colony `j` has stopped for a rotation. -/
def State.rotating (s : State) (j : Nat) : Bool :=
  match s.colonies[j]? with
  | none => false
  | some c => c.stop == some .rotation

/-- CONTEXT_ROTATION (R192, R216): the colonies that give way stop issuing; those that have drained are saved. -/
def execContextRotation (cols : List Nat) (s : State) : Host.Outcome State Fault Refusal :=
  if !cols.isEmpty && decide cols.Nodup && cols.all (fun j => if s.rotating j then s.mayPreempt j else s.rotates j) then
    let new := cols.filter fun j => !s.rotating j
    let s1 := new.foldl (State.stopColony · .rotation) (new.foldl State.rotated s)
    .next (settle ((cols.filter s1.mayPreempt).foldl State.preempt s1))
  else .refused .notEnabled

/-- LENDING_SWAP_OUT (R191, R269): a lender that is still lendable when issue stops, in a later clock than that of the decision, is
swapped out once it has drained; otherwise the lending is abandoned. -/
def execLendingSwapOut (col : Nat) (s : State) : Host.Outcome State Fault Refusal :=
  match s.colonies[col]? with
  | none => .refused .notEnabled
  | some c =>
    if c.lent && c.status == .running then
      match c.stop with
      | none =>
        if s.clk.told.contains col then .refused .notEnabled
        else if s.lendable col then .next (s.stopColony .lending col)
        else .next (s.updColony col Colony.untold)
      | some .lending => if s.mayPreempt col then .next (settle (s.preempt col)) else .refused .notEnabled
      | some _ => .refused .notEnabled
    else .refused .notEnabled

/-- Writes the saved tiles back. -/
def State.restoreTiles (s : State) (j : Nat) (p : Span) : State :=
  match s.colonies[j]? with
  | none => s
  | some c => c.savedTiles.foldl (fun s t => match p.coreKeys[t.core]? with
    | none => s
    | some k => s.updTile k t.tile fun _ => ⟨some j, t.token, t.elems, t.bad⟩) s

/-- The reservation of a colony that resumes on a span moves there (R32). -/
def Colony.resumed (c : Colony) (p : Span) : Colony :=
  { c with
    status := .running
    place := some p
    stop := none
    rotatedAt := none
    resv := if c.resv.isSome then some p else none
    lent := false
    toldBy := none
    savedTiles := []
    resumes := c.resumes + 1 }

/-- The restore steps of Table 14.4 on a span. -/
def State.restore (s : State) (j : Nat) (cx : Ctx) (p : Span) : State :=
  let s0 := s.readSave j cx
  if !s0.signals cx.handle then s0
  else
    let s1 := ((s0.restoreTiles j p).updColony j fun c => c.resumed p).arrive p cx.asid
    let is := s1.swarmsOf j
    let s2 := is.foldl (fun s i => s.updSwarm i fun w => { w with readyCount := 0, lastIssue := none, quarter := noQuarter }) s1
    is.foldl State.refill (s2.joinAll j p)

/-- A colony that has given way for a time slice lets the colonies of other contexts go before it that can go now (R24, R192). -/
def State.yields (s : State) (j : Nat) (c : Colony) : Bool :=
  s.sliced c && s.colonies.zipIdx.any fun q =>
    s.colCtx q.2 != s.colCtx j && !s.sliced q.1 && s.couldGo q.2
    && (if q.1.status == .waiting then s.itsTurn q.2 (s.colCtx q.2) q.1 else s.raisedFirst q.2 (s.colCtx q.2))

/-- RESUME (R24, R32, R191, R207, R216, R270): a lender resumes only once a wait target has been released. -/
def execResume (col sock clus : Nat) (cores : List Nat) (s : State) : Host.Outcome State Fault Refusal :=
  let p : Span := ⟨sock, clus, cores⟩
  match s.colonies[col]?, s.fieldOf col, s.ctx? (s.colCtx col) with
  | some c, some f, some cx =>
    if c.status == .saved && cx.fault.isNone && s.raisedFirst col f.ctx && !s.yields col c && s.mayResume col c f cx p then
      .next (settle (s.restore col cx p))
    else .refused .notEnabled
  | _, _, _ => .refused .notEnabled

/-! ### Launch records -/

/-- The entry at the head is freed and the launch timeline advances (R197). -/
def State.freeEntry (s : State) (j : Nat) : State :=
  settle (s.updColony j fun c => { c with launchQ := c.launchQ.tail, launchTl := c.launchTl + 1 })

/-- The colony is told to lend (R191): one that has been pre-empted already is swapped out. -/
def Colony.tell (t : Teller) (c : Colony) : Colony :=
  { c with lent := true, toldBy := some t, stop := if c.status = .saved then some .lending else c.stop }

/-- Colonies are told to lend (R191). -/
def State.tellLenders (s : State) (t : Teller) (js : List Nat) : State :=
  let s1 := js.foldl (fun s j => s.updColony j (Colony.tell t)) s
  { s1 with clk := { s1.clk with told := js ++ s1.clk.told } }

/-- Every colony of a list has been told to lend. -/
def State.told (s : State) (js : List Nat) : Bool :=
  js.all fun j => match s.colonies[j]? with
    | none => true
    | some c => c.lent

/-- The colonies that a record has told to lend, and whose reservations nobody uses, need not after all, but for those of `keep`: the
record has been examined again (R269; DESIGN CHOICE, log 102). -/
def State.untell (s : State) (t : Teller) (keep : List Nat) : State :=
  { s with colonies := s.colonies.zipIdx.map fun p =>
      if p.1.lent && decide (p.1.toldBy = some t) && !keep.contains p.2 && !s.lentTo (p.2, p.1.lendNo) then p.1.untold else p.1 }

/-- A record is held until these colonies lend: the others it had told need not; whoever has not been told is (R191, R269). -/
def State.holdFor (s : State) (t : Teller) (js : List Nat) : State :=
  let s1 := s.untell t js
  if s1.told js then s1 else s1.tellLenders t js

/-- LAUNCH_RECORD_EXAMINE (R190, R191, R198, R269, R270): the record at the head of colony `col`'s queue, after lenders have taken new
reservations, and before a LAUNCH of its clock. A read that its home holds is made later (R112); an uncorrectable error of the record is
consumed by the launching colony (R219). -/
def execLaunchRecordExamine (col : Nat) (s0 : State) : Host.Outcome State Fault Refusal :=
  match s0.colonies[col]? with
  | none => .refused .notEnabled
  | some c =>
    match c.launchQ, s0.ctx? (s0.colCtx col) with
    | va :: _, some cx =>
      if cx.fault.isSome || s0.clk.launched.contains col then .refused .notEnabled
      else
        let s := s0.newResvs
        let t := Teller.colony col
        match s.readRecord cx.asid va with
        | (_, .error .held) => .refused .notEnabled
        | (s1, .error .poison) => .next (settle (s1.consume col))
        | (s1, .error .bad) => .next (((s1.untell t []).writeStatus cx.asid va stBadRec 0).freeEntry col)
        | (s1, .ok r) =>
          match s1.verdict cx r (if c.alive then some col else none) with
          | .reject st => .next (((s1.untell t []).writeStatus cx.asid va st 0).freeEntry col)
          | .hold js => .next (s1.holdFor t js)
          | .accept d n sps priv save used =>
            let s2 := (s1.untell t used).acceptField cx r d n sps priv save used none
            .next ((s2.endField (s2.fields.length - 1)).freeEntry col)
    | _, _ => .refused .notEnabled

/-! ### Starvation (R28-R30) -/

/-- The starvation timer of a blocked swarm has reached its limit. -/
def Swarm.expired (w : Swarm) : Bool :=
  match w.wait with
  | none => false
  | some wt => 2 ^ w.starveLog2 ≤ wt.timer

/-- An expiry has come in this clock: every release of the clock has come before it (R30). -/
def State.setExpired (s : State) : State := { s with clk := { s.clk with expired := true } }

/-- STARVE_FIRST_EXPIRY (R29, R207): the releasers are raised until the target is released. -/
def execStarveFirstExpiry (sw : Nat) (s : State) : Host.Outcome State Fault Refusal :=
  match envOf s sw with
  | none => .refused .notEnabled
  | some e =>
    match e.w.wait with
    | none => .refused .notEnabled
    | some wt =>
      if e.w.starveLevel = 0 && e.w.expired then
        .next (s.updSwarm sw fun w =>
          { w with starveLevel := 1, wait := some { wt with timer := 0, raises := s.releasers sw wt.kind } }).setExpired
      else .refused .notEnabled

/-- STARVE_SECOND_EXPIRY (R29, R30): the swarm raises STARVE at the blocked instruction, unless its colony is to be pre-empted; the
wait is set aside for IRET. -/
def execStarveSecondExpiry (sw : Nat) (s : State) : Host.Outcome State Fault Refusal :=
  match envOf s sw with
  | none => .refused .notEnabled
  | some e =>
    match e.w.wait, (e.w.wait.bind fun wt => e.w.ops.find? fun o => o.id == wt.op) with
    | some wt, some o =>
      if e.w.starveLevel = 1 && e.w.expired && e.col.stop.isNone then
        let row := wt.kind.row e.col e.fld.desc.stages e.w.stage
        let s1 := s.updSwarm sw fun w => { w with starveLevel := 2, wait := none, starved := some wt }
        .next (takeTrap sw (.plain 8 row (wt.kind.info s e.w.colony e.col row)) o.pc s1).setExpired
      else .refused .notEnabled
    | _, _ => .refused .notEnabled

/-! ### Priority and throttling (R204-R206) -/

/-- Count at which a swarm has top issue priority. -/
def topCount : Nat := 4096

/-- Swarm `i` has top issue priority (R205). -/
def State.top? (s : State) (i : Nat) : Bool :=
  (match s.swarms[i]? with
    | none => false
    | some w => decide (topCount ≤ w.readyCount)) || s.raised i

/-- One swarm issues before another when both have top priority: a larger counter, else an earlier placement (R205). -/
def Swarm.beats (a b : Swarm) : Bool :=
  decide (b.readyCount < a.readyCount)
  || (a.readyCount == b.readyCount && (decide (a.placed < b.placed) || (a.placed == b.placed && decide (a.idx < b.idx))))

/-- Two swarms share a quarter. -/
def State.sameQuarter (s : State) (i j : Nat) : Bool :=
  match envOf s i, envOf s j with
  | some a, some b => decide (a.core = b.core) && a.w.quarter == b.w.quarter
  | _, _ => false

/-- No swarm of the quarter with top priority comes before this one. -/
def State.first (s : State) (i : Nat) (w : Swarm) : Bool :=
  s.swarms.zipIdx.all fun p => p.2 == i || !s.top? p.2 || !s.sameQuarter i p.2 || w.beats p.1

/-- TOP_PRIORITY (R205, R206): the throttle no longer holds the swarm, and its quarter turns to it next. -/
def execTopPriority (sw : Nat) (s : State) : Host.Outcome State Fault Refusal :=
  match envOf s sw with
  | none => .refused .notEnabled
  | some e =>
    if s.top? sw && s.first sw e.w then .next { s.updSwarm sw fun w => { w with admitted := true } with cur := sw }
    else .refused .notEnabled

/-- Swarms of a quarter of a core. -/
def State.quarterOf (s : State) (k : Nat × Nat × Nat) (q : Nat) : List Nat :=
  (List.range s.swarms.length).filter fun i => match envOf s i with
    | none => false
    | some e => decide (e.core = k) && e.w.quarter == q

/-- A core by its number on the device. -/
def coreKey (n : Nat) : Nat × Nat × Nat := (n / 48, n / 12 % 4, n % 12)

/-- How many of a list of swarms stand before swarm `i` by score, the earlier first on a tie. -/
def State.scoreRank (s : State) (is : List Nat) (i : Nat) : Nat :=
  let sc := fun k => match s.swarms[k]? with
    | none => 0
    | some w => w.score
  is.countP fun k => decide (sc k < sc i) || (sc k == sc i && decide (k < i))

/-- Cycles between two admissions of a quarter (R204). -/
def throttlePeriod : Nat := 4096

/-- The throttle period in which a quarter of the die last admitted. -/
def Die.lastThrottle (d : Die) (key : Nat) : Nat := spGet 0 d.throttled key

/-- A quarter is to admit: a new throttle period of its die has begun. -/
def State.throttleDue (s : State) (k : Nat × Nat × Nat) (quarter : Nat) : Bool :=
  match s.dies[k.1]? with
  | none => false
  | some d => decide (d.lastThrottle ((k.2.1 * 12 + k.2.2) * 4 + quarter) < d.cycle / throttlePeriod)

/-- The quarter has admitted in this period. -/
def State.throttleServed (s : State) (k : Nat × Nat × Nat) (quarter : Nat) : State :=
  s.updDie k.1 fun d =>
    { d with throttled := spPut 0 d.throttled ((k.2.1 * 12 + k.2.2) * 4 + quarter) (d.cycle / throttlePeriod) }

/-- THROTTLE_ADMIT (R204): every 4,096 cycles a quarter admits the `n` swarms with the lowest scores to global memory
instructions. -/
def execThrottleAdmit (core quarter n : Nat) (s : State) : Host.Outcome State Fault Refusal :=
  if 4 ≤ n ∧ n ≤ 64 ∧ quarter < 4 ∧ s.throttleDue (coreKey core) quarter then
    let is := s.quarterOf (coreKey core) quarter
    .next (is.foldl (fun t i => t.updSwarm i fun w => { w with admitted := decide (s.scoreRank is i < n) })
      (s.throttleServed (coreKey core) quarter))
  else .refused .notEnabled

/-- What an instruction needs before it issues (R39, R57, R82, R160, R212), as its meaning asks for it. -/
def needOf : Instr → Need
  | .exit _ => { flagsZero := true }
  | .call .. | .calli .. | .ret .. | .iret _ => { drained := true }
  | .vadd _ _ t _ _ _ | .vsub _ _ t _ _ _ | .vand _ _ t _ _ | .vor _ _ t _ _ | .vxor _ _ t _ _ | .vandn _ _ t _ _
  | .vshl _ _ t _ _ | .vshr _ _ t _ _ | .vsra _ _ t _ _ | .vmin _ _ t _ _ | .vmax _ _ t _ _ | .vmul _ _ t _ _
  | .vmulhi _ _ t _ _ | .vshuf _ _ t _ _ => { pushes := wOf (intWide t) }
  | .vred _ _ _ t _ | .vscan _ _ _ t _ => { pushes := wOf (redWide t) }
  | .vbcast _ _ wide _ _ | .vpushs _ _ wide _ => { pushes := wOf wide }
  | .fadd .. | .fsub .. | .fmul .. | .ffma .. | .fmin .. | .fmax .. | .ffn .. | .pack4 .. => { pushes := 1 }
  | .cvt _ _ _ _ _ dst _ => { pushes := wOf dst.wide }
  | .unpack4 .. => { pushes := 4 }
  | .vld _ _ mt _ _ _ | .vldc _ _ mt _ _ _ => { pushes := wOf (mtWide mt), access := true }
  | .atomAdd _ _ wide _ _ _ _ | .atomMin _ _ _ wide _ _ _ _ | .atomMax _ _ _ wide _ _ _ _ | .atomAnd _ _ wide _ _ _ _
  | .atomOr _ _ wide _ _ _ _ | .atomXor _ _ wide _ _ _ _ | .atomXchg _ _ wide _ _ _ _ | .atomCas _ _ wide _ _ _ _
  | .atom2Amove _ _ wide _ _ _ _ => { pushes := wOf wide, access := true }
  | .atomAddF32 .. => { pushes := 1, access := true }
  | .atom2Dcas _ _ wide _ _ _ _ => { pushes := 2 * wOf wide, access := true }
  | .vldComb .. => { pushes := 1, access := true }
  | .vst .. | .vstComb .. | .cld .. | .cst .. | .red .. | .redF32 .. | .bind .. | .unbind .. | .acq .. | .rel .. | .fence ..
  | .copy .. | .copyx .. | .taskPush .. | .taskPop .. | .lwait .. | .launch .. | .launchWait .. => { access := true }
  | .rsvDone _ => { access := true, quiet := true }
  | .barArrive .. | .barArriveWait .. => { quiet := true }
  | .rsvCand .. => { pushes := 1 }
  | .mrd _ _ _ t _ => { pushes := 1, tile := some t.val }
  | .mwr _ _ _ t _ _ | .mrelFree _ t => { tile := some t.val }
  | _ => {}

/-- Swarm `i` is ready (R201): nothing holds the instruction at its pc. -/
def State.couldIssue (s : State) (i : Nat) : Bool :=
  match envOf s i with
  | none => false
  | some e =>
    match s.peekWord e.ctx.asid e.w.pc.toNat with
    | none => e.ready Ctrl.plain {}
    | some w => e.ready ((ctrlOf w).getD Ctrl.plain) (match decode w with
      | .ok i => needOf i
      | .error _ => {})

/-- A swarm of the quarter has issued in this clock. -/
def Env.quarterUsed (e : Env) : Bool := e.s.clk.issued.any fun x => decide (x.2 = (e.core, e.w.quarter))

/-- YIELD_HOLD_END (R387): no other swarm of the quarter is ready in this clock, before it issues, or 64 cycles have passed. -/
def execYieldHoldEnd (sw : Nat) (s : State) : Host.Outcome State Fault Refusal :=
  match envOf s sw with
  | none => .refused .notEnabled
  | some e =>
    match e.w.hold with
    | none => .refused .notEnabled
    | some t =>
      if t ≤ e.cycle || !e.quarterUsed && (List.range s.swarms.length).all fun i => i == sw || !s.sameQuarter sw i || !s.couldIssue i then
        .next (s.updSwarm sw fun w => { w with hold := none })
      else .refused .notEnabled

end Sys2Proof.Machine
end

