-- ==== Sys2Proof/Machine/Reliab.lean ====
section
/-! DEFINITION. Reliability, power and bring-up as steps: evictions (R115, R204), errors (R219, R222), timing replays and
ageing (R223, R224), the power controller and the limiter (R236-R239), transitions and parking (R237, R240-R244), link
training (R232, R242), reset and bring-up (R102, R267, R268), and writes to registers without a row (R7, R100). -/

namespace Sys2Proof.Machine

/-! ### Evictions -/

/-- The address space whose tables a line belongs to: its tag, or for a G line that of the swarm that filled it. -/
def State.lineAsid (s : State) (l : L1Line) : Nat := if l.asid = 0xFFFF then s.asidOf l.filler else l.asid

/-- Victim tags of a core (R204). -/
def victimMax : Nat := 1024

/-- A core's L1 gives up a line: dirty bytes go home, and a fault is the context's, of cause 4 (R115). -/
def State.evictLine (s : State) (k : Nat × Nat × Nat) (l : L1Line) : State :=
  let asid := s.lineAsid l
  let (s1, f) := s.writeBackLine k asid l Who.none
  let s2 := s1.updCore k fun c => { c with l1 := c.l1.filter fun x => !(x.asid == l.asid && x.line == l.line) }
  match f with
  | none => s2
  | some x =>
    let s3 := s2.logFaults asid 7 Who.none [⟨64, x.1, x.2⟩]
    match s3.ctxOfAsid asid with
    | none => s3
    | some c => contextFault c.handle 4 s3

/-- The victim tag of an evicted line is kept (R204). -/
def State.keepVictim (s : State) (k : Nat × Nat × Nat) (v : Victim) : State :=
  s.updCore k fun c => { c with victims := (v :: c.victims).take victimMax }

/-- A core no longer holds a line, nor its die when that was its last core. -/
def DirEntry.dropCore (k : Nat × Nat × Nat) (d : DirEntry) : DirEntry :=
  let left := d.cores.filter fun c => decide (c.1 ≠ k)
  { d with
    cores := left
    dies := if left.any fun c => c.1.1 == k.1 then d.dies else d.dies.filter (· != k.1)
    owner := if d.owner = some k then none else d.owner
    state := if d.owner = some k then .shared else d.state }

/-- The directory of a coherent line's home. -/
def State.lineDir (s : State) (asid line : Nat) : List DirEntry :=
  if asid = 0 then s.ioDir
  else match s.ports[s.home (line * 64)]? with
    | none => []
    | some p => p.dir

/-- Changes the directory of a coherent line's home. -/
def State.updLineDir (s : State) (asid line : Nat) (f : List DirEntry → List DirEntry) : State :=
  if asid = 0 then { s with ioDir := f s.ioDir } else s.updPort (s.home (line * 64)) fun p => { p with dir := f p.dir }

/-- The swarm that filled a coherent line which a core holds. -/
def State.coherentFiller (s : State) (k : Nat × Nat × Nat) (asid line : Nat) : Option Nat := do
  let d ← (s.lineDir asid line).find? (DirEntry.is (asid, line))
  let c ← d.cores.find? fun c => decide (c.1 = k)
  return c.2

/-- A core gives up a coherent line. -/
def State.evictCoherent (s : State) (k : Nat × Nat × Nat) (asid line : Nat) : State :=
  s.updLineDir asid line fun es =>
    (es.map fun d => if d.is (asid, line) then d.dropCore k else d).filter DirEntry.covers

/-- No home holds the write-back of a line (R111, R112). -/
def State.lineFree (s : State) (l : L1Line) : Bool := l.dirty == 0 || !s.holds (s.lineAsid l) (l.line * 64) true

/-- EVICTION_WRITEBACK (R115, R204): core `core` evicts a line by its tag, bound or coherent; its victim tag is kept. -/
def execEvictionWriteback (core asid line : Nat) (s : State) : Host.Outcome State Fault Refusal :=
  let k := coreKey core
  match (s.core k).l1.find? fun l => l.asid == asid && l.line == line with
  | some l =>
    if s.lineFree l then .next ((s.evictLine k l).keepVictim k ⟨asid, line, l.filler⟩) else .refused .notEnabled
  | none =>
    match s.coherentFiller k asid line with
    | none => .refused .notEnabled
    | some i => .next ((s.evictCoherent k asid line).keepVictim k ⟨asid, line, i⟩)

/-! ### Errors (R219) -/

/-- An uncorrectable error in a slot of the current level: an age of the queue, or a frame slot. -/
def Level.markSlot (frame : Bool) (n : Nat) (lv : Level) : Level :=
  if frame then { lv with win := lv.win.modify n fun x => { x with bad := true } }
  else { lv with queue := lv.queue.modify n fun x => { x with bad := true } }

/-- An uncorrectable error in 16 bytes of an L1 line: a clean copy is refetched, dirty bytes carry poison (Table 14.7). -/
def L1Line.markUnit (unit : Nat) (l : L1Line) : L1Line :=
  let m := byteMask (16 * unit) 16
  if l.dirty &&& m == 0 then { l with have_ := l.have_ &&& ~~~m } else { l with bad := insNat unit l.bad }

/-- UNCORRECTABLE_ERROR (R219, R222, Tables 14.5 and 14.7): an error that sets poison in a unit, one that colony `col` consumes as
it arises, or one of a directory, TLB, fault log or bounce buffer. -/
def execUncorrectableError (col : Nat) (unit : ErrUnit) (s : State) : Host.Outcome State Fault Refusal :=
  match unit with
  | .markMemory u => .next { s with poison := insNat u s.poison }
  | .markComb cell => .next (s.updColony col fun c => { c with combPoison := insNat cell c.combPoison })
  | .markSlot sw frame n => .next (s.updSwarm sw fun w => { w with top := w.top.markSlot frame n })
  | .markScalar sw n => .next (s.updSwarm sw fun w => { w with badScalars := insNat n w.badScalars })
  | .markTile core t g => .next (s.updTile (coreKey core) t fun x => { x with bad := insNat g x.bad })
  | .markLine core asid line u => .next (s.updCore (coreKey core) fun c =>
      { c with l1 := c.l1.map fun l => if l.asid == asid && l.line == line then l.markUnit u else l })
  | .corrected die => .next (s.updDie die fun d => { d with ce := if d.ce = BitVec.allOnes 32 then d.ce else d.ce + 1 })
  | .system => .next (contextFault (s.colCtx col) 7 s)
  | .slot | .scalar | .comb | .accumulator | .memory =>
    match s.colonies[col]? with
    | none => .refused .notEnabled
    | some c => if c.status == .running then .next (settle (s.consume col)) else .refused .notEnabled

/-- TIMING_REPLAY (R223): the core's REPLAY counter, saturating. -/
def execTimingReplay (core : Nat) (s : State) : Host.Outcome State Fault Refusal :=
  .next (s.updCore (coreKey core) fun c =>
    { c with replay := if c.replay = BitVec.allOnes 32 then c.replay else c.replay + 1 })

/-! ### Performance states (R235-R237, R244) -/

/-- PSTATE.CUR and REQ of a parked die. -/
def pk : Nat := 8

/-- PSTATE.CAP: the slowest cap of the clusters that count (R224, R236). -/
def Die.cap (d : Die) : Nat := (d.clusters.map fun c => if c.gated then 0 else c.cap).foldl max 0

/-- The target state of a die that is not to park (R236). -/
def Die.target (d : Die) : Nat := max d.req (max d.cap d.lim)

/-- The die is neither dead nor parked. -/
def Die.unparked (d : Die) : Bool := !d.dead && d.cur != pk

/-- The die runs: not dead, not parked or parking, and no unpark waits for its link. -/
def Die.up (d : Die) : Bool := d.unparked && !d.parking && !d.waking

/-- A transition toward the target starts, when none is in progress (R236, R244). -/
def Die.retarget (d : Die) : Die :=
  if d.up && d.trans.isNone && d.req < pk && d.target != d.cur then { d with trans := some d.target, busy := true } else d

/-- PSTATE as a word (Table 16.7). -/
def Die.pstate (d : Die) : Nat :=
  d.busy.toNat * 2 ^ 31 + d.pkst * 2 ^ 29 + d.cur * 2 ^ 24 + d.lim * 2 ^ 20 + d.cap * 2 ^ 16 + d.req

/-- Cycles of the reference clock between two ageing checks (R224). -/
def ageingPeriod : Nat := 2 ^ 36

/-- A cluster after an ageing check (R224): drift in units of 0.01%; the cap follows it in steps of 5%, and a further step beyond P7
marks the cluster failed. A check at bring-up sets the cap afresh, and there a cluster that has been marked failed is gated. -/
def Cluster.check (drift now : Nat) (bringup : Bool) (c : Cluster) : Cluster :=
  let n := drift / 500
  let failed := decide (8 ≤ n) || (if bringup then c.gated else c.failed)
  { c with
    drift := min drift 0xFFFF
    cap := if bringup then min 7 n else max c.cap (min 7 n)
    failed := failed
    gated := c.gated || (bringup && failed)
    checked := now }

/-- AGEING_CHECK (R224): the check that every 2^36 reference cycles make due. -/
def execAgeingCheck (die clus drift : Nat) (s : State) : Host.Outcome State Fault Refusal :=
  match s.dies[die]?, s.cluster? die clus with
  | some d, some c =>
    let now := s.ioCycle / ageingPeriod
    if s.stage = 3 && !d.dead && decide (c.checked < now) then
      .next (s.updDie die fun d => { d with clusters := d.clusters.modify clus (Cluster.check drift now false) }.retarget)
    else .refused .notEnabled
  | _, _ => .refused .notEnabled

/-- A die's ageing check at bring-up (R224): what its monitors measure is free (log 85). -/
def Die.bringup (d : Die) (fresh now : Nat) : Die :=
  if d.dead then d
  else { d with clusters := d.clusters.zipIdx.map fun c => Cluster.check (Config.freeNat (fresh + c.2)) now true c.1 }

/-- The ageing check of bring-up stage 3 (Table 17.6, R224). -/
def State.bringupCheck (s : State) : State :=
  let now := s.ioCycle / ageingPeriod
  { s with
    dies := s.dies.zipIdx.map fun p => p.1.bringup (s.fresh + 4 * p.2) now
    fresh := s.fresh + 4 * s.dies.length }

/-- Reference cycles of 10 µs: a share holds for so long (R239). -/
def sharePeriod : Nat := 1000
/-- Reference cycles of 1 ms. -/
def raiseTime : Nat := 100000
/-- Reference cycles of 10 ms. -/
def lowerTime : Nat := 1000000
/-- Reference cycles after a write of PWRCAP from which a mean over 1 ms keeps the new ceiling: 20 µs, then the interval (R238). -/
def capTime : Nat := 2000 + raiseTime

/-- A ceiling of PWRCAP in units of 0.1 W. -/
def tenths (cap : Nat) : Nat := 50 * cap

/-- The writes of PWRCAP that still matter: those that no interval which ends now must keep yet, and the one in force for it. -/
def recentCaps (now : Nat) (h : List (Nat × Nat)) : List (Nat × Nat) :=
  (h.takeWhile fun x => decide (now < x.1 + capTime)) ++ (h.find? fun x => decide (x.1 + capTime ≤ now)).toList

/-- The ceiling that an interval of 1 ms which ends now keeps: that of the last write which was complete 20 µs before it began
(R238). -/
def State.ceiling (s : State) : Nat :=
  match (recentCaps s.ioCycle s.pwrHist).getLast? with
  | none => tenths s.pwrCap
  | some x => tenths x.2

/-- The share of each unparked die, in 0.1 W: the ceiling less the power measured outside the compute dies, divided equally
(R239). -/
def State.shareOf (s : State) (other : Nat) : Nat := (tenths s.pwrCap - other) / max 1 (s.dies.countP Die.unparked)

/-- A time that goes on while something lasts, and starts now when it begins. -/
def lasting (now : Nat) (on : Bool) (since : Option Nat) : Option Nat := if on then some (since.getD now) else none

/-- A die takes its share; `w` says that its limiter withholds slots, `l` that it draws less than 90% of the share. -/
def Die.take (share now : Nat) (w l : Bool) (d : Die) : Die :=
  { d with share := share, withheld := lasting now w d.withheld, light := lasting now l d.light }

/-- POWER_SHARE (R238, R239, Table 16.6): every 10 µs; the power measured over the last 1 ms keeps the ceiling, and the limiter of
a die that begins to withhold begins an episode. -/
def execPowerShare (meas : PowerMean) (on : PowerDies) (s : State) : Host.Outcome State Fault Refusal :=
  let runs := fun i => match s.dies[i]? with
    | none => false
    | some d => d.unparked
  let begins := fun i => match s.dies[i]? with
    | none => false
    | some d => d.withheld.isNone
  if decide (s.shareAt + sharePeriod ≤ s.ioCycle) && decide (meas.total ≤ s.ceiling) && on.withheld.all runs && on.light.all runs
      && decide on.withheld.Nodup then
    .next { s with
      pwrMeas := min meas.total 0xFFFF
      pwrEvents := min 0xFFFF (s.pwrEvents + on.withheld.countP begins)
      shareAt := s.ioCycle
      dies := s.dies.zipIdx.map fun p =>
        p.1.take (if p.1.unparked then s.shareOf meas.other else 0) s.ioCycle (on.withheld.contains p.2) (on.light.contains p.2) }
  else .refused .notEnabled

/-- Something has lasted for a time. -/
def lasted (now n : Nat) (since : Option Nat) : Bool :=
  match since with
  | none => false
  | some t => t + n ≤ now

/-- LIMITER_RAISE (R239): withholding has lasted 1 ms without a break; one state slower. The next raise takes another 1 ms. -/
def execLimiterRaise (die : Nat) (s : State) : Host.Outcome State Fault Refusal :=
  match s.dies[die]? with
  | none => .refused .notEnabled
  | some d =>
    if d.up && decide (d.lim < 7) && lasted s.ioCycle raiseTime d.withheld then
      .next (s.updDie die fun d => { d with lim := d.lim + 1, withheld := some s.ioCycle }.retarget)
    else .refused .notEnabled

/-- LIMITER_LOWER (R239): 10 ms below 90% of the share; one state faster, down to P0. The next one takes another 10 ms. -/
def execLimiterLower (die : Nat) (s : State) : Host.Outcome State Fault Refusal :=
  match s.dies[die]? with
  | none => .refused .notEnabled
  | some d =>
    if d.up && decide (0 < d.lim) && lasted s.ioCycle lowerTime d.light then
      .next (s.updDie die fun d => { d with lim := d.lim - 1, light := some s.ioCycle }.retarget)
    else .refused .notEnabled

/-- What the power controller and the limiters do of themselves: the share that is due, whose measurements are free within the
ceiling, and moves of LIM (R239). -/
def State.powerEvents (s : State) : List Instr :=
  let m := Config.powerMeas s.ioCycle
  let on := Config.limiterDies s.ioCycle
  let runs := fun l : List Nat => (List.range s.dies.length).filter fun i => l.contains i && (s.dies[i]?).any Die.unparked
  (if s.stage = 3 && decide (s.shareAt + sharePeriod ≤ s.ioCycle) then
    [.powerShare ⟨min m.1 s.ceiling, m.2⟩ ⟨runs on.1, runs on.2⟩] else [])
  ++ (List.range s.dies.length).flatMap fun d => [.limiterRaise d, .limiterLower d]

/-! ### Parking (R240-R242) -/

/-- A link enters a state now. -/
def Link.enter (st : Nat) (l : Link) : Link := { l with state := st, doze := false, since := l.refCycle, asked := none }

/-- Sets the state of every context's entry for a socket (R228). -/
def State.setEntries (s : State) (die : Nat) (from_ : Nat → Bool) (st : Nat) : State :=
  let one := fun v : VDie => if v.state != 0 && v.socket == die && from_ v.state then { v with state := st } else v
  { s with ctxs := s.ctxs.map fun c => { c with vdies := c.vdies.map one } }

/-- Table 16.1: parked. -/
def vdieParked : Nat := 2
/-- Table 16.1: dead. -/
def vdieDead : Nat := 3

/-- The spans off a die to which the reservation of colony `j` can move, other reservations standing where they stand (R240, R241). -/
def State.movesOff (s : State) (die j : Nat) : List Span :=
  match s.colonies[j]?, s.fieldOf j with
  | some c, some f =>
    match s.ctx? f.ctx with
    | none => []
    | some cx =>
      let clear := fun sp : Span => s.colonies.zipIdx.all fun q =>
        q.2 == j || q.1.field != c.field || !q.1.alive || (match q.1.resv with
          | none => true
          | some x => !x.meets sp)
      (s.spans cx f.desc.span).filter fun sp => sp.die != die && clear sp && fitsAll (s.moveHolds j c) ⟨f.desc, sp⟩
  | _, _ => []

/-- The colonies whose reservations a park of the die would move. -/
def State.reservedOn (s : State) (die : Nat) : List Nat :=
  (List.range s.colonies.length).filter fun j => match s.colonies[j]? with
    | none => false
    | some c => c.alive && (match c.resv with
      | none => false
      | some p => p.die == die)

/-- The reservations of some colonies moved off a die, by the first choice of spans under which all of them can be made; none when
there is no such choice (R241). -/
def moveAll (die : Nat) : List Nat → State → Option State
  | [], s => some s
  | j :: r, s => (s.movesOff die j).findSome? fun sp => moveAll die r (s.updColony j fun c => { c with resv := some sp })

/-- The state after a park has been admitted: the die is not the only unparked one, and the reservations have moved; none when it is
refused (R241). -/
def State.parkCheck (s : State) (die : Nat) : Option State :=
  if s.dies.zipIdx.any fun p => p.2 != die && p.1.unparked && !p.1.parking then moveAll die (s.reservedOn die) s else none

/-- The colonies that run on a die. -/
def State.runningOn (s : State) (die : Nat) : List Nat :=
  (List.range s.colonies.length).filter fun j => match s.colonies[j]? with
    | none => false
    | some c => c.status == .running && (match c.place with
      | none => false
      | some p => p.die == die)

/-- Step 1 of a park (R240): no further placement, the entries read parked, and issue stops in the die's colonies. -/
def State.startPark (s : State) (die : Nat) : State :=
  (s.runningOn die).foldl (State.stopColony · .park)
    ((s.updDie die fun d => { d with parking := true, busy := true }).setEntries die (· == vdiePresent) vdieParked)

/-- A park that has been asked for (R241): it starts, or is refused; then REQ reads its old value, PKST 2, and nothing else
changes. -/
def State.tryPark (s : State) (die old : Nat) : State :=
  match s.parkCheck die with
  | none => s.updDie die fun d => { d with req := old, pkst := 2 }.retarget
  | some s1 => (s1.updDie die fun d => { d with req := pk }).startPark die

/-- An unpark starts: the die powers up at P7 and its link wakes (R242). -/
def State.startUnpark (s : State) (die : Nat) : State :=
  { s.updDie die fun d => { d with cur := 7, pkst := 0, busy := false, waking := true } with
    links := s.links.modify die (Link.enter lkWaking) }

/-- Voltages of P0-P7 in mV (Table 16.4). -/
def milliVolts : List Nat := [860, 820, 780, 740, 690, 640, 580, 520]

/-- Reference cycles in which the voltage slews between two states, at 10 mV/µs (R237). -/
def slewTime (a b : Nat) : Nat :=
  let v := fun p => milliVolts.getD p 0
  10 * (max (v a) (v b) - min (v a) (v b))

/-- Reference cycles of a relock: 5 µs (R237). -/
def relockTime : Nat := 500

/-- The PLL relocks, and the die's clock is stopped (Table 16.5): at the start of a transition to a slower state, at the end of one to a
faster. -/
def Die.relocking (d : Die) : Bool :=
  match d.trans with
  | none => false
  | some t => if d.cur < t then decide (d.elapsed < relockTime) else decide (slewTime d.cur t ≤ d.elapsed)

/-- The transition has taken the time of its two phases (R237). -/
def Die.arrived (d : Die) (t : Nat) : Bool := decide (slewTime d.cur t + relockTime ≤ d.elapsed)

/-- PSTATE_TRANSITION_COMPLETE (R237, R244): CUR changes; the newest REQ then applies. -/
def execPstateTransitionComplete (die : Nat) (s : State) : Host.Outcome State Fault Refusal :=
  match s.dies[die]? with
  | none => .refused .notEnabled
  | some d =>
    match d.trans with
    | none => .refused .notEnabled
    | some t =>
      if d.arrived t then
        let s1 := s.updDie die fun d => { d with cur := t, trans := none, elapsed := 0, busy := false }.retarget
        .next (if d.req = pk then s1.tryPark die d.oldReq else s1)
      else .refused .notEnabled

/-- The cores of a die. -/
def coresOfDie (die : Nat) : List (Nat × Nat × Nat) :=
  (List.range 4).flatMap fun c => (List.range 12).map fun k => (die, c, k)

/-- Every line of a die's L1s is written back and dropped, update-only copies with them (R240 step 3). -/
def State.emptyDie (s : State) (die : Nat) : State :=
  let s0 := (coresOfDie die).foldl (fun s k => (s.core k).l1.foldl (fun s l => s.evictLine k l) s) s
  let s1 := (coresOfDie die).foldl (fun s k => s.updCore k fun c => { c with icache := [] }) s0
  (s1.upd.filter fun u => u.core.1 == die).foldl (fun s u => State.combine u.pa 4 s.upd.length s) s1

/-- The homes forget a die as a sharer (R234, R240). -/
def State.forgetDie (s : State) (die : Nat) : State :=
  let drop := fun es : List DirEntry => (es.map (DirEntry.dropDie die)).filter DirEntry.covers
  { s with ports := s.ports.map (fun p => { p with dir := drop p.dir }), ioDir := drop s.ioDir }

/-- No home holds the write-back of a line of the die's L1s (R111, R112). -/
def State.dieFree (s : State) (die : Nat) : Bool := (coresOfDie die).all fun k => (s.core k).l1.all s.lineFree

/-- PARK_COMPLETE (R240, R244): steps 2 to 5, once the die's colonies have drained. -/
def execParkComplete (die : Nat) (s : State) : Host.Outcome State Fault Refusal :=
  match s.dies[die]? with
  | none => .refused .notEnabled
  | some d =>
    let js := s.runningOn die
    if d.parking && js.all s.mayPreempt && s.dieFree die then
      let s1 := ((js.foldl State.preempt s).emptyDie die).forgetDie die
      let s2 := { s1.updDie die fun d => { d with parking := false, busy := false, cur := pk, pkst := 1, withheld := none, light := none } with
        links := s1.links.modify die (Link.enter lkOff) }
      .next (settle (if d.req < pk then s2.startUnpark die else s2))
    else .refused .notEnabled

/-! ### Links (R231-R233, R242) -/

/-- Changes the link port of a socket. -/
def State.updLink (s : State) (sock : Nat) (f : Link → Link) : State :=
  if sock = ioSock then { s with ioLink := f s.ioLink } else { s with links := s.links.modify sock f }

/-- T_wake in reference cycles (R232). -/
def wakeTime : Nat := 4000
/-- T_dead in reference cycles (R233). -/
def deadTime : Nat := 500000

/-- The address space of an aperture or a peer window: ASID 0 for handle 0; none for a handle with no context. -/
def State.spaceOf (s : State) (h : Nat) : Option Nat := if h = 0 then some 0 else (s.ctx? h).map Ctx.asid

/-- The valid peer table entry a frame names. -/
def State.peerOf? (s : State) (x : Nat) : Option Peer := (s.peers.find? fun q => q.1 == x).map Prod.snd

/-- The frame comes from where the entry says (R258). -/
def Peer.sent (e : Peer) (p : Pkt) : Bool :=
  e.port == p.port && e.udp == p.udp && e.v6 == p.v6
  && (if e.v6 then e.addrHi == p.srcHi && e.addrLo == p.srcLo else e.addrHi % 2 ^ 32 == p.srcHi % 2 ^ 32)

/-- The entry of a frame's sender; none when no valid entry matches it. -/
def State.sender (s : State) (p : Pkt) : Option Peer :=
  match s.peerOf? p.peer with
  | none => none
  | some e => if e.sent p then some e else none

/-- Where a request to the exported window goes (R258): ASID and VA; none when it is not served. -/
def State.windowOf (s : State) (p : Pkt) (write : Bool) : Option (Nat × Nat) :=
  match s.sender p with
  | none => none
  | some e =>
    if decide (p.addr + p.len ≤ e.wlen) && (!write || e.ww) then
      (s.spaceOf e.wctx).map fun a => (a, (e.wbase + p.addr) % 2 ^ 52)
    else none

/-- A request on its way to memory: address space, address, and whether it writes. -/
structure Request where
  asid : Nat
  va : Nat
  write : Bool
deriving DecidableEq, Repr

/-- Requests of swarms: accesses in flight that their order lets perform, and fetches that miss. -/
def State.swarmRequests (s : State) (i : Nat) (w : Swarm) : List Request :=
  ((w.ops.filter fun o => s.mayPerform i o).flatMap fun o => o.body.span.map fun x => ⟨s.asidOf i, x.1, o.body.writes⟩)
  ++ (match envOf s i with
    | none => []
    | some e =>
      if e.w.wait.isSome || ((s.core e.core).iline? e.ctx.asid e.w.pc.toNat).isSome then []
      else [⟨e.ctx.asid, e.w.pc.toNat, false⟩])

/-- Requests of a running collective. -/
def State.collRequests (s : State) (x : Coll) : List Request :=
  let r := copyRec x.rec_.toNat
  if x.state != .running then []
  else x.slices.flatMap fun sl => ((copyMoves r (copyArgs sl.args)).filterMap Prod.fst).map fun va => ⟨s.colAsid x.colony, va, r.toGlobal⟩

/-- Requests of the fabric: the sources of reductions, and arrived frames that wait. -/
def State.fabricRequests (s : State) : List Request :=
  ((s.reducs.filter fun r => r.role == 1 && !r.sent).flatMap fun r =>
    (lineStarts r.va (r.count * atomBytes r.wide)).map fun va => ⟨r.asid, va, false⟩)
  ++ s.rx.flatMap fun p => match s.windowOf p true with
    | none => []
    | some (asid, va) => (lineStarts va (max 1 p.len)).map fun va => ⟨asid, va, true⟩

/-- Every request on its way to memory: of swarms, engines, firmware and the fabric. -/
def State.requests (s : State) : List Request :=
  s.swarms.zipIdx.flatMap (fun p => s.swarmRequests p.2 p.1) ++ s.colls.flatMap s.collRequests
  ++ s.fwHeld.map (fun h => ⟨h.asid, h.va, true⟩) ++ s.fabricRequests

/-- A request has come as far as the link of a socket: to its home, from there to the I/O die for the system region, and at last to the
dies that the home snoops; a request that its home holds for another reason has been answered. -/
def State.goesBy (s : State) (sock : Nat) (r : Request) : Bool :=
  let home := s.homeSock r.va
  let sys := s.toSystem r.asid r.va
  if r.asid != 0 && sock == home then true
  else (r.asid == 0 || !s.linkHeld home)
    && ((sys && sock == ioSock)
      || (!(sys && s.linkHeld ioSock) && (s.snooped r.asid r.va r.write).contains sock
        && !((s.heldMap r.asid r.va).isNone && s.bounced r.asid r.va)))

/-- A request is addressed through the link of a socket (R231). -/
def State.asks (s : State) (sock : Nat) : Bool := s.requests.any (s.goesBy sock)

/-- The dead timer of a link (R233): how long its oldest unanswered request has been waiting; none when it has no request. -/
def State.deadTimer (s : State) (sock : Nat) : Option Nat :=
  match s.link? sock with
  | none => none
  | some l => match l.asked with
    | some t => some (l.refCycle - t)
    | none => if s.asks sock then some 0 else none

/-- A link one reference cycle on: while it is SILENT, its dead timer measures what is unanswered (R233). -/
def State.tickLink (s : State) (sock : Nat) (l : Link) : Link :=
  { l with
    refCycle := l.refCycle + 1
    asked := if l.state = lkSilent then lasting l.refCycle (s.asks sock) l.asked else none }

/-- A dozing link that a request wakes (Table 16.6). -/
def State.wakeLink (s : State) (sock : Nat) : State :=
  s.updLink sock fun l => if l.doze then { l with state := lkWaking, doze := false, since := l.refCycle } else l

/-- Sockets on the way of an access from outside whose links doze. -/
def State.dozing (s : State) (asid va n : Nat) (write : Bool) : List Nat :=
  ((lineStarts va n).flatMap fun a => s.addressed asid a write).filter fun k => (s.link? k).any Link.doze

/-- Entries of the link log (R233). -/
def linkLogMax : Nat := 256

/-- Writes a link log entry, stamped by the socket's router (R232, R233). -/
def State.logLink (s : State) (sock kind : Nat) : State :=
  let cyc := match s.link? sock with
    | none => 0
    | some l => l.refCycle
  if s.linkLog.length < linkLogMax then { s with linkLog := s.linkLog ++ [⟨sock, kind, cyc⟩] }
  else { s with linkLog := s.linkLog.tail ++ [⟨sock, kind, cyc⟩], linkLogOver := s.linkLogOver + 1 }

/-- The link of a die that an unpark has powered up is ACTIVE (R242): its entries read present, and it moves to its target, or parks
when that has been asked for meanwhile. -/
def State.dieAwake (s : State) (die : Nat) : State :=
  match s.dies[die]? with
  | none => s
  | some d =>
    if d.waking then
      let s1 := (s.setEntries die (· == vdieParked) vdiePresent).updDie die fun d => { d with waking := false }.retarget
      if d.req = pk then s1.tryPark die d.oldReq else s1
    else s

/-- LINK_TRAINED (R232, R242): training may end at any time within T_wake. -/
def execLinkTrained (sock : Nat) (s : State) : Host.Outcome State Fault Refusal :=
  match s.link? sock with
  | none => .refused .notEnabled
  | some l =>
    if l.state = lkWaking && decide (l.refCycle ≤ l.since + wakeTime) then .next ((s.updLink sock (Link.enter lkActive)).dieAwake sock)
    else .refused .notEnabled

/-- LINK_WAKE_TIMEOUT (R232): a link that is still WAKING after T_wake enters SILENT; WAKETO, and a log entry of kind 1. -/
def execLinkWakeTimeout (sock : Nat) (s : State) : Host.Outcome State Fault Refusal :=
  match s.link? sock with
  | none => .refused .notEnabled
  | some l =>
    if l.state = lkWaking && decide (l.since + wakeTime ≤ l.refCycle) then
      .next ((s.updLink sock fun l => { l.enter lkSilent with waketo := min 0xFFFF (l.waketo + 1) }).logLink sock 1)
    else .refused .notEnabled

/-- LINK_RESPONSE (R233): a response arrives on a SILENT link, which is ACTIVE again. -/
def execLinkResponse (sock : Nat) (s : State) : Host.Outcome State Fault Refusal :=
  match s.link? sock with
  | none => .refused .notEnabled
  | some l =>
    if l.state = lkSilent then .next ((s.updLink sock fun l => { l with state := lkActive, asked := none }).dieAwake sock)
    else .refused .notEnabled

/-- LINK_DOZE (R243, Table 16.6): an ACTIVE link without a request in flight dozes; the next request, of a program or from outside,
makes a dozing link WAKING. -/
def execLinkDoze (sock : Nat) (s : State) : Host.Outcome State Fault Refusal :=
  match s.link? sock with
  | none => .refused .notEnabled
  | some l =>
    if l.state != lkActive then .refused .notEnabled
    else if l.doze then .next (s.wakeLink sock)
    else if !s.asks sock then .next (s.updLink sock fun l => { l with doze := true })
    else .refused .notEnabled

/-! ### Reset and bring-up (R267, R268) -/

/-- A cluster as a reset leaves it: one that has been marked failed is held out by the bring-up that follows (R224). -/
def Cluster.afterReset (c : Cluster) : Cluster := { Cluster.reset with gated := c.failed || c.gated }

/-- DEVICE_RESET (R267): every register at its reset value, stage 0; memory keeps what it holds. -/
def execDeviceReset (s : State) : Host.Outcome State Fault Refusal :=
  .next { State.reset with
    mem := s.mem
    poison := s.poison
    fresh := s.fresh
    inbox := s.inbox
    out := s.out
    dies := s.dies.map fun d => { Die.reset with clusters := d.clusters.map Cluster.afterReset } }

/-- A live stack that backs no other port yet (R102). -/
def freeStack (dead : Nat) (m : List (Bool × Nat)) (q : Nat) : Bool :=
  !dead.testBit q && m.zipIdx.all fun p => p.2 == q || p.1.2 != q

/-- One dead stack chooses its backing stack (R102). -/
def chooseBack (dead : Nat) (m : List (Bool × Nat)) (p : Nat) : List (Bool × Nat) :=
  if dead.testBit p then
    m.set p (true, (((List.range 8).tail.map (Nat.xor p)).find? (freeStack dead m)).getD p)
  else m

/-- STACKMAP for the dead stacks (R102, Table 6.9). -/
def stackMapOf (dead : Nat) : List (Bool × Nat) :=
  (List.range 8).foldl (chooseBack dead) ((List.range 8).map fun p => (false, p))

/-- Pair 0 in the queue SRAM (R247, R248). -/
def adminQueue : Queue where
  qid := 0
  n := 8
  sq := 0xFC0000000
  cq := 0xFC0004000
  owner := 0
  space := 0
  tail := 0
  head := 0
  chead := 0
  cidx := 0
  phase := true
  pend := []
  nextSlot := 0
  deleting := none

/-- Bits set in a mask of `n`. -/
def bitCount (n m : Nat) : Nat := (List.range n).countP m.testBit

/-- Stage 2 cannot be left: a memory port failed, or more than four stacks are dead (R268). -/
def stuckAt2 (stk port : Nat) : Bool := port % 2 ^ 8 != 0 || decide (4 < bitCount 8 stk)

/-- A link brought up; one that has died stays so until the next bring-up (R233). -/
def Link.active (l : Link) : Link := if l.state = lkOff then l.enter lkActive else l

/-- The completion ring of pair 0 is zeroed as the pair is created (R248, R250). -/
def zeroAdminRing (m : List Host.Cell) : List Host.Cell :=
  m.filter fun c => c.1 < sramBase + 0x4000 || sramBase + 0x8000 ≤ c.1

/-- BRINGUP_STAGE_COMPLETE (R267, R268): the stacks, dies and ports that failed. At stage 0 a nonzero argument is a failed
self-test: STAGE 7. -/
def execBringupStageComplete (stk die port : Nat) (s : State) : Host.Outcome State Fault Refusal :=
  if s.stage = 0 then
    if stk != 0 || die != 0 || port != 0 then .next { s with stage := 7 }
    else .next { s with
      stage := 1
      queues := [adminQueue]
      mem := zeroAdminRing s.mem
      ioLink := s.ioLink.active
      links := s.links.modify 0 Link.active }
  else if s.stage = 1 then .next { s with stage := 2 }
  else if s.stage = 2 && s.portDead = 0 && !stuckAt2 s.stkDead.toNat 0 then
    let s1 := { s with
      stkDead := BitVec.ofNat 32 (stk % 2 ^ 8)
      portDead := BitVec.ofNat 32 (port % 2 ^ 8)
      stackMap := stackMapOf (stk % 2 ^ 8) }
    if stuckAt2 stk port then .next s1
    else
      let s2 := State.bringupCheck { s1 with
        stage := 3
        dieDead := BitVec.ofNat 32 (die % 2 ^ 4)
        dies := s.dies.zipIdx.map fun p => if die.testBit p.2 then { p.1 with dead := true } else p.1
        links := s.links.zipIdx.map fun p => if p.2 < 4 && die.testBit p.2 then p.1.enter lkDead else p.1.active }
      .next { s2 with dies := s2.dies.map Die.retarget }
  else .refused .notEnabled

/-- The three masks, on their low three bits, form an invertible matrix over GF(2) (R100): no nonempty set of rows sums
to zero. -/
def hashOk (m : List W64) : Bool :=
  let row := fun k => (m.getD k 0).toNat % 8
  [row 0, row 1, row 2, Nat.xor (row 0) (row 1), Nat.xor (row 0) (row 2), Nat.xor (row 1) (row 2),
    Nat.xor (row 0) (Nat.xor (row 1) (row 2))].all (· != 0)

/-- REGISTER_WRITE (R7): HOMEHASH by the root monitor (R100), CECOUNT by firmware (Table 16.7); a read-only register keeps
its value. -/
def execRegisterWrite (r : RegId) (v : W64) (s : State) : Host.Outcome State Fault Refusal :=
  match r with
  | .homehash b =>
    let m := s.homeHash.set b.val (BitVec.ofNat 64 (v.toNat % 2 ^ 36))
    -- not changed while a context exists (R99)
    .next (if hashOk m && s.ctxs.all (fun c => !c.live) then { s with homeHash := m } else s)
  | .cecount die => .next (s.updDie die fun d => { d with ce := v.setWidth 32 })
  | .readOnly => .next s

end Sys2Proof.Machine
end

