-- ==== Sys2Proof/Machine/HostCmd.lean ====
section
/-! DEFINITION. The host's side: doorbells and BAR2 (R245-R247), commands as firmware consumes, checks and completes them
(R249-R252, R255, R268), and every command of Table 17.3 but those of the fabric engines. -/

namespace Sys2Proof.Machine

/-! ### Commands (Table 17.2) -/

/-- The command of an entry's eight words. -/
def cmdOf (src : CmdSrc) (ws : List Nat) : Cmd where
  src := src
  opc := wfld ws 0 56 8
  sub := wfld ws 0 48 8
  ctx := wfld ws 0 32 16
  tag := wfld ws 0 0 32
  sigva := ws.getD 1 0
  sigval := ws.getD 2 0
  scope := wfld ws 3 0 3
  resv := wfld ws 3 3 61
  w4 := ws.getD 4 0
  w5 := ws.getD 5 0
  w6 := ws.getD 6 0
  w7 := ws.getD 7 0

/-- The words of a command. -/
def cmdWords (m : Cmd) : List Nat :=
  [m.opc * 2 ^ 56 + m.sub * 2 ^ 48 + m.ctx * 2 ^ 32 + m.tag, m.sigva, m.sigval, m.resv * 2 ^ 3 + m.scope, m.w4, m.w5, m.w6,
    m.w7]

/-- The command at the head of a pair's submission ring; none when it is empty or cannot be read. -/
def State.headCmd (s : State) (qid : Nat) : Option Cmd := do
  let q ← s.queue? qid
  if q.head = q.tail then none
  else
    let bs ← s.peek (s.asidOfCtx q.space) (q.sq + 64 * q.head) 64
    return cmdOf (.queue qid) ((List.range 8).map fun k => leNat ((bs.drop (8 * k)).take 8))

/-- Firmware may consume an entry of the pair: its completion ring has room, and it is not being deleted (R250). -/
def Queue.open? (q : Queue) : Bool := (q.cidx + 1) % 2 ^ q.n != q.chead && q.deleting.isNone

/-- The command stands where firmware takes it from next: at its pair's head, or at the management port, held there or arriving. -/
def State.submitted (s : State) (m : Cmd) : Bool :=
  match m.src with
  | .queue qid => (match s.queue? qid with
      | none => false
      | some q => q.open?) && s.headCmd qid == some m
  | .mgmt => m == cmdOf .mgmt ((cmdWords m).map (· % 2 ^ 64))

/-- A command of the management port that others, or this one itself, hold back behind what the port holds (R268). -/
def State.behind (s : State) (m : Cmd) : Bool := m.src == .mgmt && !s.mgmtQ.isEmpty && s.mgmtQ.head? != some m

/-- A command that is not carried out now stays where it is: at its pair's head, or held by the management port. -/
def State.holdCmd (s : State) (m : Cmd) : State :=
  if m.src == .mgmt && s.mgmtQ.head? != some m then { s with mgmtQ := s.mgmtQ ++ [m] } else s

/-- Who waits for the command's completion. -/
def State.refOf (s : State) (m : Cmd) : CmdRef where
  src := m.src
  slot := match m.src with
    | .mgmt => 0
    | .queue qid => match s.queue? qid with
      | none => 0
      | some q => q.nextSlot
  tag := m.tag
  sigva := m.sigva
  sigval := m.sigval
  scope := m.scope
  ctx := m.ctx

/-- Consumes the entry: HEAD advances, and a completion entry is owed (R247, R250). -/
def State.consumeCmd (s : State) (m : Cmd) : State :=
  match m.src with
  | .mgmt => if s.mgmtQ.head? = some m then { s with mgmtQ := s.mgmtQ.tail } else s
  | .queue qid => s.updQueue qid fun q =>
    let h := (q.head + 1) % 2 ^ q.n
    { q with head := h, pend := q.pend ++ [⟨m.tag, h, none, q.nextSlot⟩], nextSlot := q.nextSlot + 1 }

/-- What a command's effect answers. -/
inductive CmdOut
  /-- It completes now. -/
  | done (s : State) (status : Nat) (r0 r1 : W64)
  /-- It completes later. -/
  | later (s : State)
deriving DecidableEq, Repr

/-- Status values of R249. -/
def badCmd : Nat := 1
/-- DENIED. -/
def denied : Nat := 2
/-- BADARG. -/
def badArg : Nat := 3
/-- BUSY. -/
def busySt : Nat := 4
/-- FAILED. -/
def failedSt : Nat := 5

/-- How firmware handles a kind of command: who executes it, whether reduced service serves it (R268), its checks of unnamed
fields and of ranges, and its effect. -/
structure Spec where
  opc : Nat
  sub : Nat
  root : Bool
  reduced : Bool
  /-- Every field not named in Table 17.9 is zero. -/
  named : Bool
  /-- Every named value is in its range. -/
  inRange : State → Bool
  /-- The record is held where it is (R191): the state meanwhile. -/
  hold : State → Option State
  effect : CmdRef → State → CmdOut

/-- Root commands come from pair 0 or the management port only (R251). -/
def rootSource (src : CmdSrc) : Bool :=
  match src with
  | .queue q => q == 0
  | .mgmt => true

/-- Firmware serves the command in this stage (R268). -/
def State.serves (s : State) (reduced : Bool) : Bool := s.stage = 3 || (reduced && (s.stage = 1 || s.stage = 2))

/-- Completes a consumed command. -/
def CmdOut.finish (r : CmdRef) : CmdOut → State
  | .done s st r0 r1 => settle (s.complete r st r0 r1)
  | .later s => settle s

/-- Firmware takes commands (Tables 17.6, 17.7): from stage 1 on. -/
def State.listens (s : State) : Bool := s.stage = 1 || s.stage = 2 || s.stage = 3

/-- One command (R249, R268): one that is not served in this stage, or stands behind another at the management port, is held; else its
checks in their order, then its effect and its completion. -/
def runCmd (m : Cmd) (c : Spec) (s : State) : Host.Outcome State Fault Refusal :=
  if m.opc != c.opc || m.sub != c.sub || !s.listens || !s.submitted m then .refused .notEnabled
  else if !s.serves c.reduced || s.behind m then .next (s.holdCmd m)
  else
    let r := s.refOf m
    let s1 := s.consumeCmd m
    let stop := fun st => Host.Outcome.next ((CmdOut.done s1 st 0 0).finish r)
    if c.root && !rootSource m.src then stop denied
    else if m.resv != 0 || !c.named then stop badCmd
    else if m.scope < 3 || 5 < m.scope || !c.inRange s then stop badArg
    else match c.hold s with
      | some s2 => .next (s2.holdCmd m)
      | none => .next ((c.effect r s1).finish r)

/-- A command that is never held. -/
def noHold : State → Option State := fun _ => none

/-- The context a command names, live and without a fault (R215). -/
def State.goodCtx (s : State) (h : Nat) : Option Ctx :=
  match s.ctx? h with
  | none => none
  | some c => if c.fault.isNone then some c else none

/-- CTX names such a context. -/
def ctxOk (m : Cmd) (s : State) : Bool := (s.goodCtx m.ctx).isSome

/-- CTX names such a context, or firmware's space. -/
def spaceOk (m : Cmd) (s : State) : Bool := m.ctx == 0 || ctxOk m s

/-- An address below 2^52 with an alignment. -/
def vaOk (va align : Nat) : Bool := decide (va < 2 ^ 52) && va % align == 0

/-- The bits of a word from `lo` up are zero. -/
def zeroFrom (w lo : Nat) : Bool := w / 2 ^ lo == 0

/-- Success with result words. -/
def okWith (s : State) (r0 r1 : Nat) : CmdOut := .done s 0 (BitVec.ofNat 64 r0) (BitVec.ofNat 64 r1)

/-- The opcodes and subcommands of Table 17.3. -/
def knownCmds : List (Nat × Nat) :=
  [(1, 0), (1, 1), (2, 0), (3, 0), (4, 0), (5, 0), (6, 0), (7, 0), (8, 0), (9, 0), (0xA, 0), (0xB, 0), (0xB, 1), (0xC, 0),
    (0xC, 1), (0xD, 0), (0xE, 0), (0xF, 0), (0x10, 0), (0x11, 0), (0x12, 0), (0x13, 0), (0x14, 0), (0x15, 0), (0x16, 0)]

/-- UNKNOWN_COMMAND (R249, R251): held, like every command but the six of R268, until full service. -/
def execUnknownCommand (m : Cmd) (s : State) : Host.Outcome State Fault Refusal :=
  if knownCmds.contains (m.opc, m.sub) || !s.listens || !s.submitted m then .refused .notEnabled
  else if !s.serves false || s.behind m then .next (s.holdCmd m)
  else .next ((CmdOut.done (s.consumeCmd m) badCmd 0 0).finish (s.refOf m))

/-! ### Reads by firmware -/

/-- Reads bytes for firmware; none where a page is not readable or an error is uncorrectable, for which no colony is to blame: the
command fails (DESIGN CHOICE, log 82). -/
def State.fwRead (s : State) (asid va n : Nat) : State × Option (List Byte) :=
  match s.readRange asid va n with
  | (s1, .ok bs) => (s1, some bs)
  | (s1, _) => (s1, none)

/-- A range of bytes page by page: (VA, length). -/
def pagesOf : Nat → Nat → Nat → List (Nat × Nat)
  | 0, _, _ => []
  | fuel + 1, va, n =>
    if n = 0 then []
    else (va, min n (pageLeft va)) :: pagesOf fuel (va + min n (pageLeft va)) (n - min n (pageLeft va))

/-- The pages of a range. -/
def pageRanges (va n : Nat) : List (Nat × Nat) := pagesOf (n / 2 ^ 16 + 2) va n

/-- A home holds a part of an access: a page has undrained entries, a link on the way does not serve it, or there is no room for the
entries of a write (R111, R112, R231). -/
def State.rangeHeld (s : State) (asid va n : Nat) (write : Bool) : Bool :=
  if write then !s.sendsOk asid [sendsOf (lineStarts va n)] else (lineStarts va n).any fun a => s.blocked asid a false

/-- A command waits while a home holds what it reads (R112). -/
def holdRead (h va n : Nat) : State → Option State := fun s =>
  if s.rangeHeld (s.asidOfCtx h) va n false then some s else none

/-- Reads 64-bit words for firmware. -/
def State.fwWords (s : State) (asid va n : Nat) : State × Option (List Nat) :=
  match s.fwRead asid va (8 * n) with
  | (s1, none) => (s1, none)
  | (s1, some bs) => (s1, some ((List.range n).map fun k => leNat ((bs.drop (8 * k)).take 8)))

/-- Writes bytes of one page whatever its W bit: the loader's pages are read-only (R281). -/
def State.patchPage (s : State) (asid va : Nat) (bs : List Byte) : Option State :=
  match s.translate asid va false with
  | (s1, .ok m) => some ((State.combine (m.paOf va) bs.length s1.upd.length s1).putMem (m.paOf va) bs)
  | _ => none

/-- Writes a word so, which may lie across two pages. -/
def State.fwPatch (s : State) (asid va : Nat) (v : Nat) : Option State :=
  let bs := leBytes 8 v
  let k := min 8 (pageLeft va)
  (s.patchPage asid va (bs.take k)).bind fun s1 => if k = 8 then some s1 else s1.patchPage asid (va + k) (bs.drop k)

/-! ### Doorbells and BAR2 -/

/-- DOORBELL_WRITE (R247, Table 17.1): the PCI Express link is up from stage 1. -/
def execDoorbellWrite (qid : Nat) (v : W64) (s : State) : Host.Outcome State Fault Refusal :=
  if 1 ≤ s.stage && qid < 1024 then .next (s.ring qid v) else .refused .notEnabled

/-- A coherent read from outside (R246): the state, and the bytes or the cause of a fault. -/
def State.outerRead (s : State) (asid va n : Nat) : State × Except Nat (List Byte) :=
  match s.translate asid va false with
  | (s1, .nonres) => (s1, .ok (List.replicate n 0))
  | (s1, .ok m) =>
    let s2 := State.combine (m.paOf va) n s1.upd.length s1
    (s2.dirLines m va n true, .ok (s2.physRead (m.paOf va) n))
  | (s1, _) => (s1, .error 2)

/-- A coherent write from outside (R246): the state, or the cause of a fault. -/
def State.outerWrite (s : State) (asid va : Nat) (bs : List Byte) : State × Option Nat :=
  match s.translate asid va true with
  | (s1, .nonres) => (s1.bounceBytes asid va bs Who.none, none)
  | (s1, .ok m) =>
    if !m.w then (s1, some 0)
    else (s1.landBytes m asid (s1.handleOf asid) nobody va Who.none bs, none)
  | (s1, _) => (s1, some 2)

/-- Apertures of BAR2. -/
def apertureOf (v : W64) : Bool × Bool × Nat × Nat :=
  (v.getLsbD 0, v.getLsbD 1, fld v.toNat 2 16, fld v.toNat 30 22 * 2 ^ 30)

/-- STACKMAP as the host reads it (Table 6.9). -/
def State.stackWord (s : State) : Nat := (s.stackMap.zipIdx.map fun p => (p.1.1.toNat * 8 + p.1.2 % 8) * 2 ^ (4 * p.2)).sum

/-- A byte of BAR0 (R245): BOOTSTAT, STACKMAP, and the doorbells from 0x1000. -/
def State.bar0Byte (s : State) (o : Nat) : Byte :=
  if 8 ≤ o && o < 16 then BitVec.ofNat 8 (s.stackWord / 2 ^ (8 * (o - 8))) else s.selfByte o

/-- LINKSTAT (Table 16.6). -/
def Link.stat (l : Link) : Nat := l.waketo * 2 ^ 16 + l.doze.toNat * 8 + l.state

/-- AGESTAT (Table 14.9). -/
def Cluster.stat (c : Cluster) : Nat := c.drift * 2 ^ 8 + c.failed.toNat * 8 + c.cap

/-- What the management port reads of a register (R265, Tables 14.9, 16.6, 16.7, R223). -/
def State.statReg (s : State) : StatReg → Nat
  | .pwrstat => s.pwrEvents * 2 ^ 16 + s.pwrMeas
  | .pstate d => ((s.dies[d]?).map Die.pstate).getD 0
  | .linkstat k => ((s.link? k).map Link.stat).getD 0
  | .agestat d c => ((s.cluster? d c).map Cluster.stat).getD 0
  | .cecount d => ((s.dies[d]?).map fun x => x.ce.toNat).getD 0
  | .replay k => (s.core (coreKey k)).replay.toNat

/-- First byte of the host window (R245). -/
def hostWindow : Nat := 3 * 2 ^ 44

/-- A dropped host access (R246): a read answers all ones; the drop is logged with KIND 0 or 1 under the tag of its page. -/
def State.dropBar2 (s : State) (va tag cause : Nat) (w : Option (List Byte)) (n : Nat) : State :=
  match w with
  | none => { s.logIo va tag 0 cause Who.none with out := s.out ++ [.bar2 (List.replicate n 0xFF)] }
  | some _ => s.logIo va tag 1 cause Who.none

/-- A BAR2 access inside a valid aperture: a read of `n` bytes, or a write. -/
def State.bar2At (s : State) (asid va : Nat) (w : Option (List Byte)) (n : Nat) : State :=
  match w with
  | none =>
    match s.outerRead asid va n with
    | (s1, .ok bs) => { s1 with out := s1.out ++ [.bar2 bs] }
    | (s1, .error c) => s1.dropBar2 va (s1.tagOf asid va) c w n
  | some bs =>
    match s.outerWrite asid va bs with
    | (s1, none) => s1
    | (s1, some c) => s1.dropBar2 va (s1.tagOf asid va) c w n

/-- A transaction of BAR2 (R246), within 4 KiB: a read of `n` bytes, or a write. One that finds a link on its way dozing wakes it and is
made again (DESIGN CHOICE, log 103). -/
def bar2Run (off n : Nat) (w : Option (List Byte)) (s : State) : Host.Outcome State Fault Refusal :=
  if n = 0 || off / 4096 != (off + n - 1) / 4096 || 2 ^ 36 ≤ off then .refused .notEnabled
  else
    let (v, wr, h, base) := apertureOf (s.apertures.getD (off / 2 ^ 30) 0)
    let va := base + off % 2 ^ 30
    match s.spaceOf h with
    | none => .next (s.dropBar2 va 0 2 w n)
    | some asid =>
      if !v then .next (s.dropBar2 va (s.tagOf asid va) 2 w n)
      else if w.isSome && !wr then .next (s.dropBar2 va (s.tagOf asid va) 0 w n)
      else if !(s.dozing asid va n w.isSome).isEmpty then .next ((s.dozing asid va n w.isSome).foldl State.wakeLink s)
      else if s.rangeHeld asid va n w.isSome then .refused .notEnabled
      else .next (settle (s.bar2At asid va w n))

/-- BAR2_ACCESS (R245, R246, R265): a transaction of the host through BAR2, a read of BAR0, the host's own write to the memory
behind the host window, or a read by the management port. The links are up from stage 1. -/
def execBar2Access (off : Nat) (acc : Bar2) (s : State) : Host.Outcome State Fault Refusal :=
  if s.stage = 0 then .refused .notEnabled
  else match acc with
    | .read n => bar2Run off n none s
    | .write bs => bar2Run off bs.length (some bs) s
    | .bar0 n =>
      if n = 0 || 0x10000 < off + n then .refused .notEnabled
      else .next { s with out := s.out ++ [.bar2 ((List.range n).map fun k => s.bar0Byte (off + k))] }
    | .hostWrite bs =>
      if 2 ^ 43 < off + bs.length then .refused .notEnabled else .next (settle (s.putMem (hostWindow + off) bs))
    | .mgmt r => .next { s with out := s.out ++ [.stat (BitVec.ofNat 64 (s.statReg r))] }

/-! ### Queue pairs -/

/-- The queue SRAM's addresses in ASID 0 (R248). -/
def inSram (va n : Nat) : Bool := decide (0xFC0000000 ≤ va) && decide (va + n ≤ 0xFC0100000)

/-- QCREATE (R247, Table 17.9). -/
def execQcreate (m : Cmd) (s : State) : Host.Outcome State Fault Refusal :=
  let qid := fld m.w4 0 16
  let n := fld m.w4 16 5
  let size := 64 * 2 ^ n
  let owner := fld m.w7 0 16
  runCmd m {
    opc := 1, sub := 0, root := false, reduced := true
    named := zeroFrom m.w4 21 && zeroFrom m.w7 16
    inRange := fun s => 1 ≤ qid && qid ≤ 1023 && 4 ≤ n && n ≤ 16 && vaOk m.w5 size && vaOk m.w6 size && spaceOk m s
      && (owner == 0 || (s.goodCtx owner).isSome) && (s.queue? qid).isNone
      && (m.ctx != 0 || (inSram m.w5 size && inSram m.w6 size))
    hold := noHold
    effect := fun _ s =>
      let q : Queue := ⟨qid, n, m.w5, m.w6, owner, m.ctx, 0, 0, 0, 0, true, [], 0, none⟩
      let s1 := s.fwWrite (s.asidOfCtx m.ctx) m.w6 (List.replicate size 0)
      okWith { s1 with queues := s1.queues ++ [q] } 0 0 } s

/-- QDELETE (Table 17.3): completes after the pair's in-flight entries. -/
def execQdelete (m : Cmd) (s : State) : Host.Outcome State Fault Refusal :=
  let qid := fld m.w4 0 16
  runCmd m {
    opc := 1, sub := 1, root := false, reduced := false
    named := zeroFrom m.w4 16 && m.w5 == 0 && m.w6 == 0 && m.w7 == 0
    inRange := fun s => qid != 0 && (s.queue? qid).isSome
    hold := noHold
    effect := fun r s =>
      match s.queue? qid with
      | none => .done s badArg 0 0
      | some q =>
        if q.deleting.isSome then .done s busySt 0 0
        else
          let s1 := s.updQueue qid fun q => { q with deleting := some r }
          .later (State.finishDeletes s1.queues.length s1) } s

/-! ### Contexts -/

/-- ASIDs that may be given (R103). -/
def asidMax : Nat := 65534

/-- The lowest ASID that no live context holds, looking at most `fuel` numbers on from `a`. -/
def State.freeAsid (s : State) : Nat → Nat → Option Nat
  | 0, _ => none
  | fuel + 1, a => if s.ctxs.any (fun c => c.live && c.asid == a) then s.freeAsid fuel (a + 1) else some a

/-- The virtual-die table at creation (R228): the compute sockets that are not dead, in ascending order. -/
def State.vdieTable (s : State) : List VDie :=
  let live := (List.range 4).filter fun i => match s.dies[i]? with
    | none => false
    | some d => !d.dead
  let entry := fun i : Nat => match s.dies[i]? with
    | some d => VDie.mk (if d.up then vdiePresent else vdieParked) i
    | none => VDie.mk 0 0
  live.map entry ++ List.replicate (4 - live.length) (VDie.mk 0 0)

/-- CTXCREATE (R103, R228, R248, R388, Table 17.9). The handle given is the ASID. -/
def execCtxcreate (m : Cmd) (s : State) : Host.Outcome State Fault Refusal :=
  runCmd m {
    opc := 2, sub := 0, root := true, reduced := false
    named := fld m.w4 0 8 == 0 && zeroFrom m.w4 56 && fld m.w5 1 15 == 0 && zeroFrom m.w5 52 && zeroFrom m.w6 52
      && zeroFrom m.w7 52
    inRange := fun _ => m.ctx == 0 && fld m.w7 0 16 != 0
    hold := noHold
    effect := fun _ s =>
      match s.freeAsid (min asidMax (s.ctxs.length + 1)) 1 with
      | none => .done s busySt 0 0
      | some a =>
        let c : Ctx := {
          handle := a, asid := a, root := fld m.w4 8 38 * 2 ^ 8, pager := fld m.w4 46 10, check := fld m.w5 0 1 == 1
          selfVa := fld m.w5 16 36 * 2 ^ 16
          saveBase := fld m.w6 16 36 * 2 ^ 16, saveSize := fld m.w6 0 16 * 2 ^ 16
          privBase := fld m.w7 16 36 * 2 ^ 16, privSize := fld m.w7 0 16 * 2 ^ 20
          tvec := 0, vdies := s.vdieTable, fault := none, live := true }
        okWith { s with ctxs := s.ctxs.filter (fun c => c.live) ++ [c] } (a * 2 ^ 16 + a) 0 } s

/-- Every core of the device. -/
def State.allCores (s : State) : List (Nat × Nat × Nat) := (List.range s.dies.length).flatMap coresOfDie

/-- The whole VA space. -/
def vaSpace : Nat := 2 ^ 52

/-- Every line of an address space is written back and every record of it dropped. -/
def State.purgeAsid (s : State) (asid : Nat) : State :=
  let s1 := s.allCores.foldl (fun s k =>
    ((s.core k).l1.filter fun l => l.asid == asid).foldl (fun s l => s.evictLine k l) s) s
  let s2 := s1.cinv asid 0 vaSpace
  { s2 with ports := s2.ports.map fun p => { p with
      bounce := p.bounce.filter fun b => b.asid != asid
      tasks := p.tasks.filter fun t => t.asid != asid
      quotas := p.quotas.filter fun q => q.1 != asid } }

/-- Colony `j` gives up everything it holds. -/
def State.dropColony (s : State) (j : Nat) : State :=
  let is := s.swarmsOf j
  let s1 := match s.colonies[j]? with
    | none => s
    | some c => match c.place with
      | none => s
      | some p => s.updSpan p fun k => { k with tiles := k.tiles.map (Tile.leave j is) }
  let s2 := is.foldl (fun s i => s.updSwarm i fun w => { w with ops := [], wait := none, starved := none, ended := true })
    (s1.dropEngines j)
  s2.updColony j Colony.released

/-- The LAUNCH commands that wait for fields of a context complete with FAILED, and its fault's cause in RES0. -/
def State.failLaunches (s : State) (h cause : Nat) : State :=
  s.fields.foldl (fun s f => match f.host with
    | none => s
    | some r => if f.ctx == h && f.live then s.complete r failedSt (BitVec.ofNat 64 cause) 0 else s) s

/-- The REDUCE and STORIO commands of a context that are still to complete do so with FAILED: every command gets its entry (R255). -/
def State.failOthers (s : State) (h : Nat) : State :=
  let rs := (s.reducs.filter fun r => r.ctxh == h).map Reduc.host ++ (s.stors.filter fun r => r.ctxh == h).map Stor.host
  rs.foldl (fun s r => s.complete r failedSt 0 0) s

/-- The deletions of pairs that go with a context's space complete with them. -/
def State.endDeletes (s : State) (h : Nat) : State :=
  (s.queues.filterMap fun q => if q.space == h && h != 0 then q.deleting else none).foldl (fun s r => s.complete r 0 0 0) s

/-- What is left of a context is dropped (R103, R215, Table 17.3). -/
def State.destroyCtx (s : State) (c : Ctx) : State :=
  let js := (List.range s.colonies.length).filter fun j => s.colCtx j == c.handle
  let s1 := ((s.failLaunches c.handle (c.fault.getD 0)).failOthers c.handle).endDeletes c.handle
  let s2 := (js.foldl State.dropColony s1).purgeAsid c.asid
  let keepField := fun f : FieldSt => if f.ctx == c.handle then { f with ctx := 0, live := false, host := none } else f
  { s2 with
    fields := s2.fields.map keepField
    loaded := s2.loaded.filter fun l => l.ctx != c.handle
    posted := s2.posted.filter fun p => p.ctx != c.handle
    reducs := s2.reducs.filter fun r => r.ctxh != c.handle
    stors := s2.stors.filter fun r => r.ctxh != c.handle
    queues := s2.queues.filter fun q => q.space != c.handle || c.handle == 0
    ctxs := s2.ctxs.filter fun x => !(x.handle == c.handle) }

/-- CTXDESTROY (R103, R215, R251). -/
def execCtxdestroy (m : Cmd) (s : State) : Host.Outcome State Fault Refusal :=
  runCmd m {
    opc := 3, sub := 0, root := true, reduced := false
    named := m.w4 == 0 && m.w5 == 0 && m.w6 == 0 && m.w7 == 0
    inRange := fun s => (s.ctx? m.ctx).isSome
    hold := noHold
    effect := fun _ s => match s.ctx? m.ctx with
      | none => .done s badArg 0 0
      | some c => okWith ((s.destroyCtx c).retryFw) 0 0 } s

/-- SETROOT (Table 17.9): the new root, and CINV of the whole space. -/
def execSetroot (m : Cmd) (s : State) : Host.Outcome State Fault Refusal :=
  runCmd m {
    opc := 4, sub := 0, root := true, reduced := false
    named := fld m.w4 0 8 == 0 && zeroFrom m.w4 46 && m.w5 == 0 && m.w6 == 0 && m.w7 == 0
    inRange := ctxOk m
    hold := noHold
    effect := fun _ s =>
      okWith ((s.updCtx m.ctx fun c => { c with root := m.w4 }).cinv (s.asidOfCtx m.ctx) 0 vaSpace) 0 0 } s

/-- SETTVEC (R211, Table 17.9). -/
def execSettvec (m : Cmd) (s : State) : Host.Outcome State Fault Refusal :=
  runCmd m {
    opc := 5, sub := 0, root := false, reduced := false
    named := zeroFrom m.w4 52 && m.w5 == 0 && m.w6 == 0 && m.w7 == 0
    inRange := fun s => ctxOk m s && m.w4 % 8 == 0
    hold := noHold
    effect := fun _ s => okWith (s.updCtx m.ctx fun c => { c with tvec := BitVec.ofNat 52 m.w4 }) 0 0 } s

/-! ### Loading and launching (R281-R283, R255) -/

/-- Section index of `.rec` in the section table. -/
def secRec : Nat := 1
/-- Section index of `.comb`. -/
def secComb : Nat := 2
/-- Section index of `.kdesc`. -/
def secKdesc : Nat := 4

/-- One relocation of `.rec` or `.kdesc` (R280, R281); others are the host's. The word may lie across two pages. -/
def State.relocate (s : State) (asid : Nat) (secs : List Nat) (w0 w1 : Nat) : Option State :=
  let sect := fld w0 56 8
  if sect = secRec || sect = secKdesc then
    let va := secs.getD sect 0 + fld w0 0 48
    let add := secs.getD (fld w0 48 8) 0
    match s.readAcross asid va 8 with
    | (s1, .ok bs) =>
      let v := leNat bs
      if fld w1 56 8 = 1 then s1.fwPatch asid va ((v + add) % 2 ^ 64)
      else s1.fwPatch asid va (v / 2 ^ 52 * 2 ^ 52 + (v + add) % 2 ^ 52)
    | _ => none
  else some s

/-- A table of `n` relocations. -/
def State.relocateAll (asid : Nat) (secs : List Nat) : Nat → Nat → State → Option State
  | 0, _, s => some s
  | n + 1, va, s =>
    match s.fwWords asid va 2 with
    | (s1, some [w0, w1]) =>
      match s1.relocate asid secs w0 w1 with
      | none => none
      | some s2 => State.relocateAll asid secs n (va + 16) s2
    | _ => none

/-- A kernel is known to have a group in `.comb` (R282): its comb layout is not the one that a kernel without `.comb` has. -/
def KDesc.hasComb (d : KDesc) : Bool := d.combSize != 0 || d.bars != 0 || d.rings != 0 || d.hash != 0x88

/-- The decoded descriptor at an address. -/
def State.descAt (s : State) (asid va : Nat) : Option KDesc := (s.peek asid va 64).map fun bs =>
  descOfWords ((List.range 8).map fun j => leNat ((bs.drop (8 * j)).take 8))

/-- How many groups of its kind stand in `.comb` before that of the descriptor at `va`: one for each earlier kernel with a comb, or
without. A kernel without comb, barriers and rings whose layout is the default one may or may not have a `.comb` directive: as its
group states a size of 0, the groups of kernels with a comb are told from it by their size (DEDUCED, log 86). -/
def State.groupsBefore (s : State) (asid base va : Nat) (sized : Bool) : Nat :=
  (List.range ((va - base) / 64)).countP fun k => match s.descAt asid (base + 64 * k) with
    | none => false
    | some d => d.hasComb && (d.combSize != 0) == sized

/-- Ring records that follow a header. -/
def headerRings (w0 : Nat) : Nat := w0 % 2 ^ 32

/-- The address of group `k` of its kind, the groups that state a comb size and those that state 0 being counted apart; none where a
header cannot be read. -/
def State.groupAt (s : State) (asid : Nat) (sized : Bool) : Nat → Nat → Nat → Option Nat
  | 0, _, _ => none
  | fuel + 1, k, va =>
    match s.peekWord asid va, s.peekWord asid (va + 8) with
    | some w0, some w1 =>
      let next := va + 16 * (1 + headerRings w0)
      if (fld w1 0 25 != 0) != sized then s.groupAt asid sized fuel k next
      else match k with
        | 0 => some va
        | j + 1 => s.groupAt asid sized fuel j next
    | _, _ => none

/-- A ring record (Table 19.6): number, base and size. -/
def ringRec (w0 w1 : Nat) : Nat × Nat × Nat := (fld w0 24 8, fld w0 0 24, fld w1 24 20 * (fld w1 20 4 + 1))

/-- Every ring of a list stands apart from the others. -/
def ringsApart : List (Nat × Nat × Nat) → Bool
  | [] => true
  | x :: r => (r.all fun y => !rangesMeet x.2 y.2) && ringsApart r

/-- Check 5 of LOADK (R282). -/
def State.combOk (s : State) (asid : Nat) (secs : List Nat) (d : KDesc) (va : Nat) : Bool :=
  if !d.hasComb then true
  else match s.groupAt asid (d.combSize != 0) ((va - secs.getD secKdesc 0) / 64 + 1)
      (s.groupsBefore asid (secs.getD secKdesc 0) va (d.combSize != 0)) (secs.getD secComb 0) with
    | none => false
    | some g =>
      match s.peekWord asid g, s.peekWord asid (g + 8) with
      | some w0, some w1 =>
        let rs := (List.range (headerRings w0)).map fun k =>
          match s.peekWord asid (g + 16 + 16 * k), s.peekWord asid (g + 24 + 16 * k) with
          | some a, some b => ringRec a b
          | _, _ => (d.rings, 0, 1)
        (rs.all fun x => decide (x.1 < d.rings) && decide (x.2.1 + x.2.2 ≤ fld w1 0 25)) && ringsApart rs
      | _, _ => false

/-- A part of a section. -/
def inSection (base size a : Nat) : Bool := decide (base ≤ a) && decide (a < base + size)

/-- The number of the first check of LOADK that a descriptor fails, 0 when none (R282, R283). -/
def State.loadCheck (s : State) (asid : Nat) (secs ws : List Nat) (va : Nat) : Nat :=
  let d := descOfWords ws
  if !descFieldsOk ws then 1
  else if !d.stagesOk then 2
  else if !s.placeable d then 3
  else if !inSection (secs.getD 0 0) d.codeSize d.entry
      || !(inSection (secs.getD secRec 0) d.recSize d.recBase || (d.recSize == 0 && d.recBase == secs.getD secRec 0)) then 4
  else if !s.combOk asid secs d va then 5
  else 0

/-- LOADK's effect (R281): relocations, checks, the mark; a failure leaves everything as it was. -/
def loadKernel (m : Cmd) (s : State) : CmdOut :=
  let asid := s.asidOfCtx m.ctx
  let bad := CmdOut.done s badArg 1 0
  match s.fwWords asid m.w7 5 with
  | (_, none) => bad
  | (s1, some secs) =>
    match State.relocateAll asid secs m.w6 m.w5 s1 with
    | none => bad
    | some s2 =>
      match s2.fwWords asid m.w4 8 with
      | (_, none) => bad
      | (s3, some ws) =>
        let n := s3.loadCheck asid secs ws m.w4
        if n = 0 then
          okWith { s3 with loaded := ⟨m.ctx, m.w4, descOfWords ws⟩ :: s3.loaded.filter fun l => !(l.ctx == m.ctx && l.va == m.w4) } 0 0
        else .done s badArg (BitVec.ofNat 64 n) 0

/-- The ranges that LOADK reads: the tables, the descriptor, and the sections it patches or checks, as far as it goes into them. -/
def loadRanges (m : Cmd) (s : State) : List (Nat × Nat) :=
  let secs := ((s.fwWords (s.asidOfCtx m.ctx) m.w7 5).2).getD []
  let d := (s.descAt (s.asidOfCtx m.ctx) m.w4).getD (descOfWords [])
  let kd := secs.getD secKdesc 0
  [(m.w7, 40), (m.w5, 16 * m.w6), (m.w4, 64), (secs.getD secRec 0, d.recSize), (kd, m.w4 + 64 - kd),
    (secs.getD secComb 0, 144 * ((m.w4 - kd) / 64 + 1))]

/-- LOADK waits while a home holds one of its reads (R112). -/
def loadHold (m : Cmd) : State → Option State := fun s =>
  if (loadRanges m s).any fun r => s.rangeHeld (s.asidOfCtx m.ctx) r.1 r.2 false then some s else none

/-- LOADK (R281-R283). -/
def execLoadk (m : Cmd) (s : State) : Host.Outcome State Fault Refusal :=
  runCmd m {
    opc := 6, sub := 0, root := false, reduced := false
    named := true
    inRange := fun s => ctxOk m s && vaOk m.w4 1 && vaOk m.w5 1 && vaOk m.w7 1
    hold := loadHold m
    effect := fun _ s => loadKernel m s } s

/-- The verdict on the record of a LAUNCH command. A record with an uncorrectable error, which no colony has read, is a bad one here
(DESIGN CHOICE, log 82). -/
def State.hostVerdict (s : State) (m : Cmd) : State × Except Unread (Ctx × LaunchRec × Verdict) :=
  match s.ctx? m.ctx with
  | none => (s, .error .bad)
  | some c =>
    match s.readRecord c.asid m.w4 with
    | (s1, .error u) => (s1, .error u)
    | (s1, .ok r) => (s1, .ok (c, r, s1.verdict c r none))

/-! ### Service launches (R260) -/

/-- The record of a service launch (R260): the template of entry `k`, fresh, with the payload in its argument words; the words under the
payload are kept, to be put back when the launch has been examined (DESIGN CHOICE, log 104). -/
def State.fillTemplate (s : State) (asid k : Nat) (v : Svc) (payload : List Byte) : State :=
  let old := if payload.isEmpty then [] else (s.peek asid (v.tmpl + 64) payload.length).getD []
  let s1 := { s with svcs := s.svcs.modify k fun v => { v with under := old } }
  let s2 := if payload.isEmpty then s1 else s1.fwWrite asid (v.tmpl + 64) payload
  s2.fwWrite asid (v.tmpl + 40) (List.replicate 16 0)

/-- The template's own words stand again where the payload of an examined launch stood. -/
def State.clearTemplate (s : State) (k : Nat) (v : Svc) : State :=
  { s.fwWrite (s.asidOfCtx v.ctx) (v.tmpl + 64) v.under with svcs := s.svcs.modify k fun v => { v with under := [] } }

/-- The packet of a service launch: LAUNCH, the sender in TAG, at system scope. -/
def servicePacket (v : Svc) (peer : Nat) : List Byte :=
  (cmdWords ⟨.queue v.qid, 7, 0, v.ctx, peer, 0, 0, 5, 0, v.tmpl, 0, 0, 0⟩).flatMap (leBytes 8)

/-- Entries of a submission ring that firmware has not consumed. -/
def Queue.waiting (q : Queue) : Nat := (q.tail + 2 ^ q.n - q.head) % 2 ^ q.n

/-- A launch from the template waits in the ring: its record is still to be examined. -/
def State.tmplBusy (s : State) (v : Svc) (q : Queue) : Bool :=
  (List.range q.waiting).any fun k => match s.peek (s.asidOfCtx q.space) (q.sq + 64 * ((q.head + k) % 2 ^ q.n)) 64 with
    | none => false
    | some bs =>
      let m := cmdOf (.queue q.qid) ((List.range 8).map fun j => leNat ((bs.drop (8 * j)).take 8))
      m.opc == 7 && m.w4 == v.tmpl

/-- The pair takes one more launch, those counted that wait for a template. -/
def State.svcRoom (s : State) (v : Svc) : Bool :=
  match s.queue? v.qid with
  | none => false
  | some q =>
    let held := s.svcWait.countP fun r => (s.svcs.getD r.entry Svc.reset).qid == v.qid
    decide (q.waiting + held + 1 < 2 ^ q.n) && q.deleting.isNone

/-- Writes a service launch into the bound pair and rings its doorbell. -/
def State.queueService (s : State) (v : Svc) (q : Queue) (r : SvcReq) : State :=
  let s1 := s.fillTemplate (s.asidOfCtx v.ctx) r.entry v r.payload
  let s2 := s1.fwWrite (s1.asidOfCtx q.space) (q.sq + 64 * q.tail) (servicePacket v r.peer)
  s2.ring v.qid (BitVec.ofNat 64 (q.chead * 2 ^ 32 + (q.tail + 1) % 2 ^ q.n))

/-- A service launch cannot be written yet: its template is in use, or a home holds a write to it or to the ring. -/
def State.svcHeld (s : State) (v : Svc) (q : Queue) : Bool :=
  s.tmplBusy v q || !v.under.isEmpty || s.fwWaits (s.asidOfCtx v.ctx) v.tmpl 128
  || s.fwWaits (s.asidOfCtx q.space) (q.sq + 64 * q.tail) 64

/-- The requests whose template is free are queued, in their order; a later one of the same template waits, so that it does not
replace the arguments of the launch before it (R260). -/
def State.serveSvc : List SvcReq → State → State
  | [], s => s
  | r :: rs, s =>
    let v := s.svcs.getD r.entry Svc.reset
    match s.queue? v.qid with
    | none => State.serveSvc rs s
    | some q =>
      State.serveSvc rs (if s.svcHeld v q || s.svcWait.any (fun x => x.entry == r.entry) then { s with svcWait := s.svcWait ++ [r] }
        else s.queueService v q r)

/-- The templates whose launch has been examined get their own words back. -/
def State.clearTemplates (s : State) : State :=
  s.svcs.zipIdx.foldl (fun s x =>
    if x.1.under.isEmpty then s
    else match s.queue? x.1.qid with
      | none => s
      | some q => if s.tmplBusy x.1 q then s else s.clearTemplate x.2 x.1) s

/-- Tries the waiting requests again. -/
def State.retrySvc (s : State) : State :=
  let s1 := s.clearTemplates
  if s1.svcWait.isEmpty then s1 else State.serveSvc s1.svcWait { s1 with svcWait := [] }

/-- What a consumed LAUNCH leaves: the next request may use its template. -/
def CmdOut.nextSvc : CmdOut → CmdOut
  | .done s st r0 r1 => .done s.retrySvc st r0 r1
  | .later s => .later s.retrySvc

/-! ### LAUNCH as a command -/

/-- A LAUNCH command is held while its record cannot be read yet, and while colonies are to lend; lenders take new reservations before it
is examined (R191, R269, R270). -/
def launchHold (m : Cmd) (s : State) : Option State :=
  match s.newResvs.hostVerdict m with
  | (_, .error .held) => some s
  | (s1, .ok (_, _, .hold js)) => some (s1.holdFor (.command m.src) js)
  | _ => none

/-- LAUNCH's effect: the record's STATUS, or the field. -/
def launchEffect (m : Cmd) (ref : CmdRef) (s : State) : CmdOut :=
  let asid := s.asidOfCtx m.ctx
  let free := fun (t : State) (used : List Nat) => t.untell (.command m.src) used
  match s.newResvs.hostVerdict m with
  | (s1, .error _) => okWith ((free s1 []).writeStatus asid m.w4 stBadRec 0) stBadRec 0
  | (s1, .ok (_, _, .reject st)) => okWith ((free s1 []).writeStatus asid m.w4 st 0) st 0
  | (s1, .ok (c, r, .accept d n sps priv save used)) =>
    let s2 := (free s1 used).acceptField c r d n sps priv save used (some ref)
    .later (s2.endField (s2.fields.length - 1))
  | (s1, .ok (_, _, .hold _)) => .later s1

/-- LAUNCH as a command (R190, R191, R255): it completes at the field's completion or at the rejection. -/
def execLaunchCommand (m : Cmd) (s : State) : Host.Outcome State Fault Refusal :=
  runCmd m {
    opc := 7, sub := 0, root := false, reduced := false
    named := m.w5 == 0 && m.w6 == 0 && m.w7 == 0
    inRange := fun s => ctxOk m s && vaOk m.w4 64
    hold := launchHold m
    effect := fun ref s => (launchEffect m ref s).nextSvc } s

/-! ### Pages (R112, R251) -/

/-- The swarm that an attribution names; nobody where it runs no more. -/
def State.swarmNamed (s : State) (who : Who) : Nat :=
  let one := fun (w : Swarm) => w.idx == who.swarm && !w.ended && (match s.colonies[w.colony]?, s.fieldOf w.colony with
    | some c, some f => f.id == who.field && c.index == who.colony
    | _, _ => false)
  (s.swarms.findIdx? one).getD nobody

/-- What applying a bounce entry met: the state, and the cause of a discard. Bytes land as the page now says, with the poison they
carry (R219, R259). -/
def State.applyBounce (s : State) (m : MapRec) (asid : Nat) (b : Bounce) : State × Option Nat :=
  match b.kind with
  | .bytes bs bad =>
    if m.w then
      let s1 := s.landRuns m asid (s.handleOf asid) (s.swarmNamed b.who) b.who bs
      ({ s1 with poison := bad.foldl (fun acc u => insNat (m.paOf (16 * u) / 16) acc) s1.poison }, none)
    else (s, some 0)
  | .red op wide va v =>
    if !m.c then (s, some 3)
    else if !m.w then (s, some 0)
    else
      let (s1, old) := s.homeVal m va (atomBytes wide)
      (s1.homePut m asid va (atomBytes wide) (atomNew op wide old v 0), none)
  | .bind va region => if !m.c then (s, some 3) else if !m.w then (s, some 0) else (s.bindAt m asid va region, none)
  | .rel va sc ext field colony cls =>
    if !m.c then (s, some 3) else if !m.w then (s, some 0) else (s.relAt m asid va sc ext field colony cls, none)

/-- First byte of a bounce entry. -/
def Bounce.va (b : Bounce) : Nat :=
  match b.kind with
  | .bytes bs _ => (bs.map Prod.fst).headD (b.unit * 2 ^ 16)
  | .red _ _ va _ | .bind va _ | .rel va .. => va

/-- Applies entries in arrival order (R112); a discarded one is logged with KIND 8. -/
def State.applyAll (m : MapRec) : List Bounce → State × Nat × Nat → State × Nat × Nat
  | [], r => r
  | b :: bs, (s, done, gone) =>
    match s.applyBounce m b.asid b with
    | (s1, none) => State.applyAll m bs (s1, done + 1, gone)
    | (s1, some c) =>
      State.applyAll m bs (s1.logPort (s1.home b.va) b.va m.asid 8 c { b.who with pc := 0 }, done, gone + 1)

/-- An entry is one of the page being drained: its own address space's, or with G any of the same G page. -/
def State.drains (s : State) (asid va : Nat) (g : Bool) (b : Bounce) : Bool := s.ofPage asid va b && (g || b.asid == asid)

/-- DRAIN (R112, Table 17.9). -/
def execDrain (m : Cmd) (s : State) : Host.Outcome State Fault Refusal :=
  runCmd m {
    opc := 8, sub := 0, root := false, reduced := false
    named := zeroFrom m.w5 1 && m.w6 == 0 && m.w7 == 0
    inRange := fun s => spaceOk m s && vaOk m.w4 (2 ^ 16)
    hold := noHold
    effect := fun _ s =>
      let asid := s.asidOfCtx m.ctx
      match s.walkAny asid m.w4 with
      | .ok mr _ =>
        let p := s.home m.w4
        let mine := s.drains asid m.w4 (m.w5 == 1)
        let bs := match s.ports[p]? with
          | none => []
          | some q => q.bounce.filter mine
        let s1 := s.updPort p fun q => { q with bounce := q.bounce.filter fun b => !mine b }
        let (s2, done, gone) := State.applyAll mr bs ((s1.translate asid m.w4 (!bs.isEmpty)).1, 0, 0)
        okWith s2.retryFw.retrySvc done gone
      | _ => .done s failedSt 0 0 } s

/-- PAGEREQ (R251): only on the pager pair of the context; the request is copied into the result words. -/
def execPagereq (m : Cmd) (s : State) : Host.Outcome State Fault Refusal :=
  runCmd m {
    opc := 0x14, sub := 0, root := false, reduced := false
    named := zeroFrom m.w5 2 && zeroFrom m.w6 56 && m.w7 == 0
    inRange := fun s => match s.goodCtx m.ctx with
      | none => false
      | some c => m.src == .queue c.pager
    hold := noHold
    effect := fun _ s => okWith s m.w4 (fld m.w6 0 56 + fld m.w5 0 2 * 2 ^ 56) } s

/-! ### Power, memory and tables -/

/-- A REQ that is written (Table 16.7, R236, R240-R242, R244). A park of a die that is in a transition, or wakes, is tried when that
has ended. -/
def State.writeReq (s : State) (die req : Nat) : State :=
  match s.dies[die]? with
  | none => s
  | some d =>
    let set := fun s : State => s.updDie die fun d => { d with req := req }
    if req = pk then
      if d.parking || d.cur = pk then set s
      else if d.trans.isSome || d.waking then
        s.updDie die fun d => { d with req := pk, oldReq := if d.req = pk then d.oldReq else d.req }
      else s.tryPark die d.req
    else if d.parking then set s
    else if d.cur = pk then (set s).startUnpark die
    else s.updDie die fun d => { d with req := req, pkst := 0 }.retarget

/-- PSTATE (R236, R240-R244, Table 17.9). -/
def execPstate (m : Cmd) (s : State) : Host.Outcome State Fault Refusal :=
  let die := fld m.w4 0 2
  runCmd m {
    opc := 9, sub := 0, root := false, reduced := true
    named := zeroFrom m.w4 2 && zeroFrom m.w5 4 && m.w6 == 0 && m.w7 == 0
    inRange := fun s => m.ctx == 0 && m.w5 ≤ pk && (match s.dies[die]? with
      | none => false
      | some d => !d.dead)
    hold := noHold
    effect := fun _ s =>
      let s1 := s.writeReq die m.w5
      okWith s1 (match s1.dies[die]? with
        | none => 0
        | some d => d.pstate) 0 } s

/-- SETCAP (R238, Table 16.6). -/
def execSetcap (m : Cmd) (s : State) : Host.Outcome State Fault Refusal :=
  runCmd m {
    opc := 0xA, sub := 0, root := true, reduced := true
    named := zeroFrom m.w4 8 && m.w5 == 0 && m.w6 == 0 && m.w7 == 0
    inRange := fun _ => m.ctx == 0 && 50 ≤ m.w4 && m.w4 ≤ 220
    hold := noHold
    effect := fun _ s => okWith { s with
      pwrCap := m.w4
      pwrHist := (s.ioCycle, m.w4) :: recentCaps s.ioCycle s.pwrHist } 0 0 } s

/-- CARVE (R119, Table 6.8): it completes when the change is over. -/
def execCarve (m : Cmd) (s : State) : Host.Outcome State Fault Refusal :=
  let p := fld m.w4 0 3
  runCmd m {
    opc := 0xB, sub := 0, root := true, reduced := false
    named := zeroFrom m.w4 3 && zeroFrom m.w5 3 && m.w6 == 0 && m.w7 == 0
    inRange := fun _ => m.ctx == 0 && m.w5 ≤ 6
    hold := noHold
    effect := fun r s => match s.ports[p]? with
      | none => .done s badArg 0 0
      | some q =>
        if q.carveTo.isSome then .done s busySt 0 0
        else .later (s.updPort p fun q => { q with carveTo := some m.w5, carveCmd := some r }) } s

/-- CARVE_COMPLETE (R119): CARVE takes effect; the contents of a released carve are lost. -/
def execCarveComplete (port : Nat) (s : State) : Host.Outcome State Fault Refusal :=
  match s.ports[port]? with
  | none => .refused .notEnabled
  | some q =>
    match q.carveTo with
    | none => .refused .notEnabled
    | some n =>
      let base := 2 ^ 44 + port * 2 ^ 36
      let lost := fun a : Nat => decide (base + n * 2 ^ 25 ≤ a) && decide (a < base + q.carve * 2 ^ 25)
      let s1 := { s.updPort port fun q => { q with carve := n, carveTo := none, carveCmd := none } with
        mem := s.mem.filter fun c => !lost c.1 }
      match q.carveCmd with
      | none => .next s1
      | some r => .next (s1.complete r 0 0 0)

/-- TQUOTA (R195, Table 17.9). -/
def execTquota (m : Cmd) (s : State) : Host.Outcome State Fault Refusal :=
  runCmd m {
    opc := 0xB, sub := 1, root := true, reduced := false
    named := zeroFrom m.w4 3 && zeroFrom m.w5 16 && zeroFrom m.w6 19 && m.w7 == 0
    inRange := fun s => m.ctx == 0 && (s.goodCtx m.w5).isSome && m.w6 ≤ taskMax
    hold := noHold
    effect := fun _ s =>
      let a := s.asidOfCtx m.w5
      okWith (s.updPort m.w4 fun p => { p with quotas := spPut 0 p.quotas a m.w6 }) 0 0 } s

/-- The image of a service table entry (Table 17.5); none when it breaks the table. -/
def State.svcOf (s : State) (ws : List Nat) : Option Svc :=
  let v : Svc := ⟨wfld ws 0 48 16, wfld ws 0 32 16, wfld ws 0 16 16, wfld ws 0 0 8, wfld ws 1 0 52, 0, []⟩
  let owns := match s.queue? v.qid with
    | none => false
    | some q => q.owner == v.ctx
  if v.svc != 0 && (s.goodCtx v.ctx).isSome && owns && decide (v.maxw ≤ 8) && wfld ws 0 8 8 == 0 && wfld ws 1 52 12 == 0 then
    some v
  else none

/-- SVCREG (R260, Table 17.5). -/
def execSvcreg (m : Cmd) (s : State) : Host.Outcome State Fault Refusal :=
  runCmd m {
    opc := 0xC, sub := 0, root := false, reduced := false
    named := zeroFrom m.w4 8 && m.w6 == 0 && m.w7 == 0
    inRange := fun s => spaceOk m s && vaOk m.w5 1
    hold := holdRead m.ctx m.w5 24
    effect := fun _ s => match s.fwWords (s.asidOfCtx m.ctx) m.w5 3 with
      | (s1, none) => .done s1 badArg 0 0
      | (s1, some ws) => match s1.svcOf ws with
        | none => .done s1 badArg 0 0
        | some v => okWith { s1 with svcs := s1.svcs.set m.w4 v } 0 0 } s

/-- SVCDEL (R260): RES0 is SVCMISS. -/
def execSvcdel (m : Cmd) (s : State) : Host.Outcome State Fault Refusal :=
  runCmd m {
    opc := 0xC, sub := 1, root := false, reduced := false
    named := zeroFrom m.w4 8 && m.w5 == 0 && m.w6 == 0 && m.w7 == 0
    inRange := spaceOk m
    hold := noHold
    effect := fun _ s => okWith { s with svcs := s.svcs.set m.w4 Svc.reset } (s.svcs.getD m.w4 Svc.reset).miss 0 } s

/-- A peer table image (Table 17.11): none when it breaks the table. -/
def peerOf (ws : List Nat) : Option Peer :=
  if wfld ws 0 2 62 == 0 && wfld ws 3 19 45 == 0 && wfld ws 4 52 12 == 0 && wfld ws 5 40 24 == 0 && wfld ws 6 17 47 == 0
      && ws.getD 7 0 == 0 && wfld ws 4 0 6 == 0 then
    some ⟨wfld ws 0 1 1 == 1, ws.getD 1 0, ws.getD 2 0, wfld ws 3 16 3, wfld ws 3 0 16, wfld ws 4 0 52, wfld ws 5 0 40,
      wfld ws 6 16 1 == 1, wfld ws 6 0 16⟩
  else none

/-- PEERSET (R258, Table 17.11). -/
def execPeerset (m : Cmd) (s : State) : Host.Outcome State Fault Refusal :=
  runCmd m {
    opc := 0xF, sub := 0, root := true, reduced := true
    named := zeroFrom m.w4 11 && m.w6 == 0 && m.w7 == 0
    inRange := fun s => m.w4 ≤ 0x7FE && spaceOk m s && vaOk m.w5 1
    hold := fun s => if m.w5 = 0 then none else holdRead m.ctx m.w5 64 s
    effect := fun _ s =>
      let others := s.peers.filter fun p => p.1 != m.w4
      if m.w5 = 0 then okWith { s with peers := others } 0 0
      else match s.fwWords (s.asidOfCtx m.ctx) m.w5 8 with
        | (s1, none) => .done s1 badArg 0 0
        | (s1, some ws) => match peerOf ws with
          | none => .done s1 badArg 0 0
          | some p => okWith { s1 with peers := if wfld ws 0 0 1 == 1 then others ++ [(m.w4, p)] else others } 0 0 } s

/-- APERTURE (R246, Table 17.10). -/
def execAperture (m : Cmd) (s : State) : Host.Outcome State Fault Refusal :=
  runCmd m {
    opc := 0x15, sub := 0, root := true, reduced := false
    named := zeroFrom m.w4 6 && zeroFrom m.w5 52 && fld m.w5 18 12 == 0 && m.w6 == 0 && m.w7 == 0
    inRange := fun _ => m.ctx == 0 && m.w4 != 0
    hold := noHold
    effect := fun _ s => okWith { s with apertures := s.apertures.set m.w4 (BitVec.ofNat 64 m.w5) } 0 0 } s

/-! ### Releases, reports and logs -/

/-- An external release (R256) at system scope: the state and SEQ after it, or the cause of a refusal. A page that is not
resident takes it into the bounce buffer, with SEQ 0. -/
def State.extRelease (s : State) (asid va : Nat) : State × Except Nat Nat :=
  match s.objHome asid va with
  | (s1, .nonres) => (s1.bounce asid va (.rel va 5 true 0 0 0) Who.none, .ok 0)
  | (s1, .fault c) => (s1, .error c)
  | (s1, .ok m) =>
    let s2 := s1.relAt m asid va 5 true 0 0 0
    (s2, .ok (s2.getWord m va 0))

/-- HREL (R256). -/
def execHrel (m : Cmd) (s : State) : Host.Outcome State Fault Refusal :=
  runCmd m {
    opc := 0x16, sub := 0, root := false, reduced := false
    named := m.w5 == 0 && m.w6 == 0 && m.w7 == 0
    inRange := fun s => spaceOk m s && vaOk m.w4 64
    hold := fun s => if s.holds (s.asidOfCtx m.ctx) m.w4 true then some s else none
    effect := fun _ s =>
      let asid := s.asidOfCtx m.ctx
      match s.extRelease asid m.w4 with
      | (s1, .ok seq) => okWith s1 seq 0
      | (s1, .error c) => .done (s1.logIo m.w4 (s1.tagOf asid m.w4) 11 c Who.none) badArg 0 0 } s

/-- ATTEST (Table 17.3): the signed report is not the spec's to give. -/
def execAttest (m : Cmd) (s : State) : Host.Outcome State Fault Refusal :=
  runCmd m {
    opc := 0x11, sub := 0, root := true, reduced := true
    named := m.w6 == 0 && m.w7 == 0
    inRange := fun s => spaceOk m s && vaOk m.w4 1
    hold := noHold
    effect := fun _ s =>
      let n := min 4096 Config.attestLen
      let s1 := s.fwWrite (s.asidOfCtx m.ctx) m.w4 ((List.range n).map fun k => Config.freeByte (s.fresh + k))
      okWith { s1 with fresh := s1.fresh + n } n 0 } s

/-- PATCH (R253): installed only when it verifies and its level is higher. -/
def execPatch (m : Cmd) (s : State) : Host.Outcome State Fault Refusal :=
  runCmd m {
    opc := 0x12, sub := 0, root := false, reduced := false
    named := m.w6 == 0 && m.w7 == 0
    inRange := fun s => spaceOk m s && vaOk m.w4 1 && m.w4 + m.w5 ≤ 2 ^ 52
    hold := holdRead m.ctx m.w4 m.w5
    effect := fun _ s => match s.fwRead (s.asidOfCtx m.ctx) m.w4 m.w5 with
      | (s1, none) => .done s1 failedSt 0 0
      | (s1, some bs) => match Config.patchLevel bs with
        | none => .done s1 failedSt 0 0
        | some l => if s1.patch < l then okWith { s1 with patch := l } l 0 else .done s1 failedSt 0 0 } s

/-- A fault log entry as bytes (Table 6.6). -/
def FaultLog.bytes (e : FaultLog) : List Byte :=
  leBytes 8 (e.va % 2 ^ 52)
  ++ leBytes 8 (e.asid % 2 ^ 16 * 2 ^ 48 + e.kind * 2 ^ 44 + e.cause * 2 ^ 40 + e.who.field % 2 ^ 32)
  ++ leBytes 8 (e.who.pc % 2 ^ 52)
  ++ leBytes 8 (e.who.colony % 2 ^ 16 * 2 ^ 48 + e.who.swarm % 2 ^ 8 * 2 ^ 40)
  ++ leBytes 8 e.cycle ++ List.replicate 24 0

/-- The entries of a log, oldest first, and its overflow count. The spec gives no layout for link and queue log entries:
their bytes are free. -/
def State.logEntries (s : State) (log port : Nat) : List (List Byte) × Nat :=
  let free := fun k : Nat => (List.range 64).map fun j => Config.freeByte (s.fresh + 64 * k + j)
  match log with
  | 0 => match s.ports[port]? with
    | none => ([], 0)
    | some p => (p.flog.map FaultLog.bytes, p.flogOver)
  | 1 => ((List.range s.linkLog.length).map free, s.linkLogOver)
  | 2 => ((List.range s.qlog.length).map free, s.qlogOver)
  | _ => (s.ioFlog.map FaultLog.bytes, s.ioFlogOver)

/-- LOGREAD (Table 17.9): as many whole entries as the buffer holds. -/
def execLogread (m : Cmd) (s : State) : Host.Outcome State Fault Refusal :=
  let log := fld m.w4 0 2
  runCmd m {
    opc := 0x13, sub := 0, root := false, reduced := true
    named := fld m.w4 2 2 == 0 && zeroFrom m.w4 7 && (log == 0 || zeroFrom m.w4 4) && m.w7 == 0
    inRange := fun s => spaceOk m s && vaOk m.w5 1
    hold := noHold
    effect := fun _ s =>
      let (es, lost) := s.logEntries log (fld m.w4 4 3)
      let got := es.take (m.w6 / 64)
      let s1 := s.fwWrite (s.asidOfCtx m.ctx) m.w5 got.flatten
      okWith { s1 with fresh := s1.fresh + 64 * es.length } got.length lost } s

end Sys2Proof.Machine
end

