-- ==== Sys2Proof/Machine/Fabric.lean ====
section
/-! DEFINITION. The fabric: arriving Torjor frames (R256-R260), posted stores that end (R259), cross-device reductions
(R261-R264), storage over the fabric (R266), and links that die (R233, R234). -/

namespace Sys2Proof.Machine

/-! ### Frames -/

/-- Values of OP (Table 17.4). -/
def opWrite : Nat := 1
/-- Posted write. -/
def opPosted : Nat := 2
/-- Read. -/
def opRead : Nat := 3
/-- Read response. -/
def opReadResp : Nat := 4
/-- Acknowledgement. -/
def opAck : Nat := 5
/-- Service request. -/
def opService : Nat := 6
/-- Reduce contribution. -/
def opContrib : Nat := 7
/-- Reduce abort. -/
def opAbort : Nat := 8
/-- Remote release. -/
def opRelease : Nat := 9
/-- Negative acknowledgement. -/
def opNack : Nat := 10

/-- Most payload bytes of a frame (Table 17.4). -/
def maxPayload : Nat := 9088

/-- A frame of version 1 with this OP, whose LEN is legal. -/
def pktIs (p : Pkt) (op : Nat) : Bool := p.ver == 1 && p.op == op && decide (p.len ≤ maxPayload) && decide (p.port < 8)

/-- LEN counts the payload. -/
def pktFull (p : Pkt) : Bool := p.payload.length == p.len

/-- Answers a frame to where it came from, with its PSN and CTAG (log 58). -/
def State.answer (s : State) (p : Pkt) (op : Nat) (payload : List Byte) : State :=
  { s with out := s.out ++ [.frame p.port p.v6 p.srcHi p.srcLo p.udp torjorPort 1 op (Config.ownIndex p.peer) p.psn p.addr payload.length
    p.ctag payload] }

/-- Answers OP 0x0A and logs the refusal in the I/O die's fault log (R258). -/
def State.refusePkt (s : State) (p : Pkt) (va asid kind cause : Nat) : State :=
  (s.logIo va asid kind cause Who.none).answer p opNack []

/-- Logs a dropped frame; the spec gives the entry no kind or cause: they are free. -/
def State.logDropped (s : State) (p : Pkt) : State :=
  { s.logIo (p.addr % 2 ^ 52) 0 (Config.freeNat s.fresh % 16) (Config.freeNat (s.fresh + 1) % 16) Who.none with
    fresh := s.fresh + 2 }

/-! ### The exported window (R258) -/

/-- Reads a range from outside, page by page; or the cause of a fault and the page's part it met. -/
def State.windowRead (asid : Nat) : List (Nat × Nat) → State → State × Except (Nat × Nat) (List Byte)
  | [], s => (s, .ok [])
  | (va, n) :: r, s =>
    match s.outerRead asid va n with
    | (s1, .error c) => (s1, .error (c, va))
    | (s1, .ok bs) =>
      match State.windowRead asid r s1 with
      | (s2, .ok rest) => (s2, .ok (bs ++ rest))
      | (s2, .error c) => (s2, .error c)

/-- Writes a range from outside, page by page: the state, and the cause of a fault with the first byte it met. -/
def State.windowWrite (asid : Nat) : List (Nat × Nat) → List Byte → State → State × Option (Nat × Nat)
  | [], _, s => (s, none)
  | (va, n) :: r, bs, s =>
    match s.outerWrite asid va (bs.take n) with
    | (s1, some c) => (s1, some (c, va))
    | (s1, none) => State.windowWrite asid r (bs.drop n) s1

/-- An arriving write or release of a peer: its earlier ones through the same port come first (R256); one that its home holds, or that
others hold back, waits, and wakes the links on its way that doze. -/
def State.receive (s : State) (p : Pkt) (asid va n : Nat) (held : Bool) (serve : State → State) : Host.Outcome State Fault Refusal :=
  let before := (s.rx.takeWhile (· != p)).any fun q => q.peer == p.peer && q.port == p.port
  if before || held then
    let woken := (s.dozing asid va n true).foldl State.wakeLink s
    let s1 := { woken with rx := if s.rx.contains p then s.rx else s.rx ++ [p] }
    if s1 = s then .refused .notEnabled else .next s1
  else .next (settle (serve { s with rx := s.rx.erase p }))

/-- A frame that waits leaves the queue when it is refused after all. -/
def State.unqueue (s : State) (p : Pkt) : State := { s with rx := s.rx.erase p }

/-- Serves an arriving write (R258). -/
def serveWrite (p : Pkt) (s : State) : Host.Outcome State Fault Refusal :=
  match s.windowOf p true with
  | none => .next ((s.unqueue p).refusePkt p (p.addr % 2 ^ 52) 0 1 (match s.windowOf p false with
      | none => 2
      | some _ => 0))
  | some (asid, va) => s.receive p asid va p.len (s.rangeHeld asid va p.len true) fun s =>
    match State.windowWrite asid (pageRanges va p.len) p.payload s with
    | (s1, none) => s1.answer p opAck []
    | (s1, some (c, at_)) => s1.refusePkt p at_ (s1.tagOf asid at_) 1 c

/-- TORJOR_WRITE (R257, R258). -/
def execTorjorWrite (p : Pkt) (s : State) : Host.Outcome State Fault Refusal :=
  if pktIs p opWrite && pktFull p then serveWrite p s else .refused .notEnabled

/-- TORJOR_POSTED_WRITE (R258, R259): acknowledged once it has performed. -/
def execTorjorPostedWrite (p : Pkt) (s : State) : Host.Outcome State Fault Refusal :=
  if pktIs p opPosted && pktFull p then serveWrite p s else .refused .notEnabled

/-- TORJOR_READ (R258). One that finds a link on its way dozing wakes it and comes again (DESIGN CHOICE, log 103). -/
def execTorjorRead (p : Pkt) (s : State) : Host.Outcome State Fault Refusal :=
  if !pktIs p opRead then .refused .notEnabled
  else match s.windowOf p false with
    | none => .next (s.refusePkt p (p.addr % 2 ^ 52) 0 0 2)
    | some (asid, va) =>
      if !(s.dozing asid va p.len false).isEmpty then .next ((s.dozing asid va p.len false).foldl State.wakeLink s)
      else if s.rangeHeld asid va p.len false then .refused .notEnabled
      else match State.windowRead asid (pageRanges va p.len) s with
        | (s1, .ok bs) => .next (settle (s1.answer p opReadResp bs))
        | (s1, .error (c, at_)) => .next (settle (s1.refusePkt p at_ (s1.tagOf asid at_) 0 c))

/-- TORJOR_READ_RESPONSE (R257): nothing of this device sends a read, so nothing waits for one. -/
def execTorjorReadResponse (p : Pkt) (s : State) : Host.Outcome State Fault Refusal :=
  if pktIs p opReadResp then .next s else .refused .notEnabled

/-- TORJOR_INVALID_OP (R257): dropped and logged. -/
def execTorjorInvalidOp (p : Pkt) (s : State) : Host.Outcome State Fault Refusal :=
  if p.op = 0 || opNack < p.op || p.ver != 1 then .next (s.logDropped p) else .refused .notEnabled

/-- TORJOR_REMOTE_RELEASE (R256). -/
def execTorjorRemoteRelease (p : Pkt) (s : State) : Host.Outcome State Fault Refusal :=
  if !pktIs p opRelease then .refused .notEnabled
  else match s.windowOf p true with
    | none => .next ((s.unqueue p).refusePkt p (p.addr % 2 ^ 52) 0 11 (match s.windowOf p false with
        | none => 2
        | some _ => 0))
    | some (asid, va) => s.receive p asid va objBytes (s.holds asid va true) fun s =>
      if va % 64 != 0 then s.refusePkt p va (s.tagOf asid va) 11 2
      else match s.extRelease asid va with
        | (s1, .ok _) => s1.answer p opAck []
        | (s1, .error c) => s1.refusePkt p va (s1.tagOf asid va) 11 c

/-! ### Posted stores (R259) -/

/-- The field's count goes down, and the field may complete (R170). -/
def State.unpost (s : State) (x : Posted) : State :=
  let s1 := { s with posted := s.posted.filter fun q => q.num != x.num }
  match s1.fields.findIdx? fun f => f.id == x.field && f.ctx == x.ctx && decide (0 < f.posted) with
  | none => s1
  | some fi => (s1.updField fi fun f => { f with posted := f.posted - 1 }).endField fi

/-- A posted store fails: a context fault of cause 8, and a log entry of KIND 10 and CAUSE 4. -/
def State.failPosted (s : State) (x : Posted) : State :=
  contextFault x.ctx 8 ({ s with posted := s.posted.filter fun q => q.num != x.num }.logIo x.va (s.tagOf (s.asidOfCtx x.ctx) x.va) 10 4 x.who)

/-- The posted store a frame answers: the peer's, with its PSN, under which no contribution was sent. -/
def State.postedOf (s : State) (p : Pkt) : Option Posted := s.posted.find? fun q => q.peer == p.peer && q.psn == p.psn

/-- Reference cycles of 10 ms. -/
def ackTime : Nat := 1000000

/-- No acknowledgement has arrived within 10 ms (R259). -/
def Posted.late (now : Nat) (x : Posted) : Bool := decide (x.since + ackTime ≤ now)

/-- POSTED_STORE_TIMEOUT (R259): no acknowledgement within 10 ms. -/
def execPostedStoreTimeout (n : Nat) (s : State) : Host.Outcome State Fault Refusal :=
  match s.posted.find? fun q => q.num == n && q.late s.ioCycle with
  | none => .refused .notEnabled
  | some x => .next (s.failPosted x)

/-- TORJOR_NACK (R259): the posted store it answers fails; any other is dropped. -/
def execTorjorNack (p : Pkt) (s : State) : Host.Outcome State Fault Refusal :=
  if !pktIs p opNack then .refused .notEnabled
  else match s.sender p, s.postedOf p with
    | some _, some x => .next (s.failPosted x)
    | _, _ => .next s

/-- Sends frames again, with their PSNs: (PSN, ADDR, payload). -/
def State.resend (s : State) (peer op ctag : Nat) (fs : List (Nat × Nat × List Byte)) : State :=
  match s.peerOf? peer with
  | none => s
  | some e =>
    let frame := fun x : Nat × Nat × List Byte =>
      Msg.frame e.port e.v6 e.addrHi e.addrLo e.udp torjorPort 1 op (Config.ownIndex peer) x.1 x.2.1 x.2.2.length ctag x.2.2
    { s with out := s.out ++ fs.map frame }

/-- TORJOR_RETRANSMIT (R257): what has not been acknowledged is sent again, with its PSN. -/
def execTorjorRetransmit (r : Resend) (s : State) : Host.Outcome State Fault Refusal :=
  match r with
  | .posted n =>
    match s.posted.find? fun q => q.num == n with
    | none => .refused .notEnabled
    | some x => .next (s.resend x.peer opPosted 0 [(x.psn, x.addr, x.payload)])
  | .contribution n =>
    match s.reducs.find? fun q => q.num == n && q.sent && !q.frames.isEmpty with
    | none => .refused .notEnabled
    | some q => .next (s.resend (q.peers.headD 0) opContrib q.ctag q.frames)

/-! ### Service requests (R260) -/

/-- SVCMISS counts one more, saturating (Table 17.5). -/
def Svc.missed (v : Svc) : Svc := { v with miss := min (2 ^ 32 - 1) (v.miss + 1) }

/-- TORJOR_SERVICE_REQUEST (R260). -/
def execTorjorServiceRequest (p : Pkt) (s : State) : Host.Outcome State Fault Refusal :=
  if !pktIs p opService || !pktFull p then .refused .notEnabled
  else match s.svcs.findIdx? fun v => v.svc != 0 && v.svc == p.addr with
    | none => .next (s.answer p opNack [])
    | some k =>
      let v := s.svcs.getD k Svc.reset
      let miss := fun s : State => { s with svcs := s.svcs.modify k Svc.missed }.answer p opNack []
      if decide (8 * v.maxw < p.len) || (s.goodCtx v.ctx).isNone then .next (miss s)
      else if !s.svcRoom v then .next (miss s)
      else .next ((State.serveSvc [⟨k, p.peer, p.payload⟩] s).answer p opAck [])

/-! ### Reductions (R261-R264) -/

/-- The failure bit of a collective timeline (R262). -/
def collFail (n : Nat) : W64 := BitVec.ofNat 64 (2 ^ 63 + n)

/-- Bit 63 of a collective timeline. -/
def collFailed (v : W64) : Bool := v.getLsbD 63

/-- Bytes of an element. -/
def Reduc.esz (r : Reduc) : Nat := if r.wide then 8 else 4
/-- Bytes of a contribution. -/
def Reduc.size (r : Reduc) : Nat := r.count * r.esz

/-- The live colony that a REDUCE or COLLRESET names (R261). -/
def State.collColony (s : State) (m : Cmd) : Option Nat :=
  s.colonies.findIdx? fun c => c.alive && c.index == fld m.w4 32 16 && (match s.fields[c.field]? with
    | none => false
    | some f => f.live && f.ctx == m.ctx && f.id == fld m.w4 0 32)

/-- The operation of Table 17.9. -/
def reduceOp (n : Nat) : AtomOp :=
  match n with
  | 0 => .add
  | 1 => .minS
  | 2 => .minN
  | 3 => .maxS
  | 4 => .maxN
  | _ => .addF32

/-- Value of a collective timeline. -/
def State.collValue (s : State) (j k : Nat) : W64 :=
  match s.colonies[j]? with
  | none => 0
  | some c => c.collTl.getD k 0

/-- Sets a collective timeline. -/
def State.setColl (s : State) (j k : Nat) (v : W64) : State :=
  s.updColony j fun c => { c with collTl := c.collTl.set k v }

/-- The reduction leaves the engine. -/
def State.dropReduc (s : State) (r : Reduc) : State := { s with reducs := s.reducs.filter fun x => x.num != r.num }

/-- The largest number such that every REDUCE numbered so or below has ended (R143). -/
def State.collReached (s : State) (j k : Nat) : Nat :=
  let open_ := (s.reducs.filter fun r => r.colony == j && r.cctx == k).map fun r => r.number
  let issued := match s.colonies[j]? with
    | none => 0
    | some c => c.collIssued.getD k 0
  open_.foldl (fun a n => min a (n - 1)) issued

/-- The reduction commits: the timeline advances, unless it holds a failure (R262, R264), and the command completes. -/
def State.endReduc (s : State) (r : Reduc) : State :=
  let s1 := s.dropReduc r
  let s2 := if collFailed (s1.collValue r.colony r.cctx) then s1
    else s1.setColl r.colony r.cctx (BitVec.ofNat 64 (s1.collReached r.colony r.cctx))
  settle (s2.complete r.host 0 (s2.collValue r.colony r.cctx) 0)

/-- The reduction fails (R262, R263): the failure value, and the command completes with FAILED. -/
def State.failReduc (s : State) (r : Reduc) : State :=
  let s1 := (s.dropReduc r).setColl r.colony r.cctx (collFail r.number)
  settle (s1.complete r.host failedSt (collFail r.number) 0)

/-- A failing destination also tells every contributor (R262). -/
def State.abortReduc (s : State) (r : Reduc) : State :=
  (r.peers.foldl (fun s x => (s.sendPeer x opAbort 0 r.ctag []).1) s).failReduc r

/-- 16-bit peer indices of a list. -/
def peerList : Nat → List Byte → List Nat
  | 0, _ => []
  | n + 1, bs => leNat (bs.take 2) :: peerList n (bs.drop 2)

/-- How long a reduction waits, in reference cycles: the command's timeout in ms, 100 where it is 0, and 10 ms more at a contributor
(R262, R263). -/
def reduceLimit (ms role : Nat) : Nat := (if ms = 0 then 100 else ms) * 100000 + role * ackTime

/-- A reduction has waited for so long. -/
def Reduc.late (now : Nat) (r : Reduc) : Bool := decide (r.since + r.limit ≤ now)

/-- The reduction of a command. -/
def reducOf (m : Cmd) (s : State) (ref : CmdRef) (j : Nat) (peers : List Nat) : Reduc where
  num := s.nextReduc
  colony := j
  cctx := fld m.w4 48 2
  number := (match s.colonies[j]? with
    | none => 0
    | some c => c.collIssued.getD (fld m.w4 48 2) 0) + 1
  ctag := m.tag
  role := fld m.w6 4 1
  asid := s.asidOfCtx m.ctx
  ctxh := m.ctx
  va := m.w5
  wide := fld m.w6 0 1 == 1
  op := fld m.w6 1 3
  count := fld m.w6 32 32
  peers := peers
  got := []
  lastPsn := []
  sent := false
  frames := []
  since := s.ioCycle
  limit := reduceLimit (fld m.w6 16 16) (fld m.w6 4 1)
  host := ref

/-- Takes a reduction in (R261): it has its number. -/
def State.addReduc (s : State) (r : Reduc) : State :=
  { s with reducs := s.reducs ++ [r], nextReduc := s.nextReduc + 1 }.updColony r.colony fun c =>
    { c with collIssued := c.collIssued.set r.cctx r.number }

/-- REDUCE's effect. -/
def reduceEffect (m : Cmd) (ref : CmdRef) (s : State) : CmdOut :=
  match s.collColony m with
  | none => .done s badArg 0 0
  | some j =>
    if collFailed (s.collValue j (fld m.w4 48 2)) then .done s busySt 0 0
    else if fld m.w6 4 1 = 1 then .later (s.addReduc (reducOf m s ref j [m.w7]))
    else
      let n := fld m.w6 5 8 + 1
      match s.fwRead (s.asidOfCtx m.ctx) m.w7 (2 * n) with
      | (s1, none) => .done s1 badArg 0 0
      | (s1, some bs) => .later (s1.addReduc (reducOf m s1 ref j (peerList n bs)))

/-- REDUCE (R261-R264, Table 17.9). -/
def execReduce (m : Cmd) (s : State) : Host.Outcome State Fault Refusal :=
  runCmd m {
    opc := 0xD, sub := 0, root := false, reduced := false
    named := zeroFrom m.w4 50 && fld m.w6 13 3 == 0 && zeroFrom m.w7 (if fld m.w6 4 1 = 1 then 11 else 52)
    inRange := fun s => ctxOk m s && vaOk m.w5 1 && fld m.w6 1 3 ≤ 5 && (fld m.w6 1 3 != 5 || fld m.w6 0 1 == 0)
      && fld m.w6 16 16 ≤ 1000 && (fld m.w6 4 1 == 0 || decide (m.w7 ≤ 0x7FE)) && (s.collColony m).isSome
    hold := fun s => if fld m.w6 4 1 = 1 then none else holdRead m.ctx m.w7 (2 * (fld m.w6 5 8 + 1)) s
    effect := reduceEffect m } s

/-- COLLRESET (R264). -/
def execCollreset (m : Cmd) (s : State) : Host.Outcome State Fault Refusal :=
  runCmd m {
    opc := 0xE, sub := 0, root := false, reduced := false
    named := zeroFrom m.w4 50 && m.w5 == 0 && m.w6 == 0 && m.w7 == 0
    inRange := fun s => ctxOk m s && (s.collColony m).isSome
    hold := noHold
    effect := fun _ s => match s.collColony m with
      | none => .done s badArg 0 0
      | some j =>
        let k := fld m.w4 48 2
        let v := (s.collValue j k).toNat % 2 ^ 63
        okWith (s.setColl j k (BitVec.ofNat 64 v)) v 0 } s

/-- What an engine read of the source range gave: the bytes, and the VAs whose pages are not resident. -/
structure SourceRun where
  s : State
  bytes : List Byte
  faults : List LaneFault
  nonres : List Nat
  poison : Bool
deriving DecidableEq, Repr

/-- Reads one page's part of a source range at its home (R141); the range is not held. -/
def sourcePage (asid : Nat) (x : SourceRun) (r : Nat × Nat) : SourceRun :=
  match x.s.readHome asid r.1 r.2 with
  | (s1, .ok bs, _) => { x with s := s1, bytes := x.bytes ++ bs }
  | (s1, .fault c, _) => { x with s := s1, faults := x.faults ++ [⟨64, c, r.1⟩] }
  | (s1, .poison, _) => { x with s := s1, poison := true }
  | (s1, _, _) => { x with s := s1, bytes := x.bytes ++ List.replicate r.2 0, nonres := x.nonres ++ [r.1] }

/-- Reads a range for an engine that no swarm drives. -/
def sourceRun (asid va n : Nat) (s : State) : SourceRun :=
  (pageRanges va n).foldl (sourcePage asid) ⟨s, [], [], [], false⟩

/-- A contribution as packets: (offset, payload); ADDR is the offset of the packet's first byte (log 58). -/
def contribParts : Nat → Nat → List Byte → List (Nat × List Byte)
  | 0, _, _ => []
  | fuel + 1, o, bs =>
    (o, bs.take maxPayload) :: (if bs.length ≤ maxPayload then [] else contribParts fuel (o + maxPayload) (bs.drop maxPayload))

/-- Sends a contribution (R263), and keeps its frames until they are acknowledged (R257). -/
def State.sendContrib (s : State) (r : Reduc) (bs : List Byte) : State :=
  let (s1, fs) := (contribParts (bs.length / maxPayload + 1) 0 bs).foldl (fun (acc : State × List (Nat × Nat × List Byte)) x =>
    let (t, psn) := acc.1.sendPeer (r.peers.headD 0) opContrib x.1 r.ctag x.2
    (t, acc.2 ++ [(psn, x.1, x.2)])) (s, [])
  { s1 with reducs := s1.reducs.map fun q => if q.num == r.num then { q with frames := fs } else q }

/-- Logs a source page that is not resident with KIND 5; the spec gives the entry no cause: it is free (R263, log 88). -/
def State.logSource (asid : Nat) (s : State) (va : Nat) : State :=
  { s.logFaults asid 5 Who.none [⟨64, Config.freeNat s.fresh % 16, va⟩] with fresh := s.fresh + 1 }

/-- REDUCE_SOURCE_READ (R263). -/
def execReduceSourceRead (n : Nat) (s : State) : Host.Outcome State Fault Refusal :=
  match s.reducs.find? fun r => r.num == n && r.role == 1 && !r.sent with
  | none => .refused .notEnabled
  | some r =>
    if s.rangeHeld r.asid r.va r.size false then .refused .notEnabled
    else
      let x := sourceRun r.asid r.va r.size s
      let abort := fun s : State => (s.sendPeer (r.peers.headD 0) opAbort 0 r.ctag []).1
      let s1 := x.nonres.foldl (State.logSource r.asid) (x.s.logFaults r.asid 5 Who.none x.faults)
      let s2 := { s1 with reducs := s1.reducs.map fun q => if q.num == n then { q with sent := true } else q }
      if x.poison then .next (settle ((abort s2).consume r.colony))
      else if !x.nonres.isEmpty || !x.faults.isEmpty then .next (settle (abort s2))
      else .next (settle (s2.sendContrib r x.bytes))

/-- Bytes gathered from a peer. -/
def Reduc.from? (r : Reduc) (peer : Nat) : List Byte :=
  match r.got.find? fun g => g.1 == peer with
  | none => []
  | some g => g.2

/-- Gathers a packet: the bytes that continue what its sender has sent (log 59). -/
def Reduc.gather (r : Reduc) (p : Pkt) : Reduc :=
  let old := r.from? p.peer
  if old.length = p.addr && decide (p.addr + p.len ≤ r.size) then
    { r with
      got := (p.peer, old ++ p.payload) :: r.got.filter fun g => g.1 != p.peer
      lastPsn := spPut 0 r.lastPsn p.peer p.psn }
  else r

/-- Every contributor has sent everything. -/
def Reduc.complete (r : Reduc) : Bool :=
  r.peers.all fun x => (r.got.any fun g => g.1 == x) && (r.from? x).length == r.size

/-- Element `k` of a contribution. -/
def Reduc.elem (r : Reduc) (bs : List Byte) (k : Nat) : W64 := BitVec.ofNat 64 (leNat ((bs.drop (k * r.esz)).take r.esz))

/-- One combining step (R62, R262). -/
def Reduc.step (r : Reduc) (a b : W64) : W64 := atomNew (reduceOp r.op) r.wide a b 0

/-- Element `k` of the combined contributions, in ascending rank. -/
def Reduc.total (r : Reduc) (k : Nat) : W64 :=
  match r.peers.map fun x => r.elem (r.from? x) k with
  | [] => 0
  | v :: vs => vs.foldl r.step v

/-- Combines one element into the destination (R262). -/
def commitElem (r : Reduc) (acc : State × List LaneFault) (k : Nat) : State × List LaneFault :=
  let va := r.va + k * r.esz
  match acc.1.askWrite r.asid va with
  | (s1, .home m) | (s1, .l1 m) =>
    let (s2, old) := s1.homeVal m va r.esz
    (s2.homePut m r.asid va r.esz (r.step old (r.total k)), acc.2)
  | (s1, .peer pa) => (s1.postStore r.ctxh nobody pa va Who.none (leBytes r.esz (r.total k).toNat), acc.2)
  | (s1, .fault c) => (s1, acc.2 ++ [⟨64, c, va⟩])
  | (s1, _) => (s1.bounce r.asid va (.red (reduceOp r.op) r.wide va (r.total k)) Who.none, acc.2)

/-- The elements of the destination: each takes a bounce entry of its own. -/
def Reduc.sends (r : Reduc) : Sends := (List.range r.count).map fun k => (r.va + k * r.esz, true)

/-- The reduction commits (R262, R263): the destination, the answers to the contributors' last packets (log 58), the timeline. -/
def State.commit (s : State) (r : Reduc) : State :=
  let (s1, fs) := (List.range r.count).foldl (commitElem r) (s, [])
  let s2 := s1.logFaults r.asid 4 Who.none fs
  (r.peers.foldl (fun s x => s.resend x opAck r.ctag [(spGet 0 r.lastPsn x, 0, [])]) s2).endReduc r

/-- TORJOR_REDUCE_CONTRIBUTION (R262, R263): one that no reduction waits for is dropped; from a peer outside the list, it
is logged too. -/
def execTorjorReduceContribution (p : Pkt) (s : State) : Host.Outcome State Fault Refusal :=
  if !pktIs p opContrib || !pktFull p then .refused .notEnabled
  else match s.reducs.find? fun r => r.role == 0 && r.ctag == p.ctag with
    | none => .next s
    | some r =>
      if (s.sender p).isNone || !r.peers.contains p.peer then .next (s.logDropped p)
      else
        let r1 := r.gather p
        if !r1.complete then .next { s with reducs := s.reducs.map fun q => if q.num == r.num then r1 else q }
        else if !s.sendsOk r.asid [r.sends] then .refused .notEnabled
        else .next (s.commit r1)

/-- The reduction a frame of a peer speaks of, as destination or as contributor. -/
def State.reducFrom (s : State) (role : Nat) (p : Pkt) : Option Reduc :=
  s.reducs.find? fun r => r.role == role && r.ctag == p.ctag && r.peers.contains p.peer

/-- TORJOR_REDUCE_ABORT (R262, R263). -/
def execTorjorReduceAbort (p : Pkt) (s : State) : Host.Outcome State Fault Refusal :=
  if !pktIs p opAbort then .refused .notEnabled
  else match s.sender p, s.reducFrom 0 p, s.reducFrom 1 p with
    | some _, some r, _ => .next (s.abortReduc r)
    | some _, none, some r => .next (s.failReduc r)
    | _, _, _ => .next s

/-- TORJOR_ACK (R170, R259, R263): of a posted store, by its PSN, or the commit of a contribution, by its CTAG and the PSN of one of its
packets; packets of a peer share one numbering, so no frame answers both (log 58). Any other is dropped. -/
def execTorjorAck (p : Pkt) (s : State) : Host.Outcome State Fault Refusal :=
  if !pktIs p opAck then .refused .notEnabled
  else match s.sender p, s.postedOf p, (s.reducFrom 1 p).filter fun r => r.frames.any fun f => f.1 == p.psn with
    | some _, some x, _ => .next (settle (s.unpost x))
    | some _, none, some r => .next (s.endReduc r)
    | _, _, _ => .next s

/-- REDUCE_TIMEOUT (R262). -/
def execReduceTimeout (n : Nat) (s : State) : Host.Outcome State Fault Refusal :=
  match s.reducs.find? fun r => r.num == n && r.role == 0 && r.late s.ioCycle with
  | none => .refused .notEnabled
  | some r => .next (s.abortReduc r)

/-- REDUCE_CONTRIBUTOR_TIMEOUT (R263). -/
def execReduceContributorTimeout (n : Nat) (s : State) : Host.Outcome State Fault Refusal :=
  match s.reducs.find? fun r => r.num == n && r.role == 1 && r.late s.ioCycle with
  | none => .refused .notEnabled
  | some r => .next (s.failReduc r)

/-! ### Storage (R266) -/

/-- STORIO's effect: a write's data is read first, and a source that faults sends nothing. -/
def storioEffect (m : Cmd) (ref : CmdRef) (s : State) : CmdOut :=
  let asid := s.asidOfCtx m.ctx
  let write := fld m.w4 48 1 == 1
  let n := fld m.w6 0 32
  let x := if write then sourceRun asid m.w7 (n * Config.blockSize) s else ⟨s, [], [], [], false⟩
  let s1 := x.s.logFaults asid 5 Who.none x.faults
  if !x.faults.isEmpty || x.poison then .done s1 failedSt 0 0
  else .later { s1 with
    stors := s1.stors ++ [⟨s1.nextStor, write, asid, m.ctx, m.w7, n, ref⟩]
    nextStor := s1.nextStor + 1
    out := s1.out ++ [.nvme s1.nextStor (fld m.w4 0 32) (fld m.w4 32 11) write m.w5 n x.bytes] }

/-- STORIO (R266, Table 17.9). -/
def execStorio (m : Cmd) (s : State) : Host.Outcome State Fault Refusal :=
  runCmd m {
    opc := 0x10, sub := 0, root := false, reduced := false
    named := fld m.w4 43 5 == 0 && zeroFrom m.w4 49 && zeroFrom m.w6 32
    inRange := fun s => spaceOk m s && vaOk m.w7 1 && (s.peerOf? (fld m.w4 32 11)).isSome
    hold := fun s => if fld m.w4 48 1 = 1 then holdRead m.ctx m.w7 (fld m.w6 0 32 * Config.blockSize) s else none
    effect := storioEffect m } s

/-- Writes a range for an engine that no swarm drives, page by page (R111, R142). -/
def engineStore (h asid : Nat) (bs : List Byte) (base : Nat) (acc : State × List LaneFault) (r : Nat × Nat) :
    State × List LaneFault :=
  let part := (bs.drop (r.1 - base)).take r.2
  match acc.1.askWrite asid r.1 with
  | (s1, .home m) | (s1, .l1 m) => ((s1.homeWrite m asid r.1 part).dirLines m r.1 part.length false, acc.2)
  | (s1, .peer pa) => (s1.postLines h nobody pa r.1 Who.none part, acc.2)
  | (s1, .fault c) => (s1, acc.2 ++ [⟨64, c, r.1⟩])
  | (s1, _) => (s1.bounceBytes asid r.1 part Who.none, acc.2)

/-- NVME_COMPLETION (R266): a read's data goes to memory, then the command completes; a failure is FAILED with the NVMe
status. -/
def execNvmeCompletion (id status : Nat) (data : List Byte) (s : State) : Host.Outcome State Fault Refusal :=
  match s.stors.find? fun x => x.num == id with
  | none => .refused .notEnabled
  | some x =>
    let s0 := { s with stors := s.stors.filter fun y => y.num != id }
    if status != 0 then .next (settle (s0.complete x.host failedSt (BitVec.ofNat 64 status) 0))
    else if x.write then .next (settle (s0.complete x.host 0 0 0))
    else if data.length != x.blocks * Config.blockSize || s.rangeHeld x.asid x.va data.length true then
      .refused .notEnabled
    else
      let (s1, fs) := (pageRanges x.va data.length).foldl (engineStore x.ctxh x.asid data x.va) (s0, [])
      .next (settle ((s1.logFaults x.asid 4 Who.none fs).complete x.host 0 0 0))

/-! ### Links that die (R233, R234) -/

/-- Poison units of a range. -/
def unitsOf (pa n : Nat) : List Nat := (List.range (n / 16 + 2)).map (pa / 16 + ·) |>.filter fun u => u * 16 < pa + n

/-- Where a line stands in memory; one of the queue SRAM is named by its place. -/
def State.linePa (s : State) (d : DirEntry) : Option Nat :=
  if d.asid = 0 then some (d.line * 64) else (s.mapOf d.asid (d.line * 64)).map fun m => m.paOf (d.line * 64)

/-- Every coherent line that a die holds modified, and every word whose update-only copy it holds, is poisoned at its
home (R167, R234). -/
def State.poisonHeld (s : State) (die : Nat) : State :=
  let mine := fun d : DirEntry => d.state == DirState.modified && (match d.owner with
    | none => false
    | some k => k.1 == die)
  let lines := (s.ports.flatMap fun p => p.dir.filter mine) ++ s.ioDir.filter mine
  let us := lines.flatMap (fun d => match s.linePa d with
      | none => []
      | some pa => unitsOf pa 64) ++ (s.upd.filter fun u => u.core.1 == die).flatMap fun u => unitsOf u.pa 4
  { s with
    poison := us.foldl (fun acc u => insNat u acc) s.poison
    upd := s.upd.filter fun u => u.core.1 != die }

/-- The caches of a die are gone. -/
def Die.cut (d : Die) : Die :=
  { d with dead := true, busy := false, trans := none, elapsed := 0, parking := false, waking := false
           clusters := d.clusters.map fun c => { c with cores := c.cores.map fun k => { k with l1 := [], icache := [], victims := [] } } }

/-- A compute die goes DEAD (R234). -/
def State.dieGone (s : State) (die : Nat) : State :=
  let js := s.runningOn die
  let s1 := (((s.poisonHeld die).forgetDie die).updDie die Die.cut).setEntries die (fun _ => true) vdieDead
  let s2 := { s1 with dieDead := s1.dieDead ||| BitVec.twoPow 32 die }
  settle (js.foldl State.consume s2)

/-- Every context takes a context fault of a cause. -/
def faultAll (cause : Nat) (s : State) : State := s.ctxs.foldl (fun s c => contextFault c.handle cause s) s

/-- Numbers from here up name the link of a fabric peer. -/
def peerLinkBase : Nat := 64

/-- The link of a socket dies (R233, R234). -/
def State.linkDies (s : State) (sock : Nat) : State :=
  let s1 := (s.updLink sock (Link.enter lkDead)).logLink sock 2
  if sock < 4 then s1.dieGone sock else faultAll 7 s1

/-- LINK_DEAD_TIMEOUT (R231, R233, R234): an ACTIVE link through which a request goes unanswered is SILENT, after a time that the spec
does not give (DESIGN CHOICE, log 83); when the dead timer reaches T_dead the link is DEAD. Of a fabric peer, every reduction it
contributes to fails (R262). -/
def execLinkDeadTimeout (sock : Nat) (s : State) : Host.Outcome State Fault Refusal :=
  if peerLinkBase ≤ sock then
    let x := sock - peerLinkBase
    match s.peerOf? x with
    | none => .refused .notEnabled
    | some _ => .next ((s.reducs.filter fun r => r.role == 0 && r.peers.contains x).foldl State.abortReduc s)
  else match s.link? sock, s.deadTimer sock with
    | some l, some t =>
      if l.state != lkActive && l.state != lkSilent then .refused .notEnabled
      else if deadTime ≤ t then .next (s.linkDies sock)
      else if l.state = lkActive then .next (s.updLink sock fun l => { l with state := lkSilent, asked := some l.refCycle })
      else .refused .notEnabled
    | _, _ => .refused .notEnabled

end Sys2Proof.Machine
end

