-- ==== Sys2Proof/Machine/Scalar.lean ====
section
/-! DEFINITION. Scalar arithmetic (R354-R356, Table 23.2): every form reads at issue and writes sD 2 clocks later. -/

namespace Sys2Proof.Machine

/-- Clocks of the scalar forms (Table 13.2). -/
def scalarClocks : Nat := 2

/-- A form of two scalar sources. -/
def scalarBin (c : Ctrl) (d a b : SReg) (f : W64 → W64 → W64) (s : State) : Host.Outcome State Fault Refusal :=
  issue c {} false (fun e =>
    orTrap (e.pre [d.val, a.val, b.val] [.sc a.val, .sc b.val]) fun _ =>
      scalarResult e [(d.val, f (e.scalar 0 a.val) (e.scalar 1 b.val))] (some scalarClocks)) s

/-- A form of one scalar source and an immediate. -/
def scalarImm (c : Ctrl) (d a : SReg) (b : W64) (f : W64 → W64 → W64) (s : State) : Host.Outcome State Fault Refusal :=
  issue c {} false (fun e =>
    orTrap (e.pre [d.val, a.val] [.sc a.val]) fun _ =>
      scalarResult e [(d.val, f (e.scalar 0 a.val) b)] (some scalarClocks)) s

/-- Shift count of the register forms: sB [5:0]. -/
def shiftN (b : W64) : Nat := b.toNat % 64

/-- A truth value as 1 or 0. -/
def flagWord (b : Bool) : W64 := if b then 1 else 0

/-- Less than, signed or unsigned. -/
def sltW (sgn : Bool) (a b : W64) : Bool := if sgn then a.slt b else a.ult b

/-- The smaller (R354). -/
def sminW (sgn : Bool) (a b : W64) : W64 := if sltW sgn b a then b else a
/-- The larger. -/
def smaxW (sgn : Bool) (a b : W64) : W64 := if sltW sgn a b then b else a

/-- SADD. -/
def execSadd (c : Ctrl) (d a b : SReg) (s : State) : Host.Outcome State Fault Refusal :=
  scalarBin c d a b (fun a b => a + b) s

/-- SSUB. -/
def execSsub (c : Ctrl) (d a b : SReg) (s : State) : Host.Outcome State Fault Refusal :=
  scalarBin c d a b (fun a b => a - b) s

/-- SMUL. -/
def execSmul (c : Ctrl) (d a b : SReg) (s : State) : Host.Outcome State Fault Refusal :=
  scalarBin c d a b (fun a b => a * b) s

/-- SAND. -/
def execSand (c : Ctrl) (d a b : SReg) (s : State) : Host.Outcome State Fault Refusal :=
  scalarBin c d a b (fun a b => a &&& b) s

/-- SOR. -/
def execSor (c : Ctrl) (d a b : SReg) (s : State) : Host.Outcome State Fault Refusal :=
  scalarBin c d a b (fun a b => a ||| b) s

/-- SXOR. -/
def execSxor (c : Ctrl) (d a b : SReg) (s : State) : Host.Outcome State Fault Refusal :=
  scalarBin c d a b (fun a b => a ^^^ b) s

/-- SSHL: by sB [5:0]. -/
def execSshl (c : Ctrl) (d a b : SReg) (s : State) : Host.Outcome State Fault Refusal :=
  scalarBin c d a b (fun a b => a <<< shiftN b) s

/-- SSHR: zeros in. -/
def execSshr (c : Ctrl) (d a b : SReg) (s : State) : Host.Outcome State Fault Refusal :=
  scalarBin c d a b (fun a b => a >>> shiftN b) s

/-- SSRA: copies of bit 63 in. -/
def execSsra (c : Ctrl) (d a b : SReg) (s : State) : Host.Outcome State Fault Refusal :=
  scalarBin c d a b (fun a b => a.sshiftRight (shiftN b)) s

/-- SMIN. -/
def execSmin (c : Ctrl) (sgn : Bool) (d a b : SReg) (s : State) : Host.Outcome State Fault Refusal :=
  scalarBin c d a b (sminW sgn) s

/-- SMAX. -/
def execSmax (c : Ctrl) (sgn : Bool) (d a b : SReg) (s : State) : Host.Outcome State Fault Refusal :=
  scalarBin c d a b (smaxW sgn) s

/-- SSEQ. -/
def execSseq (c : Ctrl) (d a b : SReg) (s : State) : Host.Outcome State Fault Refusal :=
  scalarBin c d a b (fun a b => flagWord (a == b)) s

/-- SSLT. -/
def execSslt (c : Ctrl) (sgn : Bool) (d a b : SReg) (s : State) : Host.Outcome State Fault Refusal :=
  scalarBin c d a b (fun a b => flagWord (sltW sgn a b)) s

/-- SADDI, with the immediate sign-extended. -/
def execSaddi (c : Ctrl) (d a : SReg) (imm : BitVec 12) (s : State) : Host.Outcome State Fault Refusal :=
  scalarImm c d a (imm.signExtend 64) (fun a b => a + b) s

/-- SANDI, with the immediate sign-extended. -/
def execSandi (c : Ctrl) (d a : SReg) (imm : BitVec 12) (s : State) : Host.Outcome State Fault Refusal :=
  scalarImm c d a (imm.signExtend 64) (fun a b => a &&& b) s

/-- SORI, with the immediate sign-extended. -/
def execSori (c : Ctrl) (d a : SReg) (imm : BitVec 12) (s : State) : Host.Outcome State Fault Refusal :=
  scalarImm c d a (imm.signExtend 64) (fun a b => a ||| b) s

/-- SXORI, with the immediate sign-extended. -/
def execSxori (c : Ctrl) (d a : SReg) (imm : BitVec 12) (s : State) : Host.Outcome State Fault Refusal :=
  scalarImm c d a (imm.signExtend 64) (fun a b => a ^^^ b) s

/-- SSHLI. -/
def execSshli (c : Ctrl) (d a : SReg) (n : Fin 64) (s : State) : Host.Outcome State Fault Refusal :=
  scalarImm c d a 0 (fun a _ => a <<< n.val) s

/-- SSHRI. -/
def execSshri (c : Ctrl) (d a : SReg) (n : Fin 64) (s : State) : Host.Outcome State Fault Refusal :=
  scalarImm c d a 0 (fun a _ => a >>> n.val) s

/-- SSRAI. -/
def execSsrai (c : Ctrl) (d a : SReg) (n : Fin 64) (s : State) : Host.Outcome State Fault Refusal :=
  scalarImm c d a 0 (fun a _ => a.sshiftRight n.val) s

/-- SSLTI: a signed comparison. -/
def execSslti (c : Ctrl) (d a : SReg) (imm : BitVec 12) (s : State) : Host.Outcome State Fault Refusal :=
  scalarImm c d a (imm.signExtend 64) (fun a b => flagWord (sltW true a b)) s

/-- SSET (R355): the immediate sign-extended from 26 bits. -/
def execSset (c : Ctrl) (d : SReg) (imm : BitVec 26) (s : State) : Host.Outcome State Fault Refusal :=
  issue c {} false (fun e =>
    orTrap (e.pre [d.val] []) fun _ => scalarResult e [(d.val, imm.signExtend 64)] (some scalarClocks)) s

/-- SSETHI (R355): [51:26] from the immediate, [63:52] zero, [25:0] kept. -/
def execSsethi (c : Ctrl) (d : SReg) (imm : BitVec 26) (s : State) : Host.Outcome State Fault Refusal :=
  issue c {} false (fun e =>
    orTrap (e.pre [d.val] [.sc d.val]) fun _ =>
      scalarResult e [(d.val, (imm ++ (e.scalar 0 d.val).setWidth 26).setWidth 64)] (some scalarClocks)) s

end Sys2Proof.Machine
end

