-- ==== Sys2Proof/Machine/VecFloat.lean ====
section
/-! DEFINITION. Vector floating point (R324-R326), the special functions (R336) and the conversions CVT, PACK4 and UNPACK4
(R319, R320, R344, R345, R369, R370). -/

namespace Sys2Proof.Machine

/-- Clocks of FADD, FSUB, FMUL, FFMA and the conversions (Table 13.2). -/
def fpClocks : Nat := 6
/-- Clocks of FMIN and FMAX: 4 to 6, which of them is free (R326, log 12). -/
def minMaxClocks (e : Env) : Nat := 4 + Config.freeNat (e.s.fresh + 250) % 3
/-- Clocks of FFN (Table 13.2). -/
def ffnClocks : Nat := 16

/-- A float instruction of two sources (R324). -/
def fpBin (c : Ctrl) (k : KReg) (t : FpT) (a b : Operand) (f : FFmt → Nat → Nat → Nat → Nat)
    (clocks : Env → Nat) (s : State) : Host.Outcome State Fault Refusal :=
  issue c { pushes := 1 } false (fun e =>
    orTrap (e.pre [] [.vec a false, .vec b false]) fun _ =>
      pushes e (e.mask k) (e.taint false a || e.taint false b)
        [List.zipWith (fun x y => perHalf t f x y 0) (e.read 0 a) (e.read 1 b)] (some (clocks e))) s

/-- FADD. -/
def execFadd (c : Ctrl) (k : KReg) (t : FpT) (rm : RM) (a b : Operand) (s : State) : Host.Outcome State Fault Refusal :=
  fpBin c k t a b (fAddCode rm) (fun _ => fpClocks) s

/-- FSUB. -/
def execFsub (c : Ctrl) (k : KReg) (t : FpT) (rm : RM) (a b : Operand) (s : State) : Host.Outcome State Fault Refusal :=
  fpBin c k t a b (fSubCode rm) (fun _ => fpClocks) s

/-- FMUL. -/
def execFmul (c : Ctrl) (k : KReg) (t : FpT) (rm : RM) (a b : Operand) (s : State) : Host.Outcome State Fault Refusal :=
  fpBin c k t a b (fMulCode rm) (fun _ => fpClocks) s

/-- FFMA: one rounding of the exact x × y + z. -/
def execFfma (c : Ctrl) (k : KReg) (t : FpT) (rm : RM) (a b z : Operand) (s : State) :
    Host.Outcome State Fault Refusal :=
  issue c { pushes := 1 } false (fun e =>
    orTrap (e.pre [] [.vec a false, .vec b false, .vec z false]) fun _ =>
      let zs := e.read 2 z
      let xy := List.zip (e.read 0 a) (e.read 1 b)
      pushes e (e.mask k) (e.taint false a || e.taint false b || e.taint false z)
        [List.zipWith (fun p w => perHalf t (fMaCode rm) p.1 p.2 w) xy zs] (some fpClocks)) s

/-- FMIN (R325). -/
def execFmin (c : Ctrl) (k : KReg) (t : FpT) (a b : Operand) (s : State) : Host.Outcome State Fault Refusal :=
  fpBin c k t a b (fMinMaxCode false) minMaxClocks s

/-- FMAX (R325). -/
def execFmax (c : Ctrl) (k : KReg) (t : FpT) (a b : Operand) (s : State) : Host.Outcome State Fault Refusal :=
  fpBin c k t a b (fMinMaxCode true) minMaxClocks s

/-- FFN (R336). -/
def execFfn (c : Ctrl) (k : KReg) (fn : FfnFn) (a : Operand) (s : State) : Host.Outcome State Fault Refusal :=
  issue c { pushes := 1 } false (fun e =>
    orTrap (e.pre [] [.vec a false]) fun _ =>
      pushes e (e.mask k) (e.taint false a) [(e.read 0 a).map (ffnEl fn)] (some ffnClocks)) s

/-! ### Conversions -/

/-- CVTOVF (R73) over the active lanes that have a value out of range. -/
def cvtOvf (m : W64) (bad : Nat → Bool) : Option Trap :=
  let b := m &&& maskOf bad
  if b = 0 then none else some (.lanes 0x13 0 b 0)

/-- One conversion, placed (R319); none for CVTOVF. -/
def cvtOne (dst src : TDesc) (rm : RM) (ov : OV) (w : Nat) : Option Nat :=
  (convert dst rm ov (srcValue src w)).map (placeBits dst)

/-- CVT (R319, R320). -/
def execCvt (c : Ctrl) (k : KReg) (rm : RM) (ov : OV) (a : Operand) (dst src : TDesc) (s : State) :
    Host.Outcome State Fault Refusal :=
  let sw := src.wide
  let dw := dst.wide
  issue c { pushes := wOf dw } false (fun e =>
    orTrap (e.pre [] [.vec a sw]) fun _ =>
      let rs := (e.readW 0 sw a).map fun x => cvtOne dst src rm ov x.toNat
      orTrap (cvtOvf (e.mask k) fun l => (rs.getD l none).isNone) fun _ =>
        let vs := rs.map fun r => BitVec.ofNat 64 (r.getD 0)
        pushes e (e.mask k) (e.taint sw a) (if dw then [vs.map lo32, vs.map hi32] else [vs.map lo32]) (some fpClocks)) s

/-- Operand codes `a` to `a + 3` (R344). -/
def run4 (a : Operand) : List Operand := [a, opShift a 1, opShift a 2, opShift a 3]

/-- Four bytes as an element, byte 0 lowest. -/
def bytes4 (b0 b1 b2 b3 : Nat) : W32 :=
  BitVec.ofNat 32 (b0 % 256 + b1 % 256 * 2 ^ 8 + b2 % 256 * 2 ^ 16 + b3 % 256 * 2 ^ 24)

/-- PACK4 (R344, R345). -/
def execPack4 (c : Ctrl) (k : KReg) (rm : RM) (ov : OV) (a : Operand) (dst src : TDesc) (s : State) :
    Host.Outcome State Fault Refusal :=
  issue c { pushes := 1 } false (fun e =>
    let ops := run4 a
    orTrap (e.pre [] (ops.map fun o => .vec o false)) fun _ =>
      let cols := ops.zipIdx.map fun p => (e.read p.2 p.1).map fun x => cvtOne dst src rm ov x.toNat
      let at_ := fun (j l : Nat) => (cols.getD j []).getD l none
      orTrap (cvtOvf (e.mask k) fun l => (List.range 4).any fun j => (at_ j l).isNone) fun _ =>
        pushes e (e.mask k) (ops.any fun o => e.taint false o)
          [lanes fun l => bytes4 ((at_ 0 l).getD 0) ((at_ 1 l).getD 0) ((at_ 2 l).getD 0) ((at_ 3 l).getD 0)]
          (some fpClocks)) s

/-- UNPACK4 (R369, R370): byte 3 is pushed first, byte 0 ends at age 0. -/
def execUnpack4 (c : Ctrl) (k : KReg) (rm : RM) (ov : OV) (a : Operand) (dst src : TDesc) (s : State) :
    Host.Outcome State Fault Refusal :=
  issue c { pushes := 4 } false (fun e =>
    orTrap (e.pre [] [.vec a false]) fun _ =>
      let xs := e.read 0 a
      let col := fun j : Nat => xs.map fun x => cvtOne dst src rm ov (fld x.toNat (8 * j) 8)
      let cols := (List.range 4).map col
      orTrap (cvtOvf (e.mask k) fun l => cols.any fun r => (r.getD l none).isNone) fun _ =>
        pushes e (e.mask k) (e.taint false a)
          (cols.reverse.map fun r => r.map fun x => BitVec.ofNat 32 (x.getD 0)) (some fpClocks)) s

end Sys2Proof.Machine
end

