-- ==== Sys2Proof/Machine/Dispatch.lean ====
section
/-! DEFINITION. One arm per instruction: each a call of its meaning. -/

namespace Sys2Proof.Machine

/-- The meaning of one step of the device. -/
def exec (i : Instr) (s : State) : Host.Outcome State Fault Refusal :=
  match i with
  | .nop c => Sys2Proof.Machine.execNop c s
  | .exit c => Sys2Proof.Machine.execExit c s
  | .yield c => Sys2Proof.Machine.execYield c s
  | .trap c code => Sys2Proof.Machine.execTrap c code s
  | .br c off => Sys2Proof.Machine.execBr c off s
  | .brc c cond r off => Sys2Proof.Machine.execBrc c cond r off s
  | .call c nargs off => Sys2Proof.Machine.execCall c nargs off s
  | .calli c a nargs => Sys2Proof.Machine.execCalli c a nargs s
  | .ret c m => Sys2Proof.Machine.execRet c m s
  | .enter c f => Sys2Proof.Machine.execEnter c f s
  | .arm c n => Sys2Proof.Machine.execArm c n s
  | .rejoin c idx => Sys2Proof.Machine.execRejoin c idx s
  | .iret c => Sys2Proof.Machine.execIret c s
  | .sadd c d a b => Sys2Proof.Machine.execSadd c d a b s
  | .ssub c d a b => Sys2Proof.Machine.execSsub c d a b s
  | .smul c d a b => Sys2Proof.Machine.execSmul c d a b s
  | .sand c d a b => Sys2Proof.Machine.execSand c d a b s
  | .sor c d a b => Sys2Proof.Machine.execSor c d a b s
  | .sxor c d a b => Sys2Proof.Machine.execSxor c d a b s
  | .sshl c d a b => Sys2Proof.Machine.execSshl c d a b s
  | .sshr c d a b => Sys2Proof.Machine.execSshr c d a b s
  | .ssra c d a b => Sys2Proof.Machine.execSsra c d a b s
  | .smin c sgn d a b => Sys2Proof.Machine.execSmin c sgn d a b s
  | .smax c sgn d a b => Sys2Proof.Machine.execSmax c sgn d a b s
  | .sseq c d a b => Sys2Proof.Machine.execSseq c d a b s
  | .sslt c sgn d a b => Sys2Proof.Machine.execSslt c sgn d a b s
  | .saddi c d a imm => Sys2Proof.Machine.execSaddi c d a imm s
  | .sandi c d a imm => Sys2Proof.Machine.execSandi c d a imm s
  | .sori c d a imm => Sys2Proof.Machine.execSori c d a imm s
  | .sxori c d a imm => Sys2Proof.Machine.execSxori c d a imm s
  | .sshli c d a n => Sys2Proof.Machine.execSshli c d a n s
  | .sshri c d a n => Sys2Proof.Machine.execSshri c d a n s
  | .ssrai c d a n => Sys2Proof.Machine.execSsrai c d a n s
  | .sslti c d a imm => Sys2Proof.Machine.execSslti c d a imm s
  | .sset c d imm => Sys2Proof.Machine.execSset c d imm s
  | .ssethi c d imm => Sys2Proof.Machine.execSsethi c d imm s
  | .kcmp c cond t ka kd a b => Sys2Proof.Machine.execKcmp c cond t ka kd a b s
  | .kand c kd ka kb => Sys2Proof.Machine.execKand c kd ka kb s
  | .kor c kd ka kb => Sys2Proof.Machine.execKor c kd ka kb s
  | .kxor c kd ka kb => Sys2Proof.Machine.execKxor c kd ka kb s
  | .kandn c kd ka kb => Sys2Proof.Machine.execKandn c kd ka kb s
  | .knot c kd ka => Sys2Proof.Machine.execKnot c kd ka s
  | .kmov c kd ka => Sys2Proof.Machine.execKmov c kd ka s
  | .krd c d ka => Sys2Proof.Machine.execKrd c d ka s
  | .kwr c kd a => Sys2Proof.Machine.execKwr c kd a s
  | .kpop c d ka => Sys2Proof.Machine.execKpop c d ka s
  | .save c k dst src => Sys2Proof.Machine.execSave c k dst src s
  | .vadd c k t sat a b => Sys2Proof.Machine.execVadd c k t sat a b s
  | .vsub c k t sat a b => Sys2Proof.Machine.execVsub c k t sat a b s
  | .vand c k t a b => Sys2Proof.Machine.execVand c k t a b s
  | .vor c k t a b => Sys2Proof.Machine.execVor c k t a b s
  | .vxor c k t a b => Sys2Proof.Machine.execVxor c k t a b s
  | .vandn c k t a b => Sys2Proof.Machine.execVandn c k t a b s
  | .vshl c k t a b => Sys2Proof.Machine.execVshl c k t a b s
  | .vshr c k t a b => Sys2Proof.Machine.execVshr c k t a b s
  | .vsra c k t a b => Sys2Proof.Machine.execVsra c k t a b s
  | .vmin c k t a b => Sys2Proof.Machine.execVmin c k t a b s
  | .vmax c k t a b => Sys2Proof.Machine.execVmax c k t a b s
  | .vmul c k t a b => Sys2Proof.Machine.execVmul c k t a b s
  | .vmulhi c k t a b => Sys2Proof.Machine.execVmulhi c k t a b s
  | .vred c k op t a => Sys2Proof.Machine.execVred c k op t a s
  | .vscan c k op t a => Sys2Proof.Machine.execVscan c k op t a s
  | .vshuf c k t data index => Sys2Proof.Machine.execVshuf c k t data index s
  | .vbcast c k wide a r => Sys2Proof.Machine.execVbcast c k wide a r s
  | .vpushs c k wide r => Sys2Proof.Machine.execVpushs c k wide r s
  | .fadd c k t rm a b => Sys2Proof.Machine.execFadd c k t rm a b s
  | .fsub c k t rm a b => Sys2Proof.Machine.execFsub c k t rm a b s
  | .fmul c k t rm a b => Sys2Proof.Machine.execFmul c k t rm a b s
  | .ffma c k t rm a b z => Sys2Proof.Machine.execFfma c k t rm a b z s
  | .fmin c k t a b => Sys2Proof.Machine.execFmin c k t a b s
  | .fmax c k t a b => Sys2Proof.Machine.execFmax c k t a b s
  | .ffn c k fn a => Sys2Proof.Machine.execFfn c k fn a s
  | .cvt c k rm ov a dst src => Sys2Proof.Machine.execCvt c k rm ov a dst src s
  | .pack4 c k rm ov a dst src => Sys2Proof.Machine.execPack4 c k rm ov a dst src s
  | .unpack4 c k rm ov a dst src => Sys2Proof.Machine.execUnpack4 c k rm ov a dst src s
  | .vld c k mt sb addr kr => Sys2Proof.Machine.execVld c k mt sb addr kr s
  | .vldc c k mt sb addr kr => Sys2Proof.Machine.execVldc c k mt sb addr kr s
  | .vst c k mt sb addr data => Sys2Proof.Machine.execVst c k mt sb addr data s
  | .vldComb c k q sb addr => Sys2Proof.Machine.execVldComb c k q sb addr s
  | .vstComb c k q sb addr data => Sys2Proof.Machine.execVstComb c k q sb addr data s
  | .cld c mt d a => Sys2Proof.Machine.execCld c mt d a s
  | .cst c mt d a => Sys2Proof.Machine.execCst c mt d a s
  | .cinv c a b => Sys2Proof.Machine.execCinv c a b s
  | .bulkpf c a b => Sys2Proof.Machine.execBulkpf c a b s
  | .atomAdd c k wide n sb addr data => Sys2Proof.Machine.execAtomAdd c k wide n sb addr data s
  | .atomMin c k sgn wide n sb addr data => Sys2Proof.Machine.execAtomMin c k sgn wide n sb addr data s
  | .atomMax c k sgn wide n sb addr data => Sys2Proof.Machine.execAtomMax c k sgn wide n sb addr data s
  | .atomAnd c k wide n sb addr data => Sys2Proof.Machine.execAtomAnd c k wide n sb addr data s
  | .atomOr c k wide n sb addr data => Sys2Proof.Machine.execAtomOr c k wide n sb addr data s
  | .atomXor c k wide n sb addr data => Sys2Proof.Machine.execAtomXor c k wide n sb addr data s
  | .atomXchg c k wide n sb addr data => Sys2Proof.Machine.execAtomXchg c k wide n sb addr data s
  | .atomCas c k wide n sb addr data => Sys2Proof.Machine.execAtomCas c k wide n sb addr data s
  | .atomAddF32 c k n sb addr data => Sys2Proof.Machine.execAtomAddF32 c k n sb addr data s
  | .atom2Dcas c k wide n sb addr data => Sys2Proof.Machine.execAtom2Dcas c k wide n sb addr data s
  | .atom2Amove c k wide n sb addr data => Sys2Proof.Machine.execAtom2Amove c k wide n sb addr data s
  | .red c k op wide sb addr data => Sys2Proof.Machine.execRed c k op wide sb addr data s
  | .redF32 c k sb addr data => Sys2Proof.Machine.execRedF32 c k sb addr data s
  | .barInit c a => Sys2Proof.Machine.execBarInit c a s
  | .barArrive c b => Sys2Proof.Machine.execBarArrive c b s
  | .barArriveWait c b => Sys2Proof.Machine.execBarArriveWait c b s
  | .barWait c b => Sys2Proof.Machine.execBarWait c b s
  | .barInval c b => Sys2Proof.Machine.execBarInval c b s
  | .ringDef c r a => Sys2Proof.Machine.execRingDef c r a s
  | .tlwait c sel a => Sys2Proof.Machine.execTlwait c sel a s
  | .tlrd c d sel => Sys2Proof.Machine.execTlrd c d sel s
  | .bind c a => Sys2Proof.Machine.execBind c a s
  | .unbind c a => Sys2Proof.Machine.execUnbind c a s
  | .acq c sc a => Sys2Proof.Machine.execAcq c sc a s
  | .rel c sc a => Sys2Proof.Machine.execRel c sc a s
  | .fence c sc => Sys2Proof.Machine.execFence c sc s
  | .rsvOpen c d a => Sys2Proof.Machine.execRsvOpen c d a s
  | .rsvClose c d => Sys2Proof.Machine.execRsvClose c d s
  | .rsvCand c d kd lim => Sys2Proof.Machine.execRsvCand c d kd lim s
  | .claim c k sb addr => Sys2Proof.Machine.execClaim c k sb addr s
  | .rsvWave c kd => Sys2Proof.Machine.execRsvWave c kd s
  | .rsvWaveNb c kd => Sys2Proof.Machine.execRsvWaveNb c kd s
  | .rsvDone c => Sys2Proof.Machine.execRsvDone c s
  | .mma c k z t fmt => Sys2Proof.Machine.execMma c k z t fmt s
  | .mmaCoop c k z t fmt => Sys2Proof.Machine.execMmaCoop c k z t fmt s
  | .macq c d t => Sys2Proof.Machine.execMacq c d t s
  | .mrel c t => Sys2Proof.Machine.execMrel c t s
  | .mrelFree c t => Sys2Proof.Machine.execMrelFree c t s
  | .mrd c k hi t j => Sys2Proof.Machine.execMrd c k hi t j s
  | .mwr c k hi t a j => Sys2Proof.Machine.execMwr c k hi t a j s
  | .tcfg c a => Sys2Proof.Machine.execTcfg c a s
  | .ucfg c a => Sys2Proof.Machine.execUcfg c a s
  | .copy c idx sb => Sys2Proof.Machine.execCopy c idx sb s
  | .copyx c idx sb => Sys2Proof.Machine.execCopyx c idx sb s
  | .tileNext c d n => Sys2Proof.Machine.execTileNext c d n s
  | .taskPush c d a p => Sys2Proof.Machine.execTaskPush c d a p s
  | .taskPop c d p => Sys2Proof.Machine.execTaskPop c d p s
  | .launch c d a => Sys2Proof.Machine.execLaunch c d a s
  | .launchWait c d a => Sys2Proof.Machine.execLaunchWait c d a s
  | .lwait c d a => Sys2Proof.Machine.execLwait c d a s
  | .getid c d sel => Sys2Proof.Machine.execGetid c d sel s
  | .getidHop c d a b => Sys2Proof.Machine.execGetidHop c d a b s
  | .srd c d r => Sys2Proof.Machine.execSrd c d r s
  | .swr c r a => Sys2Proof.Machine.execSwr c r a s
  | .vectorResultComplete sw op => Sys2Proof.Machine.execVectorResultComplete sw op s
  | .scalarResultComplete sw op => Sys2Proof.Machine.execScalarResultComplete sw op s
  | .loadComplete sw op => Sys2Proof.Machine.execLoadComplete sw op s
  | .storeComplete sw op => Sys2Proof.Machine.execStoreComplete sw op s
  | .atomicPerform sw op => Sys2Proof.Machine.execAtomicPerform sw op s
  | .relPerform sw op => Sys2Proof.Machine.execRelPerform sw op s
  | .fenceComplete sw op => Sys2Proof.Machine.execFenceComplete sw op s
  | .cinvComplete sw op => Sys2Proof.Machine.execCinvComplete sw op s
  | .bulkpfComplete sw op => Sys2Proof.Machine.execBulkpfComplete sw op s
  | .copyCollectiveStart clus => Sys2Proof.Machine.execCopyCollectiveStart clus s
  | .copyCollectiveComplete col ctx num => Sys2Proof.Machine.execCopyCollectiveComplete col ctx num s
  | .mmaComplete core => Sys2Proof.Machine.execMmaComplete core s
  | .taskQueuePerform sw op pick => Sys2Proof.Machine.execTaskQueuePerform sw op pick s
  | .launchRecordExamine col => Sys2Proof.Machine.execLaunchRecordExamine col s
  | .colonyPlace field idx sock clus cores => Sys2Proof.Machine.execColonyPlace field idx sock clus cores s
  | .colonyRetire col => Sys2Proof.Machine.execColonyRetire col s
  | .contextRotation cols => Sys2Proof.Machine.execContextRotation cols s
  | .resume col sock clus cores => Sys2Proof.Machine.execResume col sock clus cores s
  | .starveFirstExpiry sw => Sys2Proof.Machine.execStarveFirstExpiry sw s
  | .starveSecondExpiry sw => Sys2Proof.Machine.execStarveSecondExpiry sw s
  | .topPriority sw => Sys2Proof.Machine.execTopPriority sw s
  | .throttleAdmit core quarter n => Sys2Proof.Machine.execThrottleAdmit core quarter n s
  | .yieldHoldEnd sw => Sys2Proof.Machine.execYieldHoldEnd sw s
  | .evictionWriteback core asid line => Sys2Proof.Machine.execEvictionWriteback core asid line s
  | .uncorrectableError col unit => Sys2Proof.Machine.execUncorrectableError col unit s
  | .timingReplay core => Sys2Proof.Machine.execTimingReplay core s
  | .ageingCheck die clus drift => Sys2Proof.Machine.execAgeingCheck die clus drift s
  | .powerShare meas withheld => Sys2Proof.Machine.execPowerShare meas withheld s
  | .limiterRaise die => Sys2Proof.Machine.execLimiterRaise die s
  | .limiterLower die => Sys2Proof.Machine.execLimiterLower die s
  | .pstateTransitionComplete die => Sys2Proof.Machine.execPstateTransitionComplete die s
  | .parkComplete die => Sys2Proof.Machine.execParkComplete die s
  | .linkTrained sock => Sys2Proof.Machine.execLinkTrained sock s
  | .linkWakeTimeout sock => Sys2Proof.Machine.execLinkWakeTimeout sock s
  | .linkDeadTimeout sock => Sys2Proof.Machine.execLinkDeadTimeout sock s
  | .deviceReset => Sys2Proof.Machine.execDeviceReset s
  | .bringupStageComplete stk die port => Sys2Proof.Machine.execBringupStageComplete stk die port s
  | .doorbellWrite qid v => Sys2Proof.Machine.execDoorbellWrite qid v s
  | .bar2Access off acc => Sys2Proof.Machine.execBar2Access off acc s
  | .registerWrite r v => Sys2Proof.Machine.execRegisterWrite r v s
  | .unknownCommand m => Sys2Proof.Machine.execUnknownCommand m s
  | .qcreate m => Sys2Proof.Machine.execQcreate m s
  | .qdelete m => Sys2Proof.Machine.execQdelete m s
  | .ctxcreate m => Sys2Proof.Machine.execCtxcreate m s
  | .ctxdestroy m => Sys2Proof.Machine.execCtxdestroy m s
  | .setroot m => Sys2Proof.Machine.execSetroot m s
  | .settvec m => Sys2Proof.Machine.execSettvec m s
  | .loadk m => Sys2Proof.Machine.execLoadk m s
  | .launchCommand m => Sys2Proof.Machine.execLaunchCommand m s
  | .drain m => Sys2Proof.Machine.execDrain m s
  | .pstate m => Sys2Proof.Machine.execPstate m s
  | .setcap m => Sys2Proof.Machine.execSetcap m s
  | .carve m => Sys2Proof.Machine.execCarve m s
  | .tquota m => Sys2Proof.Machine.execTquota m s
  | .svcreg m => Sys2Proof.Machine.execSvcreg m s
  | .svcdel m => Sys2Proof.Machine.execSvcdel m s
  | .reduce m => Sys2Proof.Machine.execReduce m s
  | .collreset m => Sys2Proof.Machine.execCollreset m s
  | .peerset m => Sys2Proof.Machine.execPeerset m s
  | .storio m => Sys2Proof.Machine.execStorio m s
  | .attest m => Sys2Proof.Machine.execAttest m s
  | .patch m => Sys2Proof.Machine.execPatch m s
  | .logread m => Sys2Proof.Machine.execLogread m s
  | .pagereq m => Sys2Proof.Machine.execPagereq m s
  | .aperture m => Sys2Proof.Machine.execAperture m s
  | .hrel m => Sys2Proof.Machine.execHrel m s
  | .nvmeCompletion id status data => Sys2Proof.Machine.execNvmeCompletion id status data s
  | .torjorWrite p => Sys2Proof.Machine.execTorjorWrite p s
  | .torjorPostedWrite p => Sys2Proof.Machine.execTorjorPostedWrite p s
  | .torjorRead p => Sys2Proof.Machine.execTorjorRead p s
  | .torjorReadResponse p => Sys2Proof.Machine.execTorjorReadResponse p s
  | .torjorAck p => Sys2Proof.Machine.execTorjorAck p s
  | .torjorNack p => Sys2Proof.Machine.execTorjorNack p s
  | .torjorServiceRequest p => Sys2Proof.Machine.execTorjorServiceRequest p s
  | .torjorReduceContribution p => Sys2Proof.Machine.execTorjorReduceContribution p s
  | .torjorReduceAbort p => Sys2Proof.Machine.execTorjorReduceAbort p s
  | .torjorRemoteRelease p => Sys2Proof.Machine.execTorjorRemoteRelease p s
  | .torjorInvalidOp p => Sys2Proof.Machine.execTorjorInvalidOp p s
  | .postedStoreTimeout n => Sys2Proof.Machine.execPostedStoreTimeout n s
  | .reduceTimeout n => Sys2Proof.Machine.execReduceTimeout n s
  | .reduceContributorTimeout n => Sys2Proof.Machine.execReduceContributorTimeout n s
  | .reduceSourceRead n => Sys2Proof.Machine.execReduceSourceRead n s
  | .carveComplete port => Sys2Proof.Machine.execCarveComplete port s
  | .lendingSwapOut col => Sys2Proof.Machine.execLendingSwapOut col s
  | .linkDoze sock => Sys2Proof.Machine.execLinkDoze sock s
  | .linkResponse sock => Sys2Proof.Machine.execLinkResponse sock s
  | .torjorRetransmit r => Sys2Proof.Machine.execTorjorRetransmit r s

end Sys2Proof.Machine
end

