-- ==== Sys2Proof/Machine/Fetch.lean ====
section
/-! DEFINITION. Fetching an instruction word (R104, R112, R113, R299), the issue of the word a swarm has fetched (R201,
R204, R205, R297), the clock (R28, R83, R144, R184, R201, R205, R237), the events the machine itself performs when nothing else is chosen,
and the smallest device in which a given word is the next to issue. -/

namespace Sys2Proof.Machine

/-! ### Fetch -/

/-- What a fetch gives. -/
inductive Fetched
  | word (w : Nat)
  | trap (t : Trap)
  /-- The home holds the miss (R112). -/
  | held
  /-- The word is poisoned (R219). -/
  | poison
deriving DecidableEq, Repr

/-- A word that may combine old and new bytes (R299): bit j of `pick` takes the new byte j. -/
def mixBytes (pick : Nat) (old new : List Byte) : List Byte :=
  old.zipIdx.map fun p => if pick.testBit p.2 then new.getD p.2 p.1 else p.1

/-- Fetches the word at `va` for a core (R299): a line that is there serves it, whatever was stored since; a miss fills
the line from the home, unless the line holds poison. A refused fetch is logged with KIND 9 (R113, R116). -/
def State.fetch (s : State) (k : Nat × Nat × Nat) (asid va : Nat) (who : Who) : State × Fetched :=
  match (s.core k).iline? asid va with
  | some l =>
    let old := (l.bytes.drop (va % 64)).take 8
    match s.peek asid va 8 with
    | none => (s, .word (leNat old))
    | some new =>
      if new = old then (s, .word (leNat old))
      else ({ s with fresh := s.fresh + 1 }, .word (leNat (mixBytes (Config.freeNat s.fresh) old new)))
  | none =>
    if s.holds asid va false then (s, .held)
    else match s.translate asid va false with
    | (s1, .nonres) => (s1, .trap (.plain 0x0B 0 0))
    | (s1, .err) => (s1.logPort (s1.home va) va asid 9 2 who, .trap (.plain 0x0A 2 va))
    | (s1, .held) => (s1, .held)
    | (s1, .ok m) =>
      if !m.x then (s1.logPort (s1.home va) va m.asid 9 1 who, .trap (.plain 0x0A 1 va))
      else if s1.poisoned (m.paOf va) 8 then (s1, .poison)
      else
        let base := m.paOf (va / 64 * 64)
        let s2 := State.combine base 64 s1.upd.length s1
        let l : ILine := ⟨m.asid, va / 64, s2.physRead base 64⟩
        (if s2.poisoned base 64 then s2 else s2.updCore k fun c => { c with icache := l :: c.icache },
          .word (leNat ((l.bytes.drop (va % 64)).take 8)))

/-! ### Issue of a fetched word -/

/-- The control field of a word that is not an instruction: SETF 12-14 names no flag. -/
def looseCtrl (w : Nat) : Ctrl := (ctrlOf w).getD ⟨Fin.ofNat 16 (fld w 60 4), Fin.ofNat 4096 (fld w 48 12), none⟩

/-- The word's MAJOR names a reporting instruction (R114, R353): one that ends a level or the swarm, a fence, or a waiting form. -/
def reportsWord (w : Nat) : Bool :=
  match fld w 36 8 with
  | 0x01 | 0x08 | 0x09 | 0x0A | 0xC2 | 0xC5 | 0xC9 | 0xCB | 0xCF | 0xDC | 0xDD => true
  | 0xA2 => fld w 30 2 != 3 && loadQOf (fld w 30 2) != .any
  | 0xA3 => fld w 30 2 != 3 && storeQOf (fld w 30 2) == .empty
  | 0xC1 => fld w 32 4 = 1
  | 0xCE => fld w 32 4 = 0
  | _ => false

/-- A word that is not an instruction raises ILLOP at issue (R297); a report owed at its MAJOR comes first (R209). -/
def execIllop (w cause : Nat) (s : State) : Host.Outcome State Fault Refusal :=
  issue (looseCtrl w) {} (reportsWord w) (fun _ => .trap (.illop cause)) s

/-- A fetch trap (R112, R113, R209). -/
def execFetchTrap (t : Trap) (s : State) : Host.Outcome State Fault Refusal :=
  issue Ctrl.plain {} false (fun _ => .trap t) s

/-- The next state, if there is one. -/
def nextOf : Host.Outcome State Fault Refusal → Option State
  | .next s => some s
  | _ => none

/-- Instructions that access global memory, which the throttle holds (R204). -/
def isGlobal : Instr → Bool
  | .vld .. | .vldc .. | .vst .. | .cld .. | .cst .. | .atomAdd .. | .atomMin .. | .atomMax .. | .atomAnd .. | .atomOr ..
  | .atomXor .. | .atomXchg .. | .atomCas .. | .atomAddF32 .. | .atom2Dcas .. | .atom2Amove .. | .red .. | .redF32 .. =>
    true
  | _ => false

/-- The throttle holds the swarm (R204, R205). -/
def State.throttles (s : State) (e : Env) : Bool := !e.w.admitted && !s.top? e.i

/-- What the word at a swarm's pc does when it issues now, the fetch included; none when the swarm is not ready. -/
def State.issueWord (s : State) (e : Env) (throttle : Bool) (w : Nat) : Option State :=
  match decode w with
  | .error c => nextOf (execIllop w c s)
  | .ok i => if throttle && s.throttles e && isGlobal i then none else nextOf (exec i s)

/-- The fetch of a swarm at its pc. -/
def Env.fetched (e : Env) : State × Fetched := e.s.fetch e.core e.ctx.asid e.w.pc.toNat (e.s.whoOf e.i e.w.pc.toNat)

/-- Swarm `j` fetches and issues; none when it is not ready (R201). `throttle` says whether the throttle counts. -/
def State.issueAt (s : State) (throttle : Bool) (j : Nat) : Option State :=
  match envOf { s with cur := j } j with
  | none => none
  | some e =>
    if e.w.wait.isSome || e.w.entering then none
    else match e.fetched with
      | (s1, .word w) => s1.issueWord e throttle w
      | (s1, .trap t) => nextOf (execFetchTrap t s1)
      | (_, .held) => none
      | (s1, .poison) => if e.ready Ctrl.plain {} then some (settle (s1.consumeBy e.w.colony (some j))) else none

/-! ### Issue in one clock -/

/-- What of one clock takes effect first (R83, R144, R184): releases of tiles and BAR.INVAL; then, after the engines, acquisitions,
arrivals and RSV.DONE; then the other events of a reserving loop in the order of Table 11.3; then the rest. -/
def issueClass : Instr → Nat
  | .mrel .. | .mrelFree .. | .barInval .. => 0
  | .macq .. | .barArrive .. | .barArriveWait .. | .rsvDone _ => 2
  | .claim .. => 3
  | .rsvCand .. => 4
  | .rsvWave .. | .rsvWaveNb .. => 5
  | .rsvClose .. => 6
  | _ => 7

/-- The class of what a swarm issues next. -/
def Env.issueClass (e : Env) : Nat :=
  match e.fetched with
  | (_, .word w) => match decode w with
    | .ok i => Machine.issueClass i
    | .error _ => 7
  | _ => 7

/-- The class of the end of a blocked wait that keeps a place in the clock: a wave's, or a comb access's (R144, R184). -/
def WaitKind.cls : WaitKind → Nat
  | .rsvWave _ => 5
  | _ => 7

/-- The die of a swarm passes a cycle (R237). -/
def Env.clocked (e : Env) : Bool :=
  match e.s.dies[e.span.die]? with
  | none => false
  | some d => !d.relocking

/-- The current limiter withholds the slot of a swarm's quarter in this cycle (R239); which slots it withholds is free. -/
def Env.slotWithheld (e : Env) : Bool :=
  match e.s.dies[e.span.die]? with
  | none => false
  | some d => d.withheld.isSome && Config.freeSlot (coreNum e.core * 4 + e.w.quarter) d.cycle

/-- The quarter of a swarm may still issue in this clock (R201, R237, R239). -/
def Env.slotFree (e : Env) : Bool :=
  e.clocked && (e.s.clk.issued.all fun x => !decide (x.2 = (e.core, e.w.quarter))) && !e.slotWithheld

/-- Swarm `j` may issue in this clock. -/
def State.canIssue (s : State) (j : Nat) : Bool :=
  (match envOf s j with
    | none => false
    | some e => e.slotFree) && (s.issueAt true j).isSome

/-- How far the turn is from swarm `j`. -/
def State.turn (s : State) (j : Nat) : Nat := (j + s.swarms.length - s.cur % max 1 s.swarms.length) % max 1 s.swarms.length

/-- Swarm `j` issues before swarm `i` of its quarter: by top priority (R205), else by the turn (log 4). -/
def State.ahead (s : State) (j i : Nat) : Bool :=
  if s.top? i then s.top? j && (match s.swarms[j]?, s.swarms[i]? with
    | some a, some b => a.beats b
    | _, _ => false)
  else s.top? j || decide (s.turn j < s.turn i)

/-- Swarm `j` is the one its quarter issues in this clock (R201, R205). -/
def State.picked (s : State) (j : Nat) : Bool :=
  s.canIssue j && (List.range s.swarms.length).all fun i => i == j || !s.sameQuarter j i || !s.canIssue i || s.ahead j i

/-- The order of places: class, then the swarm's index in its colony (R83, R144, R184). -/
def orderBefore (a b : Turn) : Bool :=
  decide (a.cls < b.cls)
  || (a.cls == b.cls && (decide (a.idx < b.idx) || (a.idx == b.idx && decide (a.sw < b.sw))))

/-- The place that the blocked wait of swarm `j` takes in this clock, when its target is released. -/
def State.waitPlace? (s : State) (j : Nat) : Option Turn :=
  match envOf s j with
  | none => none
  | some e => match e.w.wait with
    | none => none
    | some wt =>
      if wt.kind.ordered && e.clocked && e.waitsRun && e.targetFree wt.kind then some ⟨wt.kind.cls, e.w.idx, j⟩ else none

/-- The place at which swarm `j` issues in this clock. -/
def State.issuePlace? (s : State) (j : Nat) : Option Turn :=
  match envOf s j with
  | none => none
  | some e => if s.picked j then some ⟨e.issueClass, e.w.idx, j⟩ else none

/-- The place of swarm `j` in the order of this clock, if it still comes: after what has had its place already (R83, R144, R184). -/
def State.place? (s : State) (j : Nat) : Option Turn :=
  match s.waitPlace? j <|> s.issuePlace? j with
  | none => none
  | some x => if s.clk.last.all fun y => orderBefore y x then some x else none

/-- The first of some places. -/
def firstPlace : List Turn → Option Turn
  | [] => none
  | x :: r => match firstPlace r with
    | none => some x
    | some y => some (if orderBefore y x then y else x)

/-- The next place of this clock. -/
def State.nextPlace (s : State) : Option Turn := firstPlace ((List.range s.swarms.length).filterMap s.place?)

/-- The place is over. -/
def State.noteTurn (s : State) (x : Turn) : State := { s with clk := { s.clk with last := some x } }

/-- Swarm `x.sw` has its place of this clock: its blocked wait ends, or it issues; the turn of its quarter stays where it is. -/
def State.issueNow (s : State) (x : Turn) : Option State :=
  if s.inOrderWait x.sw then some ((s.takeTurn x.sw).noteTurn x)
  else match envOf s x.sw, s.issueAt true x.sw with
    | some e, some t => some { t with
        cur := s.cur
        clk := { t.clk with issued := (x.sw, e.core, e.w.quarter) :: t.clk.issued, last := some x } }
    | _, _ => none

/-! ### The clock -/

/-- A swarm one cycle on (R28, R201, R205): its starvation timer unless its colony is to be pre-empted, and its counter when it is
ready and its slot was not withheld. -/
def Env.tick (e : Env) : Swarm :=
  let ready := !e.slotWithheld && (e.s.clk.issued.all fun x => x.1 != e.i) && (e.s.issueAt false e.i).isSome
  { e.w with
    fell := []
    wait := if e.col.stop.isNone then e.w.wait.map fun x => { x with timer := x.timer + 1 } else e.w.wait
    readyCount := if ready then e.w.readyCount + 1 else e.w.readyCount }

/-- A die one reference cycle on (R150, R237). -/
def Die.tick (d : Die) : Die :=
  { d with
    cycle := if d.relocking then d.cycle else d.cycle + 1
    elapsed := if d.trans.isSome then d.elapsed + 1 else d.elapsed }

/-- What no engine or matrix operation of the colony can read any more is forgotten. -/
def State.pruneComb (s : State) (p : Colony × Nat) : Colony :=
  if s.colls.all (fun x => x.colony != p.2) && s.mmas.all (fun m => m.colony != p.2) then { p.1 with combOld := [] } else p.1

/-- One clock of every die and one reference cycle (R150): the turn goes to the next swarm, raises whose target has been released end
(R29), lenders that can take new reservations do (R270), and firmware tries its held writes and requests again (R111, R260). -/
def State.tick (s : State) : State :=
  let s1 := { s with
    cur := (s.cur + 1) % max 1 s.swarms.length
    clk := Clock.reset
    swarms := s.swarms.zipIdx.map fun p => match envOf s p.2 with
      | none => { p.1 with fell := [] }
      | some e => if e.clocked then e.tick else p.1
    colonies := s.colonies.zipIdx.map s.pruneComb
    dies := s.dies.map Die.tick
    ports := s.ports.map fun p => { p with refCycle := p.refCycle + 1 }
    links := s.links.zipIdx.map fun p => s.tickLink p.2 p.1
    ioLink := s.tickLink ioSock s.ioLink
    ioCycle := s.ioCycle + 1 }
  (((List.range s1.swarms.length).foldl State.lowerRaises s1).newResvs.retryFw).retrySvc

/-! ### The machine's own events -/

/-- The constructor of a command (Table 17.3). -/
def cmdInstr (m : Cmd) : Instr :=
  match m.opc, m.sub with
  | 0x01, 0 => .qcreate m
  | 0x01, 1 => .qdelete m
  | 0x02, 0 => .ctxcreate m
  | 0x03, 0 => .ctxdestroy m
  | 0x04, 0 => .setroot m
  | 0x05, 0 => .settvec m
  | 0x06, 0 => .loadk m
  | 0x07, 0 => .launchCommand m
  | 0x08, 0 => .drain m
  | 0x09, 0 => .pstate m
  | 0x0A, 0 => .setcap m
  | 0x0B, 0 => .carve m
  | 0x0B, 1 => .tquota m
  | 0x0C, 0 => .svcreg m
  | 0x0C, 1 => .svcdel m
  | 0x0D, 0 => .reduce m
  | 0x0E, 0 => .collreset m
  | 0x0F, 0 => .peerset m
  | 0x10, 0 => .storio m
  | 0x11, 0 => .attest m
  | 0x12, 0 => .patch m
  | 0x13, 0 => .logread m
  | 0x14, 0 => .pagereq m
  | 0x15, 0 => .aperture m
  | 0x16, 0 => .hrel m
  | _, _ => .unknownCommand m

/-- Events of an operation in flight. -/
def opEvents (i id : Nat) : List Instr :=
  [.vectorResultComplete i id, .scalarResultComplete i id, .loadComplete i id, .storeComplete i id, .atomicPerform i id,
    .relPerform i id, .fenceComplete i id, .cinvComplete i id, .bulkpfComplete i id, .taskQueuePerform i id 0]

/-- Events of a swarm. -/
def swarmEvents (p : Swarm × Nat) : List Instr := p.1.ops.flatMap fun o => opEvents p.2 o.id

/-- Results of fixed latency that land in this clock (R202): before anything issues in it. -/
def State.landings (s : State) : List Instr :=
  s.swarms.zipIdx.flatMap fun p => match envOf s p.2 with
    | none => []
    | some e => (p.1.ops.filter fun o => o.due.any fun d => decide (d ≤ e.cycle)).flatMap fun o => opEvents p.2 o.id

/-- What comes first in a clock: results land (R202), holds of YIELD end (R387), and launch records are examined, before a LAUNCH of the
clock (R198). -/
def State.startEvents (s : State) : List Instr :=
  s.landings ++ (List.range s.swarms.length).map .yieldHoldEnd ++ (List.range s.colonies.length).map .launchRecordExamine

/-- Expiries of starvation timers, which come last in a clock (R30). -/
def State.expiries (s : State) : List Instr :=
  (List.range s.swarms.length).flatMap fun i => [.starveFirstExpiry i, .starveSecondExpiry i]

/-- The expiry of a starvation timer. -/
def isExpiry : Instr → Bool
  | .starveFirstExpiry _ | .starveSecondExpiry _ => true
  | _ => false

/-- Placements or resumptions of colony `j`. -/
def State.placeEvents (s : State) (p : Colony × Nat) : List Instr :=
  match s.fieldOf p.2, s.ctx? (s.colCtx p.2) with
  | some f, some cx =>
    match p.1.status with
    | .waiting => (s.spans cx f.desc.span).map fun x => .colonyPlace p.1.field p.1.index x.die x.clus x.cores
    | .saved => (s.spans cx f.desc.span).map fun x => .resume p.2 x.die x.clus x.cores
    | _ => []
  | _, _ => []

/-- Events of a colony. -/
def State.colonyEvents (s : State) (p : Colony × Nat) : List Instr :=
  [.lendingSwapOut p.2, .colonyRetire p.2] ++ s.placeEvents p

/-- Ends of engine and matrix operations, which have their turn before the accesses of swarms (Table 7.9). -/
def State.engineEvents (s : State) : List Instr :=
  (s.mmas.flatMap fun m => m.parts.map fun p => .mmaComplete (coreNum (p.die, p.clus, p.core)))
  ++ (s.colls.map fun x => .copyCollectiveComplete x.colony x.ctx x.num)

/-- Starts of collectives. -/
def State.collStarts (s : State) : List Instr := if s.colls.isEmpty then [] else (List.range 16).map .copyCollectiveStart

/-- Sockets with a link port. -/
def State.linkSocks (s : State) : List Nat := List.range s.links.length ++ [20]

/-- Events of links: training ends after a free time (R232), T_wake and T_dead run out (R232, R233), and a dozing link wakes for a
request addressed through it (Table 16.6). -/
def State.linkEvents (s : State) : List Instr :=
  s.linkSocks.flatMap fun k => match s.link? k with
    | none => []
    | some l =>
      (if l.state = lkWaking && decide (l.since + Config.trainTime k l.since ≤ l.refCycle) then [.linkTrained k] else [])
      ++ [.linkWakeTimeout k]
      ++ (if (s.deadTimer k).any fun t => decide (deadTime ≤ t) then [.linkDeadTimeout k] else [])
      ++ (if l.doze && s.asks k then [.linkDoze k] else [])

/-- An arrived frame that waits is tried again. -/
def rxInstr (p : Pkt) : Instr :=
  if p.op = opWrite then .torjorWrite p else if p.op = opPosted then .torjorPostedWrite p else .torjorRemoteRelease p

/-- Events of the fabric whose time has come (R259, R262, R263). -/
def State.fabricEvents (s : State) : List Instr :=
  s.rx.map rxInstr ++ (s.reducs.map fun r => .reduceSourceRead r.num)
  ++ ((s.posted.filter (Posted.late s.ioCycle)).map fun x => .postedStoreTimeout x.num)
  ++ (s.reducs.filter (Reduc.late s.ioCycle)).map fun r => if r.role = 0 then .reduceTimeout r.num else .reduceContributorTimeout r.num

/-- Commands at the head of their queues; management commands that are held. -/
def State.cmdEvents (s : State) : List Instr :=
  (s.queues.filterMap fun q => (s.headCmd q.qid).map cmdInstr) ++ (s.mgmtQ.take 1).map cmdInstr

/-- Events of firmware, power and links. -/
def State.deviceEvents (s : State) : List Instr :=
  s.cmdEvents
  ++ (List.range s.dies.length).flatMap (fun d => [.pstateTransitionComplete d, .parkComplete d])
  ++ s.linkEvents ++ s.powerEvents
  ++ (List.range s.ports.length).map .carveComplete
  ++ s.fabricEvents

/-- The colonies that give way to a rotation now, and those whose save is due (R192). -/
def State.rotationEvents (s : State) : List Instr :=
  let js := (List.range s.colonies.length).filter fun j => if s.rotating j then s.mayPreempt j else s.rotates j
  if js.isEmpty then [] else [.contextRotation js]

/-- Quarters whose throttle admits now (R204): how many swarms, is free. -/
def State.throttleEvents (s : State) : List Instr :=
  (List.range s.swarms.length).filterMap fun i => match envOf s i with
    | none => none
    | some e =>
      if s.throttleDue e.core e.w.quarter then
        some (.throttleAdmit (coreNum e.core) e.w.quarter (4 + Config.freeNat (2 ^ 64 + e.cycle * 1024 + coreNum e.core * 4 + e.w.quarter) % 61))
      else none

/-- What the machine performs of itself, in the order in which it is tried. -/
def State.events (s : State) : List Instr :=
  s.deviceEvents ++ s.colonies.zipIdx.flatMap s.colonyEvents ++ s.rotationEvents ++ s.collStarts
  ++ s.swarms.zipIdx.flatMap swarmEvents ++ s.throttleEvents ++ s.expiries

/-- The first of a list of events that happens and changes something. -/
def State.firstEvent (s : State) : List Instr → Option State
  | [] => none
  | i :: r =>
    match exec i s with
    | .next t => if t = s then s.firstEvent r else some t
    | _ => s.firstEvent r

/-- An event brought by the outside or by the chosen order; one whose premise does not hold does not happen, and an
instruction word is no event. -/
def State.take (s : State) (i : Instr) : State :=
  match parts i with
  | some _ => s
  | none => (nextOf (exec i s)).getD s

/-- What comes before the engines in a clock: releases of tiles and BAR.INVAL (R83, Table 7.9). -/
def State.earlyPlace (s : State) : Option Turn :=
  match s.nextPlace with
  | none => none
  | some x => if x.cls < engineClass then some x else none

/-- A step in which no event is brought (log 4): what begins the clock; then the places of the clock in their order, the engines'
between those of class 0 and the rest; then the machine's other events; then the clock passes. Once a starvation expiry has come, only
others come in that clock (R30). -/
def State.advance (s : State) : State :=
  if s.clk.expired then (s.firstEvent s.expiries).getD s.tick
  else
    (s.firstEvent s.startEvents
      <|> s.earlyPlace.bind s.issueNow
      <|> s.firstEvent s.engineEvents
      <|> s.nextPlace.bind s.issueNow
      <|> s.firstEvent s.events).getD s.tick

/-- The end of an engine or matrix operation. -/
def isEngine : Instr → Bool
  | .mmaComplete _ | .copyCollectiveComplete _ _ _ => true
  | _ => false

/-- An event that is brought when its turn in the clock is over: after an expiry (R30), or an engine's after an access of a swarm
(Table 7.9). -/
def State.tooLate (s : State) (i : Instr) : Bool := (s.clk.expired && !isExpiry i) || (isEngine i && !s.engineTurn)

/-- An event that is brought too late for its clock comes in the next one. -/
def State.bring (s : State) (i : Instr) : State := (if s.tooLate i then s.tick else s).take i

/-! ### A device that is about to issue a given word -/

/-- The descriptor of the program that `withFetchWord` places. -/
def probeDesc : KDesc where
  entry := 0
  recBase := 0x8000
  depth := 64
  frame := 64
  scalars := 1024
  cls := 0
  rst := false
  swarms := 1
  span := 1
  stages := [1]
  bars := 32
  rings := 8
  combSize := 2 ^ 14
  hash := 0x88
  privSize := 2 ^ 16
  codeSize := 2 ^ 15
  recSize := 2 ^ 15

/-- Its context: ASID 1, page tables at 0x1000. -/
def probeCtx : Ctx where
  handle := 1
  asid := 1
  root := 0x1000
  pager := 0
  check := false
  selfVa := 2 ^ 51
  saveBase := 0
  saveSize := 0
  privBase := 2 ^ 40
  privSize := 2 ^ 30
  tvec := 0x4000
  vdies := [⟨1, 0⟩, ⟨1, 1⟩, ⟨1, 2⟩, ⟨1, 3⟩]
  fault := none
  live := true

/-- Its field. -/
def probeField : FieldSt where
  id := 1
  ctx := 1
  recVa := 0
  kdesc := 0
  desc := probeDesc
  cls := 0
  resv := true
  scope := 3
  tx := 1
  ty := 1
  tz := 1
  nextTile := 0
  args := []
  colonies := 1
  retired := 0
  privBase := 2 ^ 40
  live := true
  host := none
  posted := 0
  owed := []

/-- Its place. -/
def probeSpan : Span := ⟨0, 0, [0]⟩

/-- Its colony. -/
def probeColony : Colony :=
  { Colony.start 0 0 probeDesc 0 [] with
    status := .running, admitted := true, resv := some probeSpan, place := some probeSpan }

/-- Its page tables: one bound, writable, executable page of 64 KiB at VA 0, in the frame at 0x10000. -/
def probeTables (m : List Host.Cell) : List Host.Cell :=
  [(0x1000, 0x2003), (0x2000, 0x3003), (0x3000, 0x4003), (0x4000, 0x1000D)].foldl
    (fun m e => memPutBytes m e.1 (leBytes 8 e.2)) m

/-- The word placed where no program runs: a program of one swarm, loaded and placed (log 5). -/
def State.probe (s : State) (w : Nat) : State :=
  { s with
    mem := memPutBytes (probeTables s.mem) 0x10000 (leBytes 8 w)
    poison := []
    cur := 0
    clk := Clock.reset
    inbox := []
    links := List.replicate 12 (Link.enter lkActive Link.reset)
    ioLink := Link.enter lkActive Link.reset
    stage := 3
    stackMap := State.reset.stackMap
    dies := List.replicate 4 Die.reset
    ports := List.replicate 8 Port.reset
    swarms := [Swarm.start probeField 0 0 0 0]
    colonies := [probeColony]
    fields := [probeField]
    colls := []
    mmas := []
    ctxs := [probeCtx] }

/-- Where the swarm whose turn it is fetches its next word: its core, ASID, VA and physical address; none when it could not
issue there. -/
def State.fetchPlace (s : State) : Option ((Nat × Nat × Nat) × Nat × Nat × Nat) := do
  let e ← envOf s s.cur
  let va := e.w.pc.toNat
  let m ← match s.heldMap e.ctx.asid va with
    | some m => some m
    | none => match s.walkAny e.ctx.asid va with
      | .ok m _ => if s.bounced e.ctx.asid va then none else some m
      | _ => none
  if m.x && e.w.wait.isNone && !e.w.entering && e.col.stop.isNone && e.landed && e.holdOk && !s.throttles e && e.slotFree
      && s.clk.last.isNone && !s.clk.expired && !s.holds e.ctx.asid va false && s.stage != 7 && !s.poisoned (m.paOf va) 8
      && (List.range s.swarms.length).all (fun j => (s.waitPlace? j).isNone && (j == s.cur || !s.canIssue j))
      && (s.firstEvent s.startEvents).isNone && (s.firstEvent s.engineEvents).isNone then
    some (e.core, e.ctx.asid, va, m.paOf va)
  else none

/-- The word placed at the fetch address: where a program runs, over the word it would fetch next, and out of its core's
instruction cache; else by `probe`. -/
def State.placeWord (s : State) (w : Nat) : State :=
  match s.fetchPlace with
  | none => s.probe w
  | some (k, _, va, pa) =>
    { s.updCore k fun c => { c with icache := c.icache.filter fun l => l.line != va / 64 } with
      mem := memPutBytes s.mem pa (leBytes 8 w), inbox := [] }

end Sys2Proof.Machine
end

