-- ==== Sys2Proof/Machine/Step.lean ====
section
/-! DEFINITION. One step of the device, and the host's hook that places an instruction where the next step fetches. -/

namespace Sys2Proof.Machine

/-- One step: after a root monitor failure there is no service (Table 17.7); an event that has been brought happens; else
the device advances of itself (log 4). -/
def step (s : State) : Host.Outcome State Fault Refusal :=
  if s.stage = 7 then .fault .rootMonitorFailure
  else
    match s.inbox with
    | i :: r => .next ({ s with inbox := r }.bring i)
    | [] => .next s.advance

/-- The instruction word `w` placed where the next step fetches (log 5). -/
def State.withFetchWord (s : State) (nbits w : Nat) : State := s.placeWord (w % 2 ^ nbits % 2 ^ 64)

end Sys2Proof.Machine
end

