-- ==== Sys2Proof/Safety.lean ====
section
/-! DEFINITION. The vocabulary of the claims: the device invariant, the registers that only firmware writes, when the swarm
whose turn it is issues a word, and the state that an issue leaves, spelled out field by field and apart from the
meanings. -/

namespace Sys2Proof.Machine

/-! ### Invariants -/

/-- The registers that only firmware writes (R253, Tables 6.7, 16.4, 17.6, 17.7). -/
structure Firm where
  stage : Nat
  stkDead : W32
  dieDead : W32
  portDead : W32
  stackMap : List (Bool × Nat)
  homeHash : List W64
  pwrCap : Nat
  apertures : List W64
  peers : List (Nat × Peer)
  svcs : List Svc
  patch : Nat
deriving DecidableEq, Repr

/-- Those registers of a device. -/
def State.firm (s : State) : Firm :=
  ⟨s.stage, s.stkDead, s.dieDead, s.portDead, s.stackMap, s.homeHash, s.pwrCap, s.apertures, s.peers, s.svcs, s.patch⟩

/-- What every step keeps: memory in canonical form, an invertible home hash (R99), the fixed aperture 0, a power cap in
its range (R235) and a boot stage of Table 17.7. -/
def State.Inv (s : State) : Prop :=
  Memory.wf s.mem = true ∧ hashOk s.homeHash = true ∧ s.apertures[0]? = some 0xFC0000003
    ∧ 50 ≤ s.pwrCap ∧ s.pwrCap ≤ 220 ∧ s.stage ∈ [0, 1, 2, 3, 7]

/-! ### Issue -/

/-- The swarm of environment `e`, the one whose turn it is, is ready for a word with this control field and these needs
(R201), and no deferred report is owed there (R114). -/
def Issues (s : State) (e : Env) (c : Ctrl) (n : Need) (rep : Bool) : Prop :=
  envOf s s.cur = some e ∧ e.ready c n = true ∧ e.reportDue c rep = false

/-- It issues, and the slots that its pushes overwrite hold no uncorrectable error (R44). -/
def Runs (s : State) (e : Env) (c : Ctrl) (n : Need) (rep : Bool) : Prop :=
  Issues s e c n rep ∧ ∀ sl ∈ e.w.top.queue.reverse.take n.pushes, sl.bad = false

/-- The swarm once it has issued: the pc, the start of DIST, and the counters that an issue clears. -/
def Swarm.moved (w : Swarm) (cycle : Nat) (pc : BitVec 52) : Swarm :=
  { w with pc := pc, lastIssue := some cycle, readyCount := 0, hold := none }

/-- The swarm with an operation in flight (R38): counted in the SETF flag (R201), ending `lat` clocks from now when its
latency is fixed (R202). -/
def Env.launched (e : Env) (c : Ctrl) (lat : Option Nat) (b : OpBody) : Swarm :=
  { e.w with
    pc := e.w.pc + 8
    lastIssue := some e.cycle
    readyCount := 0
    hold := none
    flags := match c.setf with
      | none => e.w.flags
      | some n => e.w.flags.set n.val (e.w.flag n.val + 1)
    ops := e.w.ops ++ [{ id := e.w.nextOp, pc := e.w.pc, flag := c.setf, aside := false, due := lat.map (e.cycle + ·),
                         since := e.s.ioCycle, body := b }]
    nextOp := e.w.nextOp + 1 }

/-- The device after an issue that changes nothing but the issuing swarm. -/
def State.issuedTo (s : State) (w : Swarm) : State :=
  { s with fresh := s.fresh + 256, swarms := s.swarms.set s.cur w }

/-- Scalar registers an instruction names exist (R41), under SR.CHECK those it reads are complete (R203), and none of these
holds an uncorrectable error (R219). -/
def Env.scalarsOk (e : Env) (named read : List Nat) : Prop :=
  (∀ n ∈ named, n < e.w.scalars.length) ∧ (e.ctx.check = true → ∀ n ∈ read, e.w.sBusy n = false)
    ∧ ∀ n ∈ read, n ∉ e.w.badScalars

/-- A vector operand is there: its age is below D, its frame slot inside the window, with the next code for a 64-bit one
(R40, R42); under SR.CHECK its slots are complete (R203), and they hold no uncorrectable error (R219). -/
def Env.operandOk (e : Env) (o : Operand) (wide : Bool) : Prop :=
  (match o with
    | .age n => n.val + wide.toNat < e.w.top.queue.length
    | .frame n => n.val + wide.toNat < e.w.top.win.length
    | _ => True)
  ∧ (e.ctx.check = true → e.rdBusy (.vec o wide) = false)
  ∧ e.rdBad (.vec o wide) = false

/-- Integer operations of two operands (R371-R385): control field, mask, type and operands. -/
def vintShape : Instr → Option (Ctrl × KReg × IntT × Operand × Src)
  | .vadd c k t _ a b | .vsub c k t _ a b | .vand c k t a b | .vor c k t a b | .vxor c k t a b | .vandn c k t a b
  | .vshl c k t a b | .vshr c k t a b | .vsra c k t a b | .vmin c k t a b | .vmax c k t a b | .vmul c k t a b
  | .vmulhi c k t a b => some (c, k, t, a, b)
  | _ => none

/-- Reporting forms (R114): FENCE and what begins with one (LAUNCH, R334, and RSV.DONE, R353), the waiting forms of Table 2.5,
EXIT, CALL, CALLI and RET. -/
def reports : Instr → Bool
  | .exit .. | .call .. | .calli .. | .ret .. | .fence .. | .barArriveWait .. | .barWait .. | .tlwait .. | .acq ..
  | .launch .. | .launchWait .. | .lwait .. | .rsvWave .. | .rsvDone .. => true
  | .vldComb _ _ q _ _ => q != .any
  | .vstComb _ _ q _ _ _ => q == .empty
  | _ => false

/-! ### Levels -/

/-- The target of a word offset, as a number of words from the instruction's own address (R310). -/
def branchTarget (pc : BitVec 52) (off : BitVec 22) : BitVec 52 := BitVec.ofInt 52 (pc.toNat + 8 * off.toInt)

/-- The conditions of BRC on a signed value (R310, Table 20.7). -/
def brHolds (cond : BrC) (v : Int) : Bool :=
  match cond with
  | .z => v = 0
  | .nz => v ≠ 0
  | .lt => v < 0
  | .ge => 0 ≤ v
  | .gt => 0 < v
  | .le => v ≤ 0

/-- The level that a call opens (R54): `nargs` ages copied with their taint, every other slot 0, no window, the caller's
masks, the fork closed. -/
def Level.opened (lv : Level) (nargs : Nat) (ret : BitVec 52) : Level where
  queue := (List.range lv.queue.length).map fun j => if j < nargs then (lv.queue.getD j Slot.zero).seed else Slot.zero
  win := []
  wopen := false
  masks := lv.masks
  fork := false
  cur := 0
  arms := [⟨false, 0⟩, ⟨false, 0⟩, ⟨false, 0⟩, ⟨false, 0⟩]
  retpc := ret
  spilled := false

/-- The caller's level after a return of `m` ages (R56): callee age j stands at caller age j, the caller's own entries have
moved back, and the pushes count in an open arm (R49). -/
def Level.returned (lv callee : Level) (m : Nat) : Level :=
  { lv with
    queue := callee.queue.take m ++ lv.queue.take (lv.queue.length - m)
    arms := if lv.fork && m != 0 then lv.arms.modify lv.cur fun a => { a with count := min 127 (a.count + m) } else lv.arms }

/-- The levels fit in the register file (R58): at most four resident, their windows within W slots. -/
def Swarm.fits (w : Swarm) (frame : Nat) : Prop :=
  (w.under.filter fun l => !l.spilled).length ≤ 3
    ∧ w.top.win.length + ((w.under.filter fun l => !l.spilled).map fun l => l.win.length).sum ≤ frame

/-- A rejoin source (R52): 0 for 0xFF, else the age as it reads at issue (R38). -/
def Env.source (e : Env) (x : Nat) : List W32 :=
  if x = 0xFF then splat 0
  else match e.w.top.queue[x]? with
    | none => splat 0
    | some sl => e.slotVal (64 + x) sl

/-- Where a level stands is no part of its contents (R58). -/
def Level.contents (l : Level) : Level := { l with spilled := false }

/-- A swarm after an instruction that opened a level or a window: when the levels fit, nothing else changes; else older
levels go to the spill stack, which changes no level's contents (R58). -/
def Opened (e : Env) (w : Swarm) (t : State) : Prop :=
  (w.fits e.fld.desc.frame → t = e.s.issuedTo w)
    ∧ ∃ under, t.swarms[e.i]? = some { w with under := under }
        ∧ under.map Level.contents = w.under.map Level.contents

/-! ### Traps -/

/-- The trap state as a trap writes it (R211, Table 14.3): the record, SR.TRESUME and INTRAP. -/
def TrapState.taken (x : TrapState) (t : Trap) (resume : BitVec 52) : TrapState :=
  { x with
    rec0 := t.rec0
    rec1 := (t.pc.getD resume).setWidth 64
    rec2 := t.mask
    rec3 := t.info
    resume := resume
    intrap := true }

/-- The swarm in its handler (R211, R212): a level as CALL opens it with every age seeded, the flags set aside and cleared,
the pc at SR.TVEC. -/
def Swarm.inHandler (w : Swarm) (t : Trap) (resume tvec : BitVec 52) : Swarm :=
  { w with
    trap := { w.trap.taken t resume with flags := w.flags }
    flags := [0, 0, 0, 0, 0, 0, 0, 0, 0, 0, 0, 0]
    ops := w.ops.map fun o => { o with aside := true }
    under := w.top :: w.under
    top := w.top.opened w.top.queue.length 0
    hdepth := w.under.length + 2
    pc := tvec
    lastIssue := none
    entering := false }

/-- A handler can be entered (R211): none runs, SR.TVEC names one, and the call depth leaves room. -/
def HandlerFree (s : State) (i : Nat) (w : Swarm) : Prop :=
  s.swarms[i]? = some w ∧ w.trap.intrap = false ∧ s.tvecOf i ≠ 0 ∧ w.under.length + 1 < 1024

/-- It can be entered at once: every owed result has landed (R212), no page of the private area waits for a DRAIN (R112), and the
levels fit (R58). -/
def HandlerReady (s : State) (i : Nat) (w : Swarm) (frame : Nat) : Prop :=
  HandlerFree s i w ∧ w.drained = true ∧ w.scalarsLanded = true ∧ s.privHeld i = false
    ∧ (s.descOf i).map KDesc.frame = some frame
    ∧ (w.under.filter fun l => !l.spilled).length ≤ 2
    ∧ ((w.top :: w.under.filter fun l => !l.spilled).map fun l => l.win.length).sum ≤ frame

/-! ### Results -/

/-- A truth value as a word (Table 23.2). -/
def truth (p : Bool) : W64 := if p then 1 else 0

/-- The scalar forms of two registers with their results, in integer arithmetic (R354, Table 23.2). -/
def scalarForm : Instr → Option (Ctrl × SReg × SReg × SReg × (W64 → W64 → W64))
  | .sadd c d a b => some (c, d, a, b, fun x y => BitVec.ofNat 64 (x.toNat + y.toNat))
  | .ssub c d a b => some (c, d, a, b, fun x y => BitVec.ofInt 64 (x.toInt - y.toInt))
  | .smul c d a b => some (c, d, a, b, fun x y => BitVec.ofNat 64 (x.toNat * y.toNat))
  | .sand c d a b => some (c, d, a, b, fun x y => BitVec.ofNat 64 (x.toNat &&& y.toNat))
  | .sor c d a b => some (c, d, a, b, fun x y => BitVec.ofNat 64 (x.toNat ||| y.toNat))
  | .sxor c d a b => some (c, d, a, b, fun x y => BitVec.ofNat 64 (x.toNat ^^^ y.toNat))
  | .sshl c d a b => some (c, d, a, b, fun x y => BitVec.ofNat 64 (x.toNat * 2 ^ (y.toNat % 64)))
  | .sshr c d a b => some (c, d, a, b, fun x y => BitVec.ofNat 64 (x.toNat / 2 ^ (y.toNat % 64)))
  | .ssra c d a b => some (c, d, a, b, fun x y => BitVec.ofInt 64 (x.toInt / (2 ^ (y.toNat % 64) : Nat)))
  | .smin c sg d a b => some (c, d, a, b, fun x y =>
      if (if sg then decide (x.toInt ≤ y.toInt) else decide (x.toNat ≤ y.toNat)) then x else y)
  | .smax c sg d a b => some (c, d, a, b, fun x y =>
      if (if sg then decide (y.toInt ≤ x.toInt) else decide (y.toNat ≤ x.toNat)) then x else y)
  | .sseq c d a b => some (c, d, a, b, fun x y => truth (decide (x = y)))
  | .sslt c sg d a b => some (c, d, a, b, fun x y =>
      truth (if sg then decide (x.toInt < y.toInt) else decide (x.toNat < y.toNat)))
  | _ => none

/-- The scalar forms of one register and an immediate (R354, R355, Table 23.2), the immediate sign-extended. -/
def scalarImmForm : Instr → Option (Ctrl × SReg × SReg × (W64 → W64))
  | .saddi c d a i => some (c, d, a, fun x => BitVec.ofInt 64 (x.toInt + i.toInt))
  | .sandi c d a i => some (c, d, a, fun x => x &&& BitVec.ofInt 64 i.toInt)
  | .sori c d a i => some (c, d, a, fun x => x ||| BitVec.ofInt 64 i.toInt)
  | .sxori c d a i => some (c, d, a, fun x => x ^^^ BitVec.ofInt 64 i.toInt)
  | .sshli c d a n => some (c, d, a, fun x => BitVec.ofNat 64 (x.toNat * 2 ^ n.val))
  | .sshri c d a n => some (c, d, a, fun x => BitVec.ofNat 64 (x.toNat / 2 ^ n.val))
  | .ssrai c d a n => some (c, d, a, fun x => BitVec.ofInt 64 (x.toInt / (2 ^ n.val : Nat)))
  | .sslti c d a i => some (c, d, a, fun x => truth (decide (x.toInt < i.toInt)))
  | .ssethi c d i => some (c, d, d, fun x => BitVec.ofNat 64 (i.toNat * 2 ^ 26 + x.toNat % 2 ^ 26))
  | _ => none

/-- The mask logic forms (R331), bit by bit. -/
def maskForm : Instr → Option (Ctrl × KReg × KReg × KReg × (Bool → Bool → Bool))
  | .kand c d a b => some (c, d, a, b, fun x y => x && y)
  | .kor c d a b => some (c, d, a, b, fun x y => x || y)
  | .kxor c d a b => some (c, d, a, b, fun x y => x != y)
  | .kandn c d a b => some (c, d, a, b, fun x y => x && !y)
  | .knot c d a => some (c, d, a, a, fun x _ => !x)
  | .kmov c d a => some (c, d, a, a, fun x _ => x)
  | _ => none

/-- The mask a selector names: k0 is every lane, k1 to k15 the registers of the current level (R9, R333). -/
def Env.maskBit (e : Env) (k : KReg) (l : Nat) : Bool := k.val = 0 || (e.w.top.masks.getD (k.val - 1) 0).getLsbD l

/-- The conditions of KCMP on exact integers (R330). -/
def holdsOn (q : CmpC) (x y : Int) : Bool :=
  match q with
  | .eq => x = y
  | .ne => x ≠ y
  | .lt => x < y
  | .le => x ≤ y
  | .gt => y < x
  | .ge => y ≤ x
  | .un => false

/-- An integer element as the exact number its type makes of it. -/
def numOf (t : IntT) {n : Nat} (x : BitVec n) : Int :=
  match t with
  | .s32 | .s64 => x.toInt
  | .n32 | .n64 => (x.toNat : Int)

/-- The last source of a lane, an immediate extended by the type's signedness (R371). -/
def Env.srcNum (e : Env) (t : IntT) (b : Src) (l : Nat) : Int :=
  match b with
  | .op o => if intWide t then numOf t (el64 (e.read64 1 o) l) else numOf t (el (e.read 1 o) l)
  | .imm v => match t with
    | .s32 | .s64 => v.toInt
    | .n32 | .n64 => v.toNat

/-- The first source of a lane. -/
def Env.opNum (e : Env) (t : IntT) (a : Operand) (l : Nat) : Int :=
  if intWide t then numOf t (el64 (e.read64 0 a) l) else numOf t (el (e.read 0 a) l)

/-- Bits of an integer type. -/
def bitsOf (t : IntT) : Nat := if intWide t then 64 else 32

/-- Clamps to the range of a type (R374). -/
def clampTo (t : IntT) (z : Int) : Int :=
  match t with
  | .s32 => max (-2 ^ 31) (min (2 ^ 31 - 1) z)
  | .n32 => max 0 (min (2 ^ 32 - 1) z)
  | .s64 => max (-2 ^ 63) (min (2 ^ 63 - 1) z)
  | .n64 => max 0 (min (2 ^ 64 - 1) z)

/-- A number's bits as a number without sign. -/
def wrapTo (n : Nat) (z : Int) : Nat := (z % (2 ^ n : Nat)).toNat

/-- The two-operand integer families, on exact numbers x and y of the type, with their clocks (R371-R384, Table 24.2). The
result is taken modulo 2^32 or 2^64. -/
def vintResult : Instr → Option (Nat × (Int → Int → Int))
  | .vadd _ _ t sat _ _ => some (4, fun x y => if sat then clampTo t (x + y) else x + y)
  | .vsub _ _ t sat _ _ => some (4, fun x y => if sat then clampTo t (x - y) else x - y)
  | .vand _ _ t _ _ => some (4, fun x y => ((wrapTo (bitsOf t) x &&& wrapTo (bitsOf t) y : Nat) : Int))
  | .vor _ _ t _ _ => some (4, fun x y => ((wrapTo (bitsOf t) x ||| wrapTo (bitsOf t) y : Nat) : Int))
  | .vxor _ _ t _ _ => some (4, fun x y => ((wrapTo (bitsOf t) x ^^^ wrapTo (bitsOf t) y : Nat) : Int))
  | .vandn _ _ t _ _ => some (4, fun x y => ((wrapTo (bitsOf t) x &&& (2 ^ bitsOf t - 1 - wrapTo (bitsOf t) y) : Nat) : Int))
  | .vshl _ _ t _ _ => some (4, fun x y => x * (2 ^ wrapTo (if intWide t then 6 else 5) y : Nat))
  | .vshr _ _ t _ _ => some (4, fun x y =>
      ((wrapTo (bitsOf t) x / 2 ^ wrapTo (if intWide t then 6 else 5) y : Nat) : Int))
  | .vsra _ _ t _ _ => some (4, fun x y =>
      (if wrapTo (bitsOf t) x < 2 ^ (bitsOf t - 1) then (wrapTo (bitsOf t) x : Int)
        else (wrapTo (bitsOf t) x : Int) - (2 ^ bitsOf t : Nat)) / (2 ^ wrapTo (if intWide t then 6 else 5) y : Nat))
  | .vmin _ _ _ _ _ => some (4, fun x y => min x y)
  | .vmax _ _ _ _ _ => some (4, fun x y => max x y)
  | .vmul _ _ _ _ _ => some (6, fun x y => x * y)
  | .vmulhi _ _ t _ _ => some (6, fun x y => x * y / (2 ^ bitsOf t : Nat))
  | _ => none

/-- What an instruction with a vector result leaves (R38, R43): entries pushed in order under mask `m` with taint `t`, each
to be written by the operation left in flight. -/
def pushedState (s : State) (e : Env) (c : Ctrl) (lat : Option Nat) (m : W64) (t : Bool) (vs : List (List W32)) : State :=
  s.issuedTo { e.launched c lat (.result (vs.map fun v => (m, v)) [] none none) with
    top := e.w.top.pushAll e.w.nextOp (vs.map fun v => ⟨m, t, v⟩) 0 }

/-- A slot when a result lands (R38, R43, R47): the elements of the result's mask are written, the others kept. -/
def Slot.landed (id : Nat) (vecs : List (W64 × List W32)) (sl : Slot) : Slot :=
  match sl.busy with
  | none => sl
  | some (k, p) =>
    if k = id then
      match vecs[p]? with
      | none => sl
      | some (m, d) => ⟨lanes fun l => if m.getLsbD l then el d l else el sl.data l, sl.taint, none, sl.bad⟩
    else sl

/-- A level when a result lands. -/
def Level.landed (id : Nat) (vecs : List (W64 × List W32)) (lv : Level) : Level :=
  { lv with queue := lv.queue.map (Slot.landed id vecs), win := lv.win.map (Slot.landed id vecs) }

/-- Every level of a swarm when a result lands. -/
def Swarm.landed (id : Nat) (vecs : List (W64 × List W32)) (w : Swarm) : Swarm :=
  { w with top := w.top.landed id vecs, under := w.under.map (Level.landed id vecs) }

/-- A scalar register is written whole: an uncorrectable error it held goes (R219). -/
def Swarm.withScalar (w : Swarm) (d : Nat) (v : W64) : Swarm :=
  { w with scalars := w.scalars.set d v, badScalars := w.badScalars.filter fun n => n != d }

/-- An operation ends (R201, R212): it leaves, and its flag counts down, in the set-aside copy when it was issued before the
trap; issue checks see that from the next clock on. -/
def Swarm.opEnded (w : Swarm) (o : Op) : Swarm :=
  let w1 := { w with ops := w.ops.filter fun p => p.id != o.id }
  match o.flag with
  | none => w1
  | some n =>
    if o.aside then
      { w1 with
        trap := { w.trap with flags := w.trap.flags.set n.val (w.trap.flags.getD n.val 0 - 1) }
        fell := (n.val + 12) :: w.fell }
    else { w1 with flags := w.flags.set n.val (w.flag n.val - 1), fell := n.val :: w.fell }

/-- A mask register of the current level is written whole (R333); k0 never is. -/
def Swarm.withMask (w : Swarm) (km : Option (Nat × W64)) : Swarm :=
  match km with
  | none => w
  | some (0, _) => w
  | some (k + 1, v) => { w with top := { w.top with masks := w.top.masks.set k v } }

/-- Operation `op` of swarm `sw`, which actor `a` performs, may perform as far as its latency goes (R202), and no operation of the
swarm is to land before it (R333). -/
def Due (s : State) (sw op : Nat) (a : Actor) (o : Op) (w : Swarm) : Prop :=
  s.swarms[sw]? = some w ∧ w.ops.find? (fun x => x.id == op) = some o ∧ s.actorOf sw = some a
    ∧ (∀ d, o.due = some d → d ≤ s.cycleOf a.k.1)
    ∧ ∀ p ∈ w.ops, ∀ d, p.due = some d → d ≤ s.cycleOf a.k.1 → p.id ≠ o.id →
        ∃ t, o.due = some t ∧ (t < d ∨ t = d ∧ o.id < p.id)

/-- The device once swarm `sw` stands as `w`: a handler that waited for the result is entered (R212), and the waits that
were released go on (R144). -/
def State.goesOn (s : State) (sw : Nat) (w : Swarm) : State :=
  settle (({ s with swarms := s.swarms.set sw w } : State).tryEnter sw)

/-! ### Across lanes, floating point -/

/-- The elements of a list combined in order; the first stands as it is (R383). -/
def foldAll {α : Type} (op : α → α → α) : List α → Option α
  | [] => none
  | x :: r => some (r.foldl op x)

/-- The integer combinations of VRED and VSCAN (R383). -/
def redOn (op : RedOp) (t : IntT) {n : Nat} (x y : BitVec n) : BitVec n :=
  match op with
  | .add => BitVec.ofNat n (x.toNat + y.toNat)
  | .min => if numOf t y < numOf t x then y else x
  | .max => if numOf t x < numOf t y then y else x

/-- The active lanes that a lane's result combines: up to it for a scan, all of them for a reduction. -/
def Env.combined (e : Env) (scan : Bool) (k : KReg) (l : Nat) : List Nat :=
  (List.range (if scan then l + 1 else 64)).filter (e.maskBit k)

/-- The codes in an element: one, or both halves of a packed pair (R63). -/
def codesOf (t : FpT) (v : W32) : List Nat :=
  match t with
  | .f32 => [v.toNat]
  | .f16x2 | .bf16x2 => [v.toNat % 2 ^ 16, v.toNat / 2 ^ 16]

/-- Float forms of two sources: the exact result, before its one rounding (R324). -/
def floatForm : Instr → Option (Ctrl × KReg × FpT × RM × Operand × Operand × (FV → FV → FV))
  | .fadd c k t rm a b => some (c, k, t, rm, a, b, FV.add rm)
  | .fsub c k t rm a b => some (c, k, t, rm, a, b, fun x y => FV.add rm x y.neg)
  | .fmul c k t rm a b => some (c, k, t, rm, a, b, FV.mul)
  | _ => none

/-- What FMIN and FMAX answer (R325): a NaN gives way to a number, -0 lies below +0, the chosen operand is unchanged. -/
def Picked (isMax : Bool) (f : FFmt) (x y r : Nat) : Prop :=
  let a := f.decode x
  let b := f.decode y
  (a = .nan → b = .nan → r = f.nan) ∧ (a = .nan → b ≠ .nan → r = y) ∧ (a ≠ .nan → b = .nan → r = x)
    ∧ (a ≠ .nan → b ≠ .nan → (r = x ∨ r = y)
      ∧ (if isMax then (f.decode r).lt a = false ∧ (f.decode r).lt b = false
          else a.lt (f.decode r) = false ∧ b.lt (f.decode r) = false)
      ∧ (a.isZero = true → b.isZero = true → (f.split x).1 ≠ (f.split y).1 → ((f.split r).1 = !isMax)))

/-- The conditions of KCMP on floating-point values (R330). -/
def holdsFv (q : CmpC) (x y : FV) : Bool :=
  let ord := !x.isNan && !y.isNan
  match q with
  | .eq => ord && x.numEq y
  | .ne => !(ord && x.numEq y)
  | .lt => ord && x.lt y
  | .le => ord && !y.lt x
  | .gt => ord && y.lt x
  | .ge => ord && !x.lt y
  | .un => !ord

/-- The finite value ±m·2^e is the integer z. -/
def IsWhole (neg : Bool) (m : Nat) (e z : Int) : Prop := (if neg then -(m : Int) else m) * 2 ^ e.toNat = z * 2 ^ (-e).toNat

/-- An element converted and placed (R69-R71, Table 21.4), when its value is in range. -/
def cvtPlaced (dst src : TDesc) (rm : RM) (ov : OV) (x : Nat) : Option Nat :=
  (convert dst rm ov (srcValue src x)).map (placeBits dst)

/-- The lanes of the mask in which some of the values to convert is out of range under .ovtrap (R73). -/
def Env.cvtBad (e : Env) (k : KReg) (f : Nat → List (Option Nat)) (l : Nat) : Bool :=
  e.maskBit k l && (f l).any Option.isNone

/-! ### Global memory -/

/-- The address of a lane: sB plus the unsigned 32-bit address element, modulo 2^64 (R303, R377). -/
def Env.laneVa (e : Env) (sb : SReg) (addr : Operand) (l : Nat) : Nat :=
  ((e.scalar 100 sb.val).toNat + (el (e.read 0 addr) l).toNat) % 2 ^ 64

/-- The active lanes keep R97: addresses below 2^52, naturally aligned. -/
def Env.vasOk (e : Env) (k : KReg) (va : Nat → Nat) (z : Nat) : Prop :=
  ∀ l < 64, e.maskBit k l = true → va l < 2 ^ 52 ∧ va l % z = 0

/-- The list holds one number for each lane. -/
def PerLane {α : Type} (xs : List α) (f : Nat → α) : Prop := xs.length = 64 ∧ ∀ l < 64, xs[l]? = some (f l)

/-- `n` entries pushed that an operation will write (R38). -/
def Level.awaiting (lv : Level) (id : Nat) (m : W64) (t : Bool) : Nat → Level
  | 0 => lv
  | n + 1 => (lv.awaiting id m t n).push m t (some (id, n))

/-- An operand of one or two entries in a lane, as 64 bits. -/
def Env.wideEl (e : Env) (j : Nat) (wide : Bool) (o : Operand) (l : Nat) : W64 :=
  if wide then el64 (e.read64 j o) l else (el (e.read j o) l).setWidth 64

/-- The atomics with their operation, width, residency mask, address and data (R303, Table 21.1). -/
def atomForm : Instr → Option (Ctrl × KReg × AtomOp × Bool × Fin 8 × SReg × Operand × Operand)
  | .atomAdd c k w n b a d => some (c, k, .add, w, n, b, a, d)
  | .atomAnd c k w n b a d => some (c, k, .and, w, n, b, a, d)
  | .atomOr c k w n b a d => some (c, k, .or, w, n, b, a, d)
  | .atomXor c k w n b a d => some (c, k, .xor, w, n, b, a, d)
  | .atomXchg c k w n b a d => some (c, k, .xchg, w, n, b, a, d)
  | .atomCas c k w n b a d => some (c, k, .cas, w, n, b, a, d)
  | .atomMin c k sg w n b a d => some (c, k, if sg then .minS else .minN, w, n, b, a, d)
  | .atomMax c k sg w n b a d => some (c, k, if sg then .maxS else .maxN, w, n, b, a, d)
  | .atomAddF32 c k n b a d => some (c, k, .addF32, false, n, b, a, d)
  | _ => none

/-- The reductions without return (R346). -/
def redForm : Instr → Option (Ctrl × KReg × AtomOp × Bool × SReg × Operand × Operand)
  | .red c k op w b a d => some (c, k, match op with
      | .add => .add
      | .minS => .minS
      | .minN => .minN
      | .maxS => .maxS
      | .maxN => .maxN
      | .and => .and
      | .or => .or
      | .xor => .xor, w, b, a, d)
  | .redF32 c k b a d => some (c, k, .addF32, false, b, a, d)
  | _ => none

/-- An instruction ends restartability before it proceeds (R221): RST reads 0 with that CAUSE, and the store buffer has
been drained. -/
def Ends (s : State) (e : Env) (i : Instr) (cause : Nat) : Prop :=
  ∃ u col, exec i s = .next u ∧ u.colonies[e.w.colony]? = some col ∧ col.rst = false ∧ col.rstCause = cause ∧ col.sbuf = []

/-- The vector accesses of one address a lane: control, mask, base, address, size, pushes, other operands (R377, R386,
R303, R346). -/
def memShape (i : Instr) : Option (Ctrl × KReg × SReg × Operand × Nat × Nat × List (Operand × Bool)) :=
  match i with
  | .vld c k mt b a _ | .vldc c k mt b a _ => some (c, k, b, a, mtBytes mt, wOf (mtWide mt), [])
  | .vst c k mt b a d => some (c, k, b, a, mtBytes mt, 0, [(d, mtWide mt)])
  | i => match atomForm i, redForm i with
    | some (c, k, op, w, _, b, a, d), _ =>
      some (c, k, b, a, 4 * wOf w, wOf w, (d, w) :: if op = .cas then [(opShift d (wOf w), w)] else [])
    | none, some (c, k, _, w, b, a, d) => some (c, k, b, a, 4 * wOf w, 0, [(d, w)])
    | none, none => none

/-- A coherent location that a core reads at its home (R104, R121): its translation to a 64 KiB frame is held, no link on the way
holds the access (R231), it lies in plain memory, the core has no bound line of it, no byte of it is poisoned, and its frame is no
unsupported synonym (R106). -/
def State.coherentAt (s : State) (a : Actor) (va z : Nat) (m : MapRec) : Prop :=
  s.heldMap a.asid va = some m ∧ s.holds a.asid va false = false ∧ m.pa % 2 ^ 16 = 0 ∧ m.c = true
    ∧ (s.core a.k).line? a.asid va = none
    ∧ s.poisoned (m.paOf va) z = false ∧ isSelfReg (m.paOf va) = false ∧ isPeerPa (m.paOf va) = false
    ∧ s.synonym (m.paOf va) = false

/-- A coherent location that can be written at its home: writable too, its D bit set, outside the system region. -/
def State.writableAt (s : State) (a : Actor) (va z : Nat) (m : MapRec) : Prop :=
  s.heldMap a.asid va = some m ∧ s.holds a.asid va true = false ∧ m.pa % 2 ^ 16 = 0 ∧ m.c = true ∧ m.w = true
    ∧ m.dset = true ∧ m.pa / 2 ^ 44 ≠ 3
    ∧ s.poisoned (m.paOf va) z = false ∧ isSelfReg (m.paOf va) = false ∧ isPeerPa (m.paOf va) = false
    ∧ s.synonym (m.paOf va) = false

/-- No line of the actor's core takes a store at this address without asking its home (R113). -/
def State.asksHome (s : State) (a : Actor) (va : Nat) : Prop :=
  ∀ l ∈ (s.core a.k).l1, l.of a.asid = true → l.line = va / 64 → l.w = false

/-- The device once an access through a tainted address has acquired, as a fence pair does (R161): of the address space, the actor's
core keeps only dirty bytes. -/
def State.acquiredBy (s : State) (a : Actor) (tainted : Bool) : State :=
  if tainted then s.updCore a.k fun k => { k with
    l1 := (k.l1.filter fun l => !l.of a.asid || l.dirty != 0).map fun l => if l.of a.asid then { l with have_ := l.dirty } else l }
  else s

/-- The number that loaded bytes stand for (R377). -/
def loadedInt (mt : MT) (bs : List Byte) : Int :=
  match mt with
  | .s8 => (BitVec.ofNat 8 (leNat bs)).toInt
  | .s16 => (BitVec.ofNat 16 (leNat bs)).toInt
  | _ => leNat bs

/-- The new value of an atomic (Table 21.1), on numbers below 2^32 or 2^64. -/
def atomOn (op : AtomOp) (wide : Bool) (old val exp : Nat) : Nat :=
  let n := if wide then 64 else 32
  let sv := fun x : Nat => if x < 2 ^ (n - 1) then (x : Int) else (x : Int) - (2 ^ n : Nat)
  match op with
  | .add => (old + val) % 2 ^ n
  | .minS => if sv val < sv old then val else old
  | .minN => if val < old then val else old
  | .maxS => if sv old < sv val then val else old
  | .maxN => if old < val then val else old
  | .and => old &&& val
  | .or => old ||| val
  | .xor => old ^^^ val
  | .xchg => val
  | .cas => if old = exp then val else old
  | .addF32 => fmtF32.round .rne (FV.add .rne (fmtF32.decode old) (fmtF32.decode val))

/-- Atomics of some lanes in order on memory (R166): the memory after them, and what each lane found. -/
def atomRun (op : AtomOp) (wide : Bool) (pa : Nat → Nat) (val exp : List W64) :
    List Nat → List Host.Cell → List Host.Cell × List (Nat × Nat)
  | [], m => (m, [])
  | l :: r, m =>
    let z := if wide then 8 else 4
    let old := leNat (memBytes m (pa l) z)
    let (m', os) := atomRun op wide pa val exp r
      (memPutBytes m (pa l) (leBytes z (atomOn op wide old (el64 val l).toNat (el64 exp l).toNat)))
    (m', (l, old) :: os)

/-- ATOM2 of some lanes in order on memory (R168, R305): the memory after them, and what each lane found at its two locations. DCAS
writes both where both hold what is expected; AMOVE moves what location 1 holds to location 2, and writes location 1. -/
def atom2Run (dcas wide : Bool) (p1 p2 : Nat → Nat) (e1 e2 n1 n2 : List W64) :
    List Nat → List Host.Cell → List Host.Cell × List (Nat × Nat × Nat)
  | [], m => (m, [])
  | l :: r, m =>
    let z := if wide then 8 else 4
    let arg := fun xs : List W64 => (el64 xs l).toNat
    let o1 := leNat (memBytes m (p1 l) z)
    let o2 := leNat (memBytes m (p2 l) z)
    let m' :=
      if dcas then
        if o1 = arg e1 ∧ o2 = arg e2 then memPutBytes (memPutBytes m (p1 l) (leBytes z (arg n1))) (p2 l) (leBytes z (arg n2))
        else m
      else memPutBytes (memPutBytes m (p2 l) (leBytes z o1)) (p1 l) (leBytes z (arg n2))
    let (m2, os) := atom2Run dcas wide p1 p2 e1 e2 n1 n2 r m'
    (m2, (l, o1, o2) :: os)

/-- The lanes of a mask in ascending order. -/
def activeLanes (m : W64) : List Nat := (List.range 64).filter fun l => m.getLsbD l

/-- One f32 contribution gathered in a core's update-only copy (R167). -/
def gather (k : Nat × Nat × Nat) (us : List UpdCopy) (x : Nat × W32) : List UpdCopy :=
  if us.any fun u => u.core = k ∧ u.pa = x.1 then
    us.map fun u => if u.core = k ∧ u.pa = x.1 then { u with sum := addF32 u.sum x.2 } else u
  else ⟨k, x.1, x.2⟩ :: us

/-! ### Waits, the comb, barriers, loops -/

/-- The swarm once a waiting form has issued: blocked on its target, with the operation that ends with the wait (R25, R201). -/
def Env.blocked (e : Env) (c : Ctrl) (k : WaitKind) (cls : Nat) : Swarm :=
  { e.launched c none .waiting with wait := some ⟨k, cls, 0, e.w.nextOp, []⟩ }

/-- The device after an issue that changes the issuing swarm and its colony. -/
def State.issuedIn (s : State) (e : Env) (w : Swarm) (c : Colony) : State :=
  { s.issuedTo w with colonies := s.colonies.set e.w.colony c }

/-- Two byte ranges have no byte in common. -/
def Apart (a n b m : Nat) : Prop := a + n ≤ b ∨ b + m ≤ a

/-- Nothing of the swarm is in flight that an Acq comes after: no REL (R162), no TASK.POP, which may return a pair (R196, R361), and
no access of the target's bytes, when it has some (Table 9.4). -/
def Swarm.acqFree (w : Swarm) (target : Option (Nat × Nat)) : Prop :=
  ∀ o ∈ w.ops, (∀ sc va, o.body ≠ .rel sc va) ∧ (∀ p d, o.body ≠ .taskPop p d)
    ∧ ∀ t, target = some t → ∀ x ∈ o.body.span, Apart x.1 x.2 t.1 t.2

/-- Nothing of the swarm holds a comb access through this operand back: no VLDC in flight behind a tainted address (R163), no
TASK.POP (R196). -/
def Env.combFree (e : Env) (addr : Operand) : Prop :=
  ∀ o ∈ e.w.ops, (∀ p d, o.body ≠ .taskPop p d)
    ∧ (e.taint false addr = true → ∀ mt m vas kr t, o.body ≠ .load mt true m vas kr t)

/-- The device once swarms have accessed cells of a colony's comb in this clock (Table 7.9). -/
def State.touched (s : State) (j : Nat) (cells : List Nat) : State :=
  { s with clk := { s.clk with cells := cells.map (fun c => (j, c)) ++ s.clk.cells } }

/-- Two lists of signatures share none. -/
def NoneShared (a b : List Nat) : Prop := ∀ x ∈ a, x ∉ b

/-- A wait for the wave former that raises a releaser no more (R29, Table 2.5); any other wait stands. -/
def Wait.without (x : Releaser) (wt : Wait) : Wait :=
  match wt.kind with
  | .rsvWave _ => { wt with raises := wt.raises.filter fun y => y != x }
  | _ => wt

/-- No bound line of an address space holds dirty bytes in a core's L1. -/
def State.cleanL1 (s : State) (k : Nat × Nat × Nat) (asid : Nat) : Prop :=
  ∀ l ∈ (s.core k).l1, l.of asid = true → l.dirty = 0

/-- The comb address a lane uses: its sum, mapped by the ring it lies in at the stage's pointer (R136, R379). -/
def Env.combAddr (e : Env) (b : SReg) (addr : Operand) (l : Nat) : Nat := e.col.mapAddr e.w.stage (e.laneVa b addr l)

/-- The active lanes' comb addresses pass the checks of R122 and R136: inside the allocation, aligned, and at a stage the
ring has. -/
def Env.combOk (e : Env) (k : KReg) (b : SReg) (addr : Operand) : Prop :=
  ∀ l < 64, e.maskBit k l = true →
    e.laneVa b addr l < e.fld.desc.combSize ∧ e.laneVa b addr l % 4 = 0
      ∧ ∀ n r, e.col.ringAt (e.laneVa b addr l) = some (n, r) → e.w.stage < r.rs

/-- A wait on cells of these classes is legal (R26, Table 2.6): a CONC field waits for anything, a PAR field for its own
colony; a WEAK one for none of these. -/
def Env.combLegal (e : Env) (k : KReg) (b : SReg) (addr : Operand) : Prop :=
  ∀ l < 64, e.maskBit k l = true → e.col.cellClass e.fld.cls (e.laneVa b addr l) ≤ 1

/-- The generation of an ordinary barrier completes when every arrival is in (R131): GEN advances, both counts clear, and
held engine arrivals count in the next one. -/
def Bar.closed (b : Bar) : Bar :=
  if b.sArr = b.m ∧ b.eArr = b.e then
    { b with gen := b.gen + 1, sArr := 0, eArr := min b.eHeld b.e, eHeld := b.eHeld - min b.eHeld b.e }
  else b

/-- A swarm's arrival at an ordinary barrier (R131). -/
def Bar.arrived (b : Bar) (w : Nat) : Bar :=
  Bar.closed { b with tokens := (w, b.gen.toNat) :: b.tokens.filter (fun t => t.1 != w), sArr := b.sArr + 1 }

/-- Stage `st` of a ring barrier has its arrivals (R137): `n` of swarms and ENG_s of engines, and every earlier stage is past it. -/
def RingIn (n : Nat) (r : Ring) (b : Bar) (st : Nat) : Prop :=
  (∃ held, b.stages.getD st (0, 0, 0) = (n, r.eng st, held)) ∧ ∀ e < st, ahead (r.ptr st + 1) (r.ptr e) = false

/-- Advancing, stage `st` stays less than the ring's size ahead of every later stage (R137). -/
def RingNear (r : Ring) (st : Nat) : Prop := ∀ l, st < l → l < r.rs → (r.ptr st + 1 + (2 ^ 32 - r.ptr l)) % 2 ^ 32 ≤ r.n - 1

/-- Its generation completes. -/
def RingDone (n : Nat) (r : Ring) (b : Bar) (st : Nat) : Prop := RingIn n r b st ∧ RingNear r st

/-- What at most `n` advances make of a ring and its barrier: at each one the latest stage whose generation completes counts its
pointer up, and starts its next generation with the engine arrivals held for it (R137). -/
inductive RingRuns (ns : List Nat) : Nat → Ring → Bar → Ring → Bar → Prop
  | over (n : Nat) (r : Ring) (b : Bar) : (n = 0 ∨ ∀ st < r.rs, ¬RingDone (ns.getD st 0) r b st) → RingRuns ns n r b r b
  | next (n : Nat) (r : Ring) (b : Bar) (st held : Nat) (r' : Ring) (b' : Bar) : st < r.rs → RingDone (ns.getD st 0) r b st →
      (∀ l, st < l → l < r.rs → ¬RingDone (ns.getD l 0) r b l) → (b.stages.getD st (0, 0, 0)).2.2 = held →
      RingRuns ns n { r with ptrs := r.ptrs.modify st (· + 1) }
        { b with stages := b.stages.set st (0, min held (r.eng st), held - min held (r.eng st)) } r' b' →
      RingRuns ns (n + 1) r b r' b'

/-- A barrier is legal to wait on (R26, R307): a WEAK member class asks that every swarm of the colony takes part. -/
def Env.barWaitOk (e : Env) (b : Nat) : Prop :=
  (e.col.bar b).cls ≤ 1
    ∨ (match e.col.ringOf b with
      | none => (e.col.bar b).m
      | some _ => e.fld.desc.stages.getD e.w.stage 0) = e.fld.desc.swarms

/-- The barrier with an arrival of the issuing swarm at its stage of a ring (R137). -/
def Env.ringArrived (e : Env) (r : Ring) (b : Bar) : Bar :=
  { b with
    tokens := (e.w.idx, r.ptr e.w.stage) :: b.tokens.filter (fun t => t.1 != e.w.idx)
    stages := b.stages.modify e.w.stage fun t => (t.1 + 1, t.2.1, t.2.2) }

/-- No swarm is blocked on a barrier, and no engine operation of its epoch is owed (R130). -/
def Env.barFree (e : Env) (b : Nat) : Prop := barBusy e b = none

/-- An item's lane is pending: it holds an item that no wave has admitted. -/
def RLane.pending (l : RLane) : Bool := l.item.isSome && !l.admitted

/-! ### Matrix, engines, special registers -/

/-- A tile of the issuing core. -/
def Env.tileOf (e : Env) (t : Nat) : Tile := (e.s.core e.core).tiles.getD t ⟨none, none, [], []⟩

/-- A core with one tile changed. -/
def CoreSt.withTile (k : CoreSt) (t : Nat) (f : Tile → Tile) : CoreSt := { k with tiles := k.tiles.modify t f }

/-- The token condition of Table 5.1: the swarm's colony owns the tile, and the swarm holds the token. -/
def Env.holdsToken (e : Env) (t : Nat) : Prop := (e.tileOf t).owner = some e.w.colony ∧ (e.tileOf t).token = some e.i

/-- None of the swarm's MRD and MWR on a tile is in flight (R342). -/
def Env.tileStill (e : Env) (t : Nat) : Prop :=
  ∀ o ∈ e.w.ops, o.body ≠ .mwr t ∧ ∀ m d, o.body ≠ .mrd t m d

/-- The active lanes agree on a legal format word (R74, R75). -/
def Env.votes (e : Env) (m : W64) (o : Operand) (w : W32) : Prop :=
  fmtWordBad w.toNat = false ∧ ∀ l < 64, m.getLsbD l = true → el (e.read 0 o) l = w

/-- Occupancy of the unit (Table 5.5). -/
def mmaOccupancy (t : TileCfg) (fmt : W32) : Nat :=
  ((t.m + 63) / 64) * ((t.n + 31) / 32) * (if fmt.toNat / 2 ^ 10 % 4 = 0 then (t.k + 15) / 16 else (t.k + 7) / 8)

/-- One element of a part's tile after its operation (R77, R87, R88, R91), on comb bytes `byte`: groups of products accumulate on
the old element, or on +0. -/
def mmaValue (byte : Nat → Byte) (stage : Nat) (p : MmaPart) (old : W32) (i j : Nat) : W32 :=
  let t := tileCfg p.tcfg
  let u := unfCfg p.ucfg
  let f := p.fmt.toNat
  let rb := p.q / t.cb
  let cb := p.q % t.cb
  let rd := fun a n => leNat ((List.range n).map fun k => byte (mapRings p.rings stage a + k))
  mmaElement (fmtGroup f) t.k
    (fun k => FV.mul
      (match aAddr u (fmtBytes f) (u.row0 + 128 * rb + i) k with
        | none => .fin false 0 0
        | some a => (fmtA f).decode (rd a (fmtBytes f)))
      ((fmtB f).decode (rd (t.bbase + k * t.bstride + (160 * cb + j) * fmtBytes f) (fmtBytes f))))
    (if scaleA f then fmtF32.decode (rd (t.sabase + 4 * (128 * rb + i)) 4) else .fin false 1 0)
    (if scaleB f then fmtF32.decode (rd (t.sbbase + 4 * (160 * cb + j)) 4) else .fin false 1 0)
    (if p.z then 0 else old)

/-- Values of GETID (R328, Table 22.1). -/
def Env.idValue (e : Env) : IdSel → Nat
  | .swarm => e.w.idx
  | .stage => e.w.stage
  | .colony => e.col.index
  | .field => e.fld.id
  | .nswarm => e.fld.desc.swarms
  | .span => e.fld.desc.span
  | .nstage => e.fld.desc.stages.length
  | .class => e.fld.cls
  | .spanpos => e.w.idx % max 1 e.span.cores.length
  | .vdie => (e.ctx.vdies.findIdx? fun v => v.state != 0 && v.socket == e.span.die).getD 0
  | .cluster => e.span.clus
  | .core => e.core.2.2
  | .ncolony => e.fld.colonies

/-- A task pair's place in a queue (R195): by key, behind its equals. -/
def keyOrdered : List TaskPair → Prop
  | [] => True
  | x :: r => (∀ y ∈ r, x.key.toNat ≤ y.key.toNat) ∧ keyOrdered r

/-! ### Scheduling, power, the host, the fabric -/

/-- What the launch engine does with the record at `va` (R190, R191); or why it cannot read it now (R112, R219). -/
def State.examined (s : State) (cx : Ctx) (va : Nat) (own : Option Nat) : Except Unread Verdict :=
  match s.readRecord cx.asid va with
  | (_, .error .bad) => .ok (.reject 5)
  | (_, .error u) => .error u
  | (s1, .ok r) => .ok (s1.verdict cx r own)

/-- No tile of the cores of a span is a colony's. -/
def State.noTiles (s : State) (p : Span) (j : Nat) : Prop := ∀ k ∈ p.coreKeys, ∀ t ∈ (s.core k).tiles, t.owner ≠ some j

/-- Steps 1 and 2 of Table 14.4 are over, and no page refuses the spill stacks or the lines written back (R31, R216). -/
def State.savable (s : State) (j : Nat) (cx : Ctx) (p : Span) : Prop :=
  s.mayPreempt j = true ∧ (s.spillColony j).signals cx.handle = true
    ∧ ((s.spillColony j).leaveCores cx.handle cx.asid p.coreKeys).signals cx.handle = true

/-- A colony that has been pre-empted (R216): no place, no tile of its span, and saved unless its save area has cost the context a
fault. -/
def State.savedAt (s : State) (j h : Nat) (p : Span) : Prop :=
  (∃ c, s.colonies[j]? = some c ∧ c.place = none ∧ (s.signals h = true → c.status = .saved)) ∧ s.noTiles p j

/-- The virtual-die entries of a socket go from one state to another (R228). -/
def entriesMoved (sock from_ to_ : Nat) (xs : List Ctx) : List Ctx :=
  xs.map fun c => { c with vdies := c.vdies.map fun v => if v.socket = sock ∧ v.state = from_ then { v with state := to_ } else v }

/-- Firmware takes the command and its fields that every command has pass (R249-R251, R268). -/
def Served (m : Cmd) (opc sub : Nat) (root reduced : Bool) (s : State) : Prop :=
  m.opc = opc ∧ m.sub = sub ∧ s.serves reduced = true ∧ s.submitted m = true ∧ s.behind m = false ∧ (root = true → rootSource m.src = true)
    ∧ m.resv = 0 ∧ 3 ≤ m.scope ∧ m.scope ≤ 5

/-- The command completes in state `t` with a status and results (R249, R255). -/
def Answers (i : Instr) (m : Cmd) (s t : State) (st : Nat) (r0 r1 : Nat) : Prop :=
  exec i s = .next (settle (t.complete (s.refOf m) st (BitVec.ofNat 64 r0) (BitVec.ofNat 64 r1)))

/-- The contexts with one of them changed. -/
def ctxsWith (xs : List Ctx) (h : Nat) (f : Ctx → Ctx) : List Ctx :=
  xs.map fun c => if c.handle = h ∧ c.live = true then f c else c

/-- A page that an access from outside reaches at its home: a translation to a 64 KiB frame is held, no link on the way holds
the access (R231), it lies in plain memory, and no update-only copy stands anywhere. -/
def State.plainAt (s : State) (asid va : Nat) (m : MapRec) : Prop :=
  s.heldMap asid va = some m ∧ (∀ w, s.holds asid va w = false) ∧ m.pa % 2 ^ 16 = 0 ∧ s.upd = [] ∧ isSelfReg (m.paOf va) = false ∧ isPeerPa (m.paOf va) = false
    ∧ s.synonym (m.paOf va) = false

/-- An access of `n` bytes from outside meets no home and no link that would make it wait (R111, R112, R231). -/
def State.openAt (s : State) (asid va n : Nat) (write : Bool) : Prop :=
  s.rangeHeld asid va n write = false ∧ s.dozing asid va n write = []

/-- Element `k` of a reduction: what its contributors have sent, combined in ascending rank (R262). -/
def Reduc.sum (r : Reduc) (k : Nat) : Nat :=
  let z := if r.wide then 8 else 4
  match r.peers.map fun x => leNat (((r.from? x).drop (k * z)).take z) with
  | [] => 0
  | v :: vs => vs.foldl (fun a b => atomOn (reduceOp r.op) r.wide a b 0) v

/-- The frame that answers a frame (R257-R260). -/
def answerTo (p : Pkt) (op : Nat) (bs : List Byte) : Msg :=
  .frame p.port p.v6 p.srcHi p.srcLo p.udp torjorPort 1 op (Config.ownIndex p.peer) p.psn p.addr bs.length p.ctag bs

/-- The frame that goes to a peer (R257): version 1 and port 27,210; PEER names this device in the receiver's table. -/
def frameTo (e : Peer) (x op psn addr ctag : Nat) (bs : List Byte) : Msg :=
  .frame e.port e.v6 e.addrHi e.addrLo e.udp 27210 1 op (Config.ownIndex x) psn addr bs.length ctag bs

/-- An empty frame of an operation has gone to a peer for a collective. -/
def State.hasTold (s : State) (x op ctag : Nat) : Prop := ∃ e psn, frameTo e x op psn 0 ctag [] ∈ s.out

end Sys2Proof.Machine
end

