-- ==== Sys2Proof/Certificates/Slice0/Obligations.lean ====
section
/-! DEFINITION. The statements: what the instructions and the machine do, as the numbered rules of the spec give it. A word
that issues leaves `State.issuedTo`: the whole state is named, so everything not named is unchanged. -/

open Sys2Proof Sys2Proof.Machine

/-! ### Control flow -/

/-- NOP has no effect of its own (R343), YIELD holds the swarm for at most 64 clocks (R387), BR and BRC go to a word offset
from their own address, BRC by a signed test of sS (R310), ENTER opens the window, every slot zero (R45, R55), while no page of
the private area waits for a DRAIN (R112), and ARM opens an arm of the fork (R49). -/
def Obligations.PlainControlCompletes : Prop :=
  ∀ s e c, Issues s e c {} false →
    exec (.nop c) s = .next (s.issuedTo (e.w.moved e.cycle (e.w.pc + 8)))
    ∧ exec (.yield c) s = .next (s.issuedTo { e.w.moved e.cycle (e.w.pc + 8) with hold := some (e.cycle + 64) })
    ∧ (∀ off, exec (.br c off) s = .next (s.issuedTo (e.w.moved e.cycle (branchTarget e.w.pc off))))
    ∧ (∀ cond (r : SReg) off, e.scalarsOk [r.val] [r.val] →
        exec (.brc c cond r off) s = .next (s.issuedTo (e.w.moved e.cycle
          (if brHolds cond (e.scalar 0 r.val).toInt then branchTarget e.w.pc off else e.w.pc + 8))))
    ∧ (∀ f : Fin 321, e.w.top.wopen = false → f.val ≤ e.fld.desc.frame → s.privHeld s.cur = false →
      ∃ t, exec (.enter c f) s = .next t
        ∧ Opened e { e.w.moved e.cycle (e.w.pc + 8) with
            top := { e.w.top with wopen := true, win := List.replicate f.val ⟨splat 0, false, none, false⟩ } } t)
    ∧ ∀ n : Fin 4, (if n.val = 0 then e.w.top.fork = false else e.w.top.fork = true ∧ n.val = e.w.top.cur + 1) →
        exec (.arm c n) s = .next (s.issuedTo { e.w.moved e.cycle (e.w.pc + 8) with
          top := { e.w.top with
            fork := true
            cur := n.val
            arms := (if n.val = 0 then List.replicate 4 ⟨false, 0⟩ else e.w.top.arms).set n.val ⟨true, 0⟩ } })

/-- CALL and CALLI open a level as R54 gives it, with the caller's masks, and go to their target, while no page of the private
area waits for a DRAIN (R112); the caller's level stays below it as it was. -/
def Obligations.CallOpensLevel : Prop :=
  ∀ s e c, Issues s e c { drained := true } true → e.w.depth < 1024 → s.privHeld s.cur = false →
    (∀ (nargs : Fin 64) off, nargs.val ≤ e.w.top.queue.length →
      ∃ t, exec (.call c nargs off) s = .next t
        ∧ Opened e { e.w.moved e.cycle (branchTarget e.w.pc off) with
            top := e.w.top.opened nargs.val (e.w.pc + 8), under := e.w.top :: e.w.under } t)
    ∧ ∀ (a : SReg) (nargs : Fin 4096), e.scalarsOk [a.val] [a.val] → (e.scalar 0 a.val).toNat % 8 = 0 →
        nargs.val ≤ e.w.top.queue.length →
        ∃ t, exec (.calli c a nargs) s = .next t
          ∧ Opened e { e.w.moved e.cycle (BitVec.ofNat 52 (e.scalar 0 a.val).toNat) with
              top := e.w.top.opened nargs.val (e.w.pc + 8), under := e.w.top :: e.w.under } t

/-- RET returns to the caller's level, which is in the register file (R56, R350); no slot it returns holds an uncorrectable error
(R44), and no page of the private area waits for a DRAIN (R112). -/
def Obligations.RetReturns : Prop :=
  ∀ s e c (m : Fin 4096) caller older, Issues s e c { drained := true } true →
    e.w.under = caller :: older → caller.spilled = false → e.w.depth ≠ e.w.hdepth → m.val ≤ e.w.top.queue.length →
    m.val ≤ caller.queue.length → e.w.top.fork = false → (∀ sl ∈ e.w.top.queue.take m.val, sl.bad = false) →
    s.privHeld s.cur = false →
    exec (.ret c m) s = .next (s.issuedTo { e.w.moved e.cycle e.w.top.retpc with
      top := caller.returned e.w.top m.val, under := older })

/-- EXIT ends the swarm (R34, R322): its levels go, its tokens return to the units and to the barriers, a wait that STARVE has set
aside is over (R35), and it leaves once every flag reads zero. -/
def Obligations.ExitEndsSwarm : Prop :=
  ∀ s e c, Issues s e c { flagsZero := true } true → (e.w.trap.intrap = true → e.w.faults = []) → e.w.top.fork = false →
    (∀ l ∈ e.w.lanes, l.item = none) →
    exec (.exit c) s = .next { s.issuedTo { e.w.moved e.cycle (e.w.pc + 8) with
          ended := true, under := [], top := Level.entry 0 0, starved := none
          ops := e.w.ops.filter fun o => e.w.starved.all fun wt => o.id != wt.op } with
        colonies := s.colonies.set e.w.colony { e.col with
          bars := e.col.bars.map fun b => { b with tokens := b.tokens.filter fun x => x.1 != e.w.idx } }
        dies := (s.updCore e.core fun k => { k with
          tiles := k.tiles.map fun x => if x.token = some s.cur then { x with token := none } else x }).dies }

/-- IRET returns from the handler (R213, R329): the set-aside flags come back, the handler's level goes, INTRAP clears, and
the pc is SR.TRESUME. It waits until every flag reads zero (R329), for an issue check from the clock after its fall on (R201), and
while a page of the private area waits for a DRAIN (R112). -/
def Obligations.IretReturns : Prop :=
  ∀ s e c trapped older, Issues s e c { drained := true } false → e.w.trap.intrap = true → e.w.depth = e.w.hdepth →
    e.w.top.fork = false → (∀ n ∈ e.w.flags, n = 0) → (∀ n ∈ e.w.fell, 12 ≤ n) → e.w.under = trapped :: older →
    trapped.spilled = false → e.w.starved = none → s.privHeld s.cur = false →
    exec (.iret c) s = .next (settle (s.issuedTo { e.w.moved e.cycle e.w.trap.resume with
      flags := e.w.trap.flags
      trap := { e.w.trap with intrap := false }
      ops := e.w.ops.map fun o => { o with aside := false }
      top := trapped
      under := older
      hdepth := 0 }))

/-- REJOIN closes the fork and pushes N merged entries (R52, R53): in each lane the lowest arm whose mask holds the lane
supplies the source; it is held while the record's page waits for a DRAIN (R112). A RET or an EXIT at a level whose fork is open raises REJOIN with CAUSE 3 and does nothing (R50). -/
def Obligations.RejoinMerges : Prop :=
  (∀ s e c (idx : Fin 16384) s1 n arms, Issues s e c {} false → readRejoin e idx.val = (s1, some (n, arms)) →
    e.w.top.fork = true →
    (∀ k < 4, e.w.top.arms.getD k ⟨false, 0⟩ = match arms[k]? with
      | some a => ⟨true, a.count⟩
      | none => ⟨false, (e.w.top.arms.getD k ⟨false, 0⟩).count⟩) →
    (∀ a ∈ arms, ∀ x ∈ a.src, x ≠ 0xFF → x < e.w.top.queue.length) →
    (e.ctx.check = true → ∀ a ∈ arms, ∀ x ∈ a.src, x ≠ 0xFF → ∀ sl, e.w.top.queue[x]? = some sl → sl.busy = none) →
    e.w.top.canPush n = true → (∀ sl ∈ e.w.top.queue.reverse.take n, sl.bad = false) →
    (∀ a ∈ arms, ∀ x ∈ a.src, x ≠ 0xFF → ∀ sl, e.w.top.queue[x]? = some sl → sl.bad = false) →
    rejoinPageHeld e idx.val = false →
    ∃ ps : List Push, ps.length = n
      ∧ (∀ j < n, ∀ p, ps[j]? = some p → ∀ l < 64,
          (has p.mask l = true ↔ ∃ a ∈ arms, has (e.w.top.mask a.k) l = true)
          ∧ ∀ a, arms.find? (fun a => has (e.w.top.mask a.k) l) = some a →
              el p.data l = el (e.source (a.src.getD j 0xFF)) l)
      ∧ exec (.rejoin c idx) s = .next (s1.issuedTo
          { e.launched c (some 4) (.result (ps.map fun p => (p.mask, p.data)) [] none none) with
            top := { e.w.top.pushAll e.w.nextOp ps 0 with
              fork := false, cur := 0, arms := List.replicate 4 ⟨false, 0⟩ } }))
  ∧ ∀ s e c, e.w.top.fork = true →
    (∀ m : Fin 4096, Issues s e c { drained := true } true → e.w.under ≠ [] → e.w.depth ≠ e.w.hdepth →
      m.val ≤ e.w.top.queue.length →
      exec (.ret c m) s = .next (takeTrap s.cur ⟨5, 3, 0, 0, 0, none, false⟩ e.w.pc s))
    ∧ (Issues s e c { flagsZero := true } true → (e.w.trap.intrap = true → e.w.faults = []) →
      exec (.exit c) s = .next (takeTrap s.cur ⟨5, 3, 0, 0, 0, none, false⟩ e.w.pc s))

/-! ### Issue and traps -/

/-- An instruction issues only when R201 lets it: its swarm runs and is not blocked, max(DIST, 1) clocks have passed since the
previous issue, every flag of WAIT reads zero, and the SETF flag is below 63. -/
def Obligations.IssueObeysControlField : Prop :=
  ∀ i s t c m b, parts i = some (c, m, b) → exec i s = .next t →
    ∃ e, envOf s s.cur = some e ∧ e.w.wait = none
      ∧ (∀ n, e.w.lastIssue = some n → n + max c.dist.val 1 ≤ e.cycle)
      ∧ (∀ n < 12, c.wait.val.testBit n = true → e.w.flag n = 0)
      ∧ (∀ n : Fin 12, c.setf = some n → e.w.flag n.val < 63)

/-- A deferred report that is owed is taken before anything else of the instruction (R114, R209): the first record in issue
order and ascending cause, with its own address, lanes and VA; inside a handler none is taken (R211). -/
def Obligations.DeferredReportIsTaken : Prop :=
  ∀ i s t c m b e, parts i = some (c, m, b) → exec i s = .next t → envOf s s.cur = some e → e.w.trap.intrap = false →
    (reports i = true ∨ e.w.faultsFull = true ∨ ∃ f ∈ e.w.faults, ∃ n, f.flag = some n ∧ c.wait.val.testBit n.val = true) →
    e.w.faults ≠ [] →
    ∃ f ∈ e.w.faults, (∀ g ∈ e.w.faults, f.order < g.order ∨ (f.order = g.order ∧ f.cause ≤ g.cause))
      ∧ t = takeTrap s.cur ⟨10, f.cause, lowLane f.lanes, f.lanes, BitVec.ofNat 64 f.va, some f.pc, true⟩ e.w.pc
          { s with swarms := s.swarms.set s.cur { e.w with
              faults := e.w.faults.erase f
              faultsFull := e.w.faultsFull && !(e.w.faults.erase f).isEmpty } }

/-- Taking a trap (R211): the record is written and INTRAP set; when nothing is owed the handler's level opens at once, else
entry waits (R212). Nothing but the swarm changes. TRAP raises SWTRAP at its own address, its code in INFO (R366). -/
def Obligations.TrapEntersHandler : Prop :=
  (∀ s i w (t : Trap) resume,
    (∀ frame, HandlerReady s i w frame →
      takeTrap i t resume s = { s with swarms := s.swarms.set i (w.inHandler t resume (s.tvecOf i)) })
    ∧ (HandlerFree s i w → (w.drained = false ∨ w.scalarsLanded = false ∨ s.privHeld i = true) →
      takeTrap i t resume s =
        { s with swarms := s.swarms.set i { w with trap := w.trap.taken t resume, entering := true } })
    ∧ t.rec0.extractLsb' 56 8 = BitVec.ofNat 8 t.code ∧ t.rec0.extractLsb' 48 8 = BitVec.ofNat 8 t.cause
    ∧ t.rec0.extractLsb' 40 8 = 0 ∧ t.rec0.extractLsb' 34 6 = BitVec.ofNat 6 t.lane
    ∧ t.rec0.extractLsb' 33 1 = BitVec.ofBool t.deferred ∧ t.rec0.extractLsb' 0 33 = 0)
  ∧ ∀ s e c (code : Fin 4096), Issues s e c {} false →
    exec (.trap c code) s
      = .next (takeTrap s.cur ⟨0x15, 0, 0, 0, BitVec.ofNat 64 code.val, none, false⟩ e.w.pc s)

/-- A trap that no handler can take is a context fault (R211, R215): cause 1 inside a handler, cause 2 without a vector or at
depth 1024. Every colony of the context that has not retired stops and gives up its reservations; the first cause stays, and is
reported with the swarm's state. What the report holds, and that the first fault alone is reported, is the model's (log 16). -/
def Obligations.TrapWithoutHandler : Prop :=
  ∀ s i w (t : Trap) resume, s.swarms[i]? = some w →
    (w.trap.intrap = true ∨ s.tvecOf i = 0 ∨ 1024 ≤ w.under.length + 1) →
    takeTrap i t resume s =
      { s with
        colonies := s.colonies.map fun c =>
          if s.inCtx (s.ctxOf i) c = true ∧ c.status ≠ .retired then
            { c with status := .stopped, resv := none, lentResv := [], stop := none }
          else c
        out := if s.sound (s.ctxOf i) = true then s.out ++ [Msg.report (s.ctxOf i) (if w.trap.intrap then 1 else 2) (some w)]
          else s.out
        ctxs := s.ctxs.map fun x =>
          if x.handle = s.ctxOf i ∧ x.live = true ∧ x.fault = none then
            { x with fault := some (if w.trap.intrap then 1 else 2) }
          else x }

/-- The operand traps of a two-operand instruction on 32-bit operands, in the order of R41 and R209: AGEOOR for an age at or
beyond D, then FRAMEOOR for a slot outside the window, then, under SR.CHECK, STALLCHK for an operand whose producer has not
completed, nothing else happening; then the operands are read, and the colony consumes an uncorrectable error in one (R219). -/
def Obligations.OperandTraps : Prop :=
  ∀ i s e c k t a b, vintShape i = some (c, k, t, a, .op b) → t = .n32 ∨ t = .s32 → Issues s e c { pushes := 1 } false →
    (Runs s e c { pushes := 1 } false → e.operandOk a false → e.operandOk b false →
      ∃ t, exec i s = .next t ∧ t.fresh = s.fresh + 256)
    ∧ (∀ n : Fin 64, e.w.top.queue.length ≤ n.val →
        (a = .age n → exec i s = .next (takeTrap s.cur ⟨2, 0, 0, 0, BitVec.ofNat 64 n.val, none, false⟩ e.w.pc s))
        ∧ (b = .age n → e.ageBad (.vec a false) = false →
            exec i s = .next (takeTrap s.cur ⟨2, 0, 0, 0, BitVec.ofNat 64 n.val, none, false⟩ e.w.pc s)))
    ∧ (e.ageBad (.vec a false) = false → e.ageBad (.vec b false) = false →
      (∀ n : Fin 320, e.w.top.win.length ≤ n.val →
        (a = .frame n → exec i s = .next (takeTrap s.cur ⟨3, 0, 0, 0, BitVec.ofNat 64 (64 + n.val), none, false⟩ e.w.pc s))
        ∧ (b = .frame n → e.frameBad (.vec a false) = false →
            exec i s = .next (takeTrap s.cur ⟨3, 0, 0, 0, BitVec.ofNat 64 (64 + n.val), none, false⟩ e.w.pc s)))
      ∧ (e.frameBad (.vec a false) = false → e.frameBad (.vec b false) = false →
        (e.ctx.check = true →
          (e.rdBusy (.vec a false) = true →
            exec i s = .next (takeTrap s.cur ⟨4, 0, 0, 0, BitVec.ofNat 64 (opndCode a), none, false⟩ e.w.pc s))
          ∧ (e.rdBusy (.vec a false) = false → e.rdBusy (.vec b false) = true →
            exec i s = .next (takeTrap s.cur ⟨4, 0, 0, 0, BitVec.ofNat 64 (opndCode b), none, false⟩ e.w.pc s)))
        ∧ ((e.ctx.check = true → e.rdBusy (.vec a false) = false ∧ e.rdBusy (.vec b false) = false) →
          (e.rdBad (.vec a false) = true ∨ e.rdBad (.vec b false) = true) →
            exec i s = .next (s.consumeBy e.w.colony (some s.cur)))))

/-! ### Operands and pushes -/

/-- What an operand reads (R20, R38, R40, R42): the element of its slot, or a free value while the slot's producer has not
completed; a 64-bit operand takes its high half from the named code and its low half from the next. -/
def Obligations.OperandForms : Prop :=
  ∀ (e : Env) (j : Nat) l, l < 64 →
    (∀ (n : Fin 64) sl, e.w.top.queue[n.val]? = some sl →
      el (e.read j (.age n)) l = if sl.busy = none then el sl.data l else Config.freeLane (e.s.fresh + j) l)
    ∧ (∀ (n : Fin 320) sl, e.w.top.win[n.val]? = some sl →
      el (e.read j (.frame n)) l = if sl.busy = none then el sl.data l else Config.freeLane (e.s.fresh + j) l)
    ∧ el (e.read j .zero) l = 0 ∧ el (e.read j .lane) l = BitVec.ofNat 32 l
    ∧ el (e.read j .swarm) l = BitVec.ofNat 32 e.w.idx ∧ el (e.read j .stage) l = BitVec.ofNat 32 e.w.stage
    ∧ (∀ (n m : Fin 64), m.val = n.val + 1 →
        el64 (e.read64 j (.age n)) l = el (e.read j (.age n)) l ++ el (e.read (j + 8) (.age m)) l)
    ∧ (∀ (n m : Fin 320), m.val = n.val + 1 →
        el64 (e.read64 j (.frame n)) l = el (e.read j (.frame n)) l ++ el (e.read (j + 8) (.frame m)) l)
    ∧ ∀ o, o = .zero ∨ o = .lane ∨ o = .swarm ∨ o = .stage →
        el64 (e.read64 j o) l = (el (e.read j o) l).setWidth 64

/-- One push (R37, R43, R48, R49): every entry grows one older, the oldest leaves and its elements stand at age 0 until the
result lands, the taint follows R43, and an open fork counts the push. -/
def Obligations.PushMovesQueue : Prop :=
  ∀ (lv : Level) (m : W64) (t : Bool) (b : Nat × Nat) old, lv.queue.getLast? = some old →
    (lv.push m t (some b)).queue[0]? = some ⟨old.data, t || (old.taint && (List.range 64).any fun l => !m.getLsbD l), some b, false⟩
    ∧ (∀ n < lv.queue.length - 1, (lv.push m t (some b)).queue[n + 1]? = lv.queue[n]?)
    ∧ (lv.push m t (some b)).queue.length = lv.queue.length
    ∧ (lv.fork = true → ∀ a, lv.arms[lv.cur]? = some a →
        (lv.push m t (some b)).arms = lv.arms.set lv.cur { a with count := min 127 (a.count + 1) })
    ∧ (lv.fork = false → (lv.push m t (some b)).arms = lv.arms)
    ∧ (lv.push m t (some b)).win = lv.win ∧ (lv.push m t (some b)).masks = lv.masks

/-! ### Scalar instructions -/

/-- The scalar forms give the results of Table 23.2, two clocks after issue (R354, R355). -/
def Obligations.ScalarResults : Prop :=
  ∀ i s e, (∀ c d a b f, scalarForm i = some (c, d, a, b, f) → Issues s e c {} false →
      e.scalarsOk [d.val, a.val, b.val] [a.val, b.val] →
      exec i s = .next (s.issuedTo (e.launched c (some 2)
        (.result [] [(d.val, f (e.scalar 0 a.val) (e.scalar 1 b.val))] none none))))
    ∧ (∀ c d a f, scalarImmForm i = some (c, d, a, f) → Issues s e c {} false → e.scalarsOk [d.val, a.val] [a.val] →
      exec i s = .next (s.issuedTo (e.launched c (some 2)
        (.result [] [(d.val, f (e.scalar 0 a.val))] none none))))
    ∧ (∀ c d imm, i = .sset c d imm → Issues s e c {} false → e.scalarsOk [d.val] [] →
      exec i s = .next (s.issuedTo (e.launched c (some 2)
        (.result [] [(d.val, BitVec.ofInt 64 imm.toInt)] none none))))

/-! ### Masks -/

/-- The mask logic forms, KWR, KRD and KPOP (R331, R332): one clock after issue, bit by bit, k0 reading as every lane. -/
def Obligations.MaskForms : Prop :=
  ∀ s e c, Issues s e c {} false →
    (∀ i kd ka kb f, maskForm i = some (c, kd, ka, kb, f) →
      ∃ v : W64, (∀ l < 64, v.getLsbD l = f (e.maskBit ka l) (e.maskBit kb l))
        ∧ exec i s = .next (s.issuedTo (e.launched c (some 1) (.result [] [] (some (kd.val, v)) none))))
    ∧ (∀ (kd : KReg) (a : SReg), e.scalarsOk [a.val] [a.val] →
      exec (.kwr c kd a) s = .next (s.issuedTo (e.launched c (some 1)
        (.result [] [] (some (kd.val, e.scalar 0 a.val)) none))))
    ∧ (∀ (d : SReg) (ka : KReg), e.scalarsOk [d.val] [] →
      ∃ v : W64, (∀ l < 64, v.getLsbD l = e.maskBit ka l)
        ∧ exec (.krd c d ka) s = .next (s.issuedTo (e.launched c (some 1) (.result [] [(d.val, v)] none none)))
        ∧ exec (.kpop c d ka) s = .next (s.issuedTo (e.launched c (some 1)
            (.result [] [(d.val, BitVec.ofNat 64 ((List.range 64).countP (e.maskBit ka)))] none none))))

/-- KCMP (R330): in each lane of kKA the condition, on exact integers or on floating-point values (a packed lane holds when
both halves do), elsewhere 0; four clocks after issue. -/
def Obligations.KcmpResults : Prop :=
  ∀ s e c q (ka kd : KReg) a b, Issues s e c {} false →
    (∀ t : IntT, q ≠ .un → e.operandOk a (intWide t) → e.operandOk b (intWide t) →
      ∃ v : W64, (∀ l < 64, v.getLsbD l = (e.maskBit ka l && holdsOn q (e.opNum t a l) (e.srcNum t (.op b) l)))
        ∧ exec (.kcmp c q (.int t) ka kd a b) s
            = .next (s.issuedTo (e.launched c (some 4) (.result [] [] (some (kd.val, v)) none))))
    ∧ ∀ t : FpT, e.operandOk a false → e.operandOk b false →
      ∃ v : W64, (∀ l < 64, v.getLsbD l = (e.maskBit ka l
            && (List.zipWith (fun x y => holdsFv q ((fpFmt t).decode x) ((fpFmt t).decode y))
                (codesOf t (el (e.read 0 a) l)) (codesOf t (el (e.read 1 b) l))).all id))
        ∧ exec (.kcmp c q (.fp t) ka kd a b) s
            = .next (s.issuedTo (e.launched c (some 4) (.result [] [] (some (kd.val, v)) none)))

/-- SAVE (R47, R357): the slot is merged under the mask one clock later; its taint is the source's, and the old one stays in
when a lane is inactive. No push. A slot that an inactive lane keeps part of holds no uncorrectable error (R44). -/
def Obligations.SaveComplete : Prop :=
  ∀ s e c (k : KReg) (dst : Fin 320) src sl, Issues s e c {} false → e.operandOk src false → e.w.top.win[dst.val]? = some sl →
    (sl.bad = false ∨ ∀ l < 64, e.maskBit k l = true) →
    exec (.save c k dst src) s = .next (s.issuedTo
      { e.launched c (some 1) (.result [(e.mask k, e.read 0 src)] [] none none) with
        top := { e.w.top with
          win := e.w.top.win.set dst.val ⟨sl.data,
            e.taint false src || (sl.taint && (List.range 64).any fun l => !e.maskBit k l), some (e.w.nextOp, 0), false⟩ } })

/-! ### Vector integer instructions -/

/-- The two-operand integer families (R371-R384): each lane of the result is the exact result of Table 24.2, taken modulo
2^32, or modulo 2^64 with the low half pushed first. -/
def Obligations.VectorIntegerResults : Prop :=
  ∀ i s e c k t a b clocks f, vintShape i = some (c, k, t, a, b) → vintResult i = some (clocks, f) →
    wellFormed i = true → Runs s e c { pushes := wOf (intWide t) } false → e.operandOk a (intWide t) →
    (∀ o, b = .op o → e.operandOk o (intWide t)) →
    ∃ vs : List (List W32), vs.length = wOf (intWide t)
      ∧ (∀ l < 64,
          (intWide t = false → ∀ v, vs[0]? = some v →
            ((el v l).toNat : Int) = f (e.opNum t a l) (e.srcNum t b l) % 2 ^ 32)
          ∧ (intWide t = true → ∀ lo hi, vs[0]? = some lo → vs[1]? = some hi →
            ((el lo l).toNat + 2 ^ 32 * (el hi l).toNat : Int) = f (e.opNum t a l) (e.srcNum t b l) % 2 ^ 64))
      ∧ exec i s = .next (pushedState s e c (some clocks) (e.mask k) (e.taint (intWide t) a || srcTaint e (intWide t) b) vs)

/-- SCALAR_RESULT_COMPLETE writes the scalar (R202, R212); VECTOR_RESULT_COMPLETE (R38, R43, R202, R333) lands the elements
in every slot that waits for the operation, in the lanes of its mask, wherever it has moved, then the mask register. Either
counts the flag down. -/
def Obligations.ResultsLand : Prop :=
  ∀ s sw op a o w, Due s sw op a o w →
    (∀ d v, o.body = .result [] [(d, v)] none none →
      exec (.scalarResultComplete sw op) s
        = .next (s.goesOn sw ((w.withScalar d v).opEnded o)))
    ∧ ∀ vecs km, o.body = .result vecs [] km none → (vecs ≠ [] ∨ km ≠ none) →
      exec (.vectorResultComplete sw op) s = .next (s.goesOn sw (((w.landed op vecs).opEnded o).withMask km))

/-! ### Vector instructions: across lanes, floating point, conversions -/

/-- VRED and VSCAN (R383): in each active lane the elements of the active lanes, of all or of those up to it, combined in
ascending order. -/
def Obligations.ReductionResults : Prop :=
  ∀ s e c (scan : Bool) k op t a, Runs s e c { pushes := wOf (redWide t) } false → e.operandOk a (redWide t) →
    ∃ vs : List (List W32), vs.length = wOf (redWide t)
      ∧ (∀ l < 64, e.maskBit k l = true → ∀ lo, vs[0]? = some lo →
          (t = .f32 → foldAll (redF32Op op) ((e.combined scan k l).map (el (e.read 0 a))) = some (el lo l))
          ∧ ∀ i, t = .int i →
            (intWide i = false → foldAll (redOn op i) ((e.combined scan k l).map (el (e.read 0 a))) = some (el lo l))
            ∧ (intWide i = true → ∀ hi, vs[1]? = some hi →
                foldAll (redOn op i) ((e.combined scan k l).map (el64 (e.read64 0 a))) = some (el hi l ++ el lo l)))
      ∧ exec (if scan then .vscan c k op t a else .vred c k op t a) s
          = .next (pushedState s e c none (e.mask k) (e.taint (redWide t) a) vs)

/-- VSHUF, VBCAST and VPUSHS (R376, R382, R385): the low half of a 64-bit result is pushed first. -/
def Obligations.PermuteResults : Prop :=
  ∀ s e c k,
    (∀ t a b, Runs s e c { pushes := wOf (intWide t) } false → e.operandOk a (intWide t) → e.operandOk b false →
      ∃ vs : List (List W32), vs.length = wOf (intWide t)
        ∧ (∀ l < 64, ∀ lo, vs[0]? = some lo →
            (intWide t = false → el lo l = el (e.read 0 a) ((el (e.read 1 b) l).toNat % 64))
            ∧ (intWide t = true → ∀ hi, vs[1]? = some hi →
                el hi l ++ el lo l = el64 (e.read64 0 a) ((el (e.read 1 b) l).toNat % 64)))
        ∧ exec (.vshuf c k t a b) s
            = .next (pushedState s e c none (e.mask k) (e.taint (intWide t) a || e.taint false b) vs))
    ∧ (∀ w a (r : SReg), Runs s e c { pushes := wOf w } false → e.operandOk a w → e.scalarsOk [r.val] [r.val] →
      ∃ vs : List (List W32), vs.length = wOf w
        ∧ (∀ l < 64, ∀ lo, vs[0]? = some lo →
            (w = false → el lo l = el (e.read 0 a) ((e.scalar 2 r.val).toNat % 64))
            ∧ (w = true → ∀ hi, vs[1]? = some hi →
                el hi l ++ el lo l = el64 (e.read64 0 a) ((e.scalar 2 r.val).toNat % 64)))
        ∧ exec (.vbcast c k w a r) s = .next (pushedState s e c none (e.mask k) (e.taint w a) vs))
    ∧ ∀ w (r : SReg), Runs s e c { pushes := wOf w } false → e.scalarsOk [r.val] [r.val] →
      ∃ vs : List (List W32), vs.length = wOf w
        ∧ (∀ l < 64, ∀ lo, vs[0]? = some lo → (el lo l).toNat = (e.scalar 0 r.val).toNat % 2 ^ 32
            ∧ (w = true → ∀ hi, vs[1]? = some hi → el hi l ++ el lo l = e.scalar 0 r.val))
        ∧ exec (.vpushs c k w r) s = .next (pushedState s e c none (e.mask k) false vs)

/-- FADD, FSUB, FMUL and FFMA (R324): each code of the result is the exact result rounded once; FMIN and FMAX pick an
operand (R325). Results come six clocks after issue, those of FMIN and FMAX four to six (R326). -/
def Obligations.FloatResults : Prop :=
  ∀ s e c, Runs s e c { pushes := 1 } false →
    (∀ i k t rm a b f, floatForm i = some (c, k, t, rm, a, b, f) → e.operandOk a false → e.operandOk b false →
      ∃ v : List W32, (∀ l < 64, codesOf t (el v l)
            = List.zipWith (fun x y => (fpFmt t).round rm (f ((fpFmt t).decode x) ((fpFmt t).decode y)))
                (codesOf t (el (e.read 0 a) l)) (codesOf t (el (e.read 1 b) l)))
        ∧ exec i s = .next (pushedState s e c (some 6) (e.mask k) (e.taint false a || e.taint false b) [v]))
    ∧ (∀ k t rm a b z, e.operandOk a false → e.operandOk b false → e.operandOk z false →
      ∃ v : List W32, (∀ l < 64, codesOf t (el v l)
            = List.zipWith (fun p w => (fpFmt t).round rm (FV.add rm p ((fpFmt t).decode w)))
                (List.zipWith (fun x y => FV.mul ((fpFmt t).decode x) ((fpFmt t).decode y))
                  (codesOf t (el (e.read 0 a) l)) (codesOf t (el (e.read 1 b) l)))
                (codesOf t (el (e.read 2 z) l)))
        ∧ exec (.ffma c k t rm a b z) s
            = .next (pushedState s e c (some 6) (e.mask k) (e.taint false a || e.taint false b || e.taint false z) [v]))
    ∧ ∀ (isMax : Bool) k t a b, e.operandOk a false → e.operandOk b false →
      ∃ (v : List W32) (clocks : Nat), 4 ≤ clocks ∧ clocks ≤ 6 ∧ (∀ l < 64, ∀ (j x y : Nat), (codesOf t (el (e.read 0 a) l))[j]? = some x →
            (codesOf t (el (e.read 1 b) l))[j]? = some y → ∃ r, (codesOf t (el v l))[j]? = some r
              ∧ Picked isMax (fpFmt t) x y r)
        ∧ exec (if isMax then .fmax c k t a b else .fmin c k t a b) s
            = .next (pushedState s e c (some clocks) (e.mask k) (e.taint false a || e.taint false b) [v])

/-- FFN (R336): one function of the operand bits in every lane, sixteen clocks after issue; the values that Table 22.3 fixes
exactly: of NaN, zeros and infinities, of negative operands, of powers of two, integers and halves. -/
def Obligations.FfnResults : Prop :=
  (∀ s e c k fn a, Runs s e c { pushes := 1 } false → e.operandOk a false →
    exec (.ffn c k fn a) s
      = .next (pushedState s e c (some 16) (e.mask k) (e.taint false a) [(e.read 0 a).map (ffnEl fn)]))
  ∧ (∀ fn x, fmtF32.decode x.toNat = .nan → ffnEl fn x = 0x7FC00000)
  ∧ (∀ x neg m (e : Int), fmtF32.decode x.toNat = .fin neg m e → m ≠ 0 →
      let code := fun n k (z : Int) => BitVec.ofNat 32 (fmtF32.round .rne (.fin n k z))
      (∀ k : Nat, m = 2 ^ k → ffnEl .rcp x = code neg 1 (-(e + k))
        ∧ (neg = false → ffnEl .log2 x = code (decide (e + k < 0)) (e + k).natAbs 0))
      ∧ (neg = true → ffnEl .rsqrt x = 0x7FC00000 ∧ ffnEl .sqrt x = 0x7FC00000 ∧ ffnEl .log2 x = 0x7FC00000)
      ∧ (neg = false → (128 : Int) * 2 ^ (-e).toNat ≤ m * 2 ^ e.toNat → ffnEl .exp2 x = 0x7F800000)
      ∧ ∀ z : Int,
        (IsWhole neg m e z →
          (-149 ≤ z → z < 128 → ffnEl .exp2 x = code false 1 z)
          ∧ ffnEl .sinpi x = (if neg then 0x80000000 else 0)
          ∧ ffnEl .cospi x = if z % 2 = 0 then 0x3F800000 else 0xBF800000)
        ∧ (IsWhole neg (2 * m) e (2 * z + 1) →
          ffnEl .sinpi x = (if z % 2 = 0 then 0x3F800000 else 0xBF800000) ∧ ffnEl .cospi x = 0))
  ∧ [0, 0x80000000, 0x7F800000, 0xFF800000, 0x40000000].map (ffnEl .rcp)
      = [0x7F800000, 0xFF800000, 0, 0x80000000, 0x3F000000]
  ∧ [0, 0x80000000, 0xBF800000, 0x7F800000].map (ffnEl .rsqrt) = [0x7F800000, 0xFF800000, 0x7FC00000, 0]
  ∧ [0, 0x80000000, 0xBF800000, 0x7F800000].map (ffnEl .sqrt) = [0, 0x80000000, 0x7FC00000, 0x7F800000]
  ∧ [0, 0x80000000, 0xFF800000, 0x7F800000, 0x43000000, 0x41000000].map (ffnEl .exp2)
      = [0x3F800000, 0x3F800000, 0, 0x7F800000, 0x7F800000, 0x43800000]
  ∧ [0, 0x80000000, 0xBF800000, 0x7F800000, 0x3F800000, 0x41000000].map (ffnEl .log2)
      = [0xFF800000, 0xFF800000, 0x7FC00000, 0x7F800000, 0, 0x40400000]
  ∧ [0x3F800000, 0xBF800000, 0x3F000000, 0x3FC00000, 0x7F800000].map (ffnEl .sinpi)
      = [0, 0x80000000, 0x3F800000, 0xBF800000, 0x7FC00000]
  ∧ [0x3F800000, 0x40000000, 0x3F000000, 0xFF800000].map (ffnEl .cospi) = [0xBF800000, 0x3F800000, 0, 0x7FC00000]
  ∧ [0, 0x80000000, 0x7F800000, 0xFF800000].map (ffnEl .tanh) = [0, 0x80000000, 0x3F800000, 0xBF800000]

/-- CVT, PACK4 and UNPACK4 (R319, R344, R369): every lane's values converted, six clocks after issue. An active lane with a
value out of range under .ovtrap raises CVTOVF, naming those lanes, with no other effect (R73). -/
def Obligations.ConversionResults : Prop :=
  ∀ s e c k rm ov a dst src,
    (Runs s e c { pushes := wOf dst.wide } false → e.operandOk a src.wide →
      let r := fun l => cvtPlaced dst src rm ov
        (if src.wide then (el64 (e.read64 0 a) l).toNat else (el (e.read 0 a) l).toNat)
      ((∀ l < 64, e.cvtBad k (fun l => [r l]) l = false) →
        ∃ vs : List (List W32), vs.length = wOf dst.wide
          ∧ (∀ l < 64, ∀ n, r l = some n → ∀ lo, vs[0]? = some lo → (el lo l).toNat = n % 2 ^ 32
              ∧ (dst.wide = true → ∀ hi, vs[1]? = some hi → (el hi l).toNat = n / 2 ^ 32 % 2 ^ 32))
          ∧ exec (.cvt c k rm ov a dst src) s = .next (pushedState s e c (some 6) (e.mask k) (e.taint src.wide a) vs))
      ∧ ((∃ l < 64, e.cvtBad k (fun l => [r l]) l = true) →
        ∃ m : W64, (∀ l < 64, m.getLsbD l = e.cvtBad k (fun l => [r l]) l)
          ∧ exec (.cvt c k rm ov a dst src) s
              = .next (takeTrap s.cur ⟨0x13, 0, lowLane m, m, 0, none, false⟩ e.w.pc s)))
    ∧ (Runs s e c { pushes := 1 } false → (∀ j < 4, e.operandOk (opShift a j) false) →
      let r := fun j l => cvtPlaced dst src rm ov (el (e.read j (opShift a j)) l).toNat
      (∀ l < 64, e.cvtBad k (fun l => [r 0 l, r 1 l, r 2 l, r 3 l]) l = false) →
        ∃ v : List W32, (∀ l < 64, ∀ n0 n1 n2 n3, r 0 l = some n0 → r 1 l = some n1 → r 2 l = some n2 → r 3 l = some n3 →
              (el v l).toNat = n0 % 256 + n1 % 256 * 2 ^ 8 + n2 % 256 * 2 ^ 16 + n3 % 256 * 2 ^ 24)
          ∧ exec (.pack4 c k rm ov a dst src) s = .next (pushedState s e c (some 6) (e.mask k)
              (e.taint false (opShift a 0) || e.taint false (opShift a 1) || e.taint false (opShift a 2)
                || e.taint false (opShift a 3)) [v]))
    ∧ (Runs s e c { pushes := 4 } false → e.operandOk a false →
      let r := fun j l => cvtPlaced dst src rm ov ((el (e.read 0 a) l).toNat / 2 ^ (8 * j) % 256)
      (∀ l < 64, e.cvtBad k (fun l => [r 0 l, r 1 l, r 2 l, r 3 l]) l = false) →
        ∃ vs : List (List W32), vs.length = 4
          ∧ (∀ l < 64, ∀ j < 4, ∀ n v, r j l = some n → vs[3 - j]? = some v → (el v l).toNat = n % 2 ^ 32)
          ∧ exec (.unpack4 c k rm ov a dst src) s = .next (pushedState s e c (some 6) (e.mask k) (e.taint false a) vs))

/-! ### Global memory -/

/-- VLD, VLDC, VST, CLD, CST, CINV and BULKPF issue (R315, R377, R386, R313, R311): loads push slots that wait, and each
leaves its access in flight with variable latency. -/
def Obligations.MemoryAccessIssues : Prop :=
  ∀ s e c,
    (∀ consume k mt b addr kr, Runs s e c { pushes := wOf (mtWide mt), access := true } false → e.operandOk addr false →
      e.scalarsOk [b.val] [b.val] → e.vasOk k (e.laneVa b addr) (mtBytes mt) →
      ∃ vas, PerLane vas (e.laneVa b addr)
        ∧ exec (if consume then .vldc c k mt b addr kr else .vld c k mt b addr kr) s = .next (s.issuedTo
            { e.launched c none (.load mt consume (e.mask k) vas kr.val (e.taint false addr)) with
              top := e.w.top.awaiting e.w.nextOp (e.mask k) (consume || e.taint false addr) (wOf (mtWide mt)) }))
    ∧ (∀ k mt b addr data, Issues s e c { access := true } false → e.operandOk addr false →
      e.operandOk data (mtWide mt) → e.scalarsOk [b.val] [b.val] → e.vasOk k (e.laneVa b addr) (mtBytes mt) →
      ∃ vas ds, PerLane vas (e.laneVa b addr) ∧ PerLane ds (e.wideEl 1 (mtWide mt) data)
        ∧ exec (.vst c k mt b addr data) s = .next (s.issuedTo
            (e.launched c none (.store mt (e.mask k) vas ds (e.taint false addr)))))
    ∧ (∀ mt (d a : SReg), Issues s e c { access := true } false → e.scalarsOk [d.val, a.val] [a.val] →
      (e.scalar 0 a.val).toNat < 2 ^ 52 → (e.scalar 0 a.val).toNat % mtBytes mt = 0 →
      exec (.cld c mt d a) s
        = .next (s.issuedTo (e.launched c none (.cload mt (e.scalar 0 a.val).toNat d.val))))
    ∧ (∀ mt (d a : SReg), Issues s e c { access := true } false → e.scalarsOk [d.val, a.val] [d.val, a.val] →
      (e.scalar 1 a.val).toNat < 2 ^ 52 → (e.scalar 1 a.val).toNat % mtBytes mt = 0 →
      exec (.cst c mt d a) s
        = .next (s.issuedTo (e.launched c none (.cstore mt (e.scalar 1 a.val).toNat (e.scalar 0 d.val)))))
    ∧ ∀ a b : SReg, Issues s e c {} false → e.scalarsOk [a.val, b.val] [a.val, b.val] →
      let base := (e.scalar 0 a.val).toNat
      let len := (e.scalar 1 b.val).toNat
      base < 2 ^ 52 → (len ≠ 0 → base + len ≤ 2 ^ 52) →
      exec (.cinv c a b) s = .next (s.issuedTo (e.launched c none (.cinv base len)))
      ∧ (len ≤ 2 ^ 30 → exec (.bulkpf c a b) s = .next (s.issuedTo (e.launched c none (.bulkpf base len))))

/-- Atomics and reductions issue (R303, R305, R346): the pushed slots wait for the old values; in a restartable colony each
first ends restartability, with CAUSE 3 (R221), once its store buffer can drain. -/
def Obligations.AtomicIssues : Prop :=
  ∀ s e c k b addr data wide, e.operandOk addr false → e.operandOk data wide → e.scalarsOk [b.val] [b.val] →
    e.vasOk k (e.laneVa b addr) (4 * wOf wide) →
    (∀ i op n, atomForm i = some (c, k, op, wide, n, b, addr, data) →
      Runs s e c { pushes := wOf wide, access := true } false →
      (op = .cas → e.operandOk (opShift data (wOf wide)) wide) →
      let t := e.taint false addr || e.taint wide data || (decide (op = .cas) && e.taint wide (opShift data (wOf wide)))
      (e.col.rst = false → ∃ vas vals exps, PerLane vas (e.laneVa b addr) ∧ PerLane vals (e.wideEl 1 wide data)
        ∧ (op = .cas → PerLane exps (e.wideEl 2 wide (opShift data (wOf wide))))
        ∧ exec i s = .next (s.issuedTo
            { e.launched c none
                (.atom op wide (e.mask k) vas vals exps (8 + n.val) (e.taint false addr)) with
              top := e.w.top.awaiting e.w.nextOp (e.mask k) t (wOf wide) }))
      ∧ (e.col.rst = true → s.drainOk e.w.colony = true → Ends s e i 3))
    ∧ (∀ i op, redForm i = some (c, k, op, wide, b, addr, data) → Issues s e c { access := true } false →
      (e.col.rst = false → ∃ vas vals, PerLane vas (e.laneVa b addr) ∧ PerLane vals (e.wideEl 1 wide data)
        ∧ exec i s = .next (s.issuedTo
            (e.launched c none (.red op wide (e.mask k) vas vals (e.taint false addr)))))
      ∧ (e.col.rst = true → s.drainOk e.w.colony = true → Ends s e i 3))
    ∧ ∀ n, e.operandOk (opShift addr 1) false →
      e.vasOk k (fun l => ((e.scalar 100 b.val).toNat + (el (e.read 1 (opShift addr 1)) l).toNat) % 2 ^ 64) (4 * wOf wide) →
      (e.col.rst = true → s.drainOk e.w.colony = true →
        (Runs s e c { pushes := wOf wide, access := true } false → Ends s e (.atom2Amove c k wide n b addr data) 3)
        ∧ (Runs s e c { pushes := 2 * wOf wide, access := true } false →
          (∀ j < 4, e.operandOk (opShift data (j * wOf wide)) wide) → Ends s e (.atom2Dcas c k wide n b addr data) 3))
      ∧ (e.col.rst = false →
      ∃ v1 v2 : List Nat, PerLane v2 (e.laneVa b addr)
        ∧ PerLane v1 (fun l => ((e.scalar 100 b.val).toNat + (el (e.read 1 (opShift addr 1)) l).toNat) % 2 ^ 64)
        ∧ (Runs s e c { pushes := wOf wide, access := true } false → ∃ repl x1 x2 x3, PerLane repl (e.wideEl 2 wide data)
          ∧ exec (.atom2Amove c k wide n b addr data) s = .next (s.issuedTo
              { e.launched c none (.atom2 false wide (e.mask k) v1 v2 x1 x2 x3 repl (8 + n.val)
                  (e.taint false addr || e.taint false (opShift addr 1))) with
                top := e.w.top.awaiting e.w.nextOp (e.mask k)
                  (e.taint false addr || e.taint false (opShift addr 1) || e.taint wide data) (wOf wide) }))
        ∧ (Runs s e c { pushes := 2 * wOf wide, access := true } false →
          (∀ j < 4, e.operandOk (opShift data (j * wOf wide)) wide) →
          ∃ n2 n1 e2 e1, PerLane n2 (e.wideEl 2 wide data) ∧ PerLane n1 (e.wideEl 3 wide (opShift data (wOf wide)))
          ∧ PerLane e2 (e.wideEl 4 wide (opShift data (2 * wOf wide)))
          ∧ PerLane e1 (e.wideEl 5 wide (opShift data (3 * wOf wide)))
          ∧ ∃ t, exec (.atom2Dcas c k wide n b addr data) s = .next (s.issuedTo
              { e.launched c none (.atom2 true wide (e.mask k) v1 v2 e1 e2 n1 n2 (8 + n.val)
                  (e.taint false addr || e.taint false (opShift addr 1))) with
                top := e.w.top.awaiting e.w.nextOp (e.mask k) t (2 * wOf wide) })))

/-- BADVA (R97): cause 1 over the active lanes with an address of 2^52 or more, else cause 2 over the misaligned ones;
the lowest such lane and its address stand in the record, and nothing else happens. -/
def Obligations.BadAddressTraps : Prop :=
  ∀ i s e c k b addr z n os, memShape i = some (c, k, b, addr, z, n, os) →
    Issues s e c { pushes := n, access := true } false → e.operandOk addr false → (∀ p ∈ os, e.operandOk p.1 p.2) →
    e.scalarsOk [b.val] [b.val] →
    ∀ cause bad, (cause = 1 ∧ bad = (fun l => e.maskBit k l && decide (2 ^ 52 ≤ e.laneVa b addr l))
        ∨ cause = 2 ∧ (∀ l < 64, e.maskBit k l = true → e.laneVa b addr l < 2 ^ 52)
          ∧ bad = fun l => e.maskBit k l && decide (e.laneVa b addr l % z ≠ 0)) →
      ∀ low < 64, bad low = true → (∀ l < low, bad l = false) →
      ∃ m : W64, (∀ l < 64, m.getLsbD l = bad l)
        ∧ exec i s = .next (takeTrap s.cur ⟨9, cause, low, m, BitVec.ofNat 64 (e.laneVa b addr low), none, false⟩ e.w.pc s)

/-- LOAD_COMPLETE of coherent locations (R377, R315): each active lane delivers its bytes, little-endian, extended by the
type; nothing else changes but the directories at the homes (R121), the swarm's score (R204) and, after a tainted address, the
core's clean lines, which go (R161). -/
def Obligations.LoadResults : Prop :=
  ∀ s sw op a o w, Due s sw op a o w → s.mayPerform sw o = true → s.upd = [] → s.restartable a.j = false →
    (∀ mt consume m vas kr t (pa : Nat → Nat), o.body = .load mt consume m vas kr t →
      (∀ l < 64, m.getLsbD l = true → ∃ mr, s.coherentAt a (vas.getD l 0) (mtBytes mt) mr ∧ pa l = mr.paOf (vas.getD l 0)) →
      ∃ (vs : List (List W32)) (ports : List Port) (ioDir : List DirEntry) (score : Nat), vs.length = wOf (mtWide mt)
        ∧ (∀ l < 64, m.getLsbD l = true → ∀ lo, vs[0]? = some lo →
            (mtWide mt = false → el lo l = BitVec.ofInt 32 (loadedInt mt (memBytes s.mem (pa l) (mtBytes mt))))
            ∧ (mtWide mt = true → ∀ hi, vs[1]? = some hi →
                el hi l ++ el lo l = BitVec.ofNat 64 (leNat (memBytes s.mem (pa l) 8))))
        ∧ exec (.loadComplete sw op) s = .next ((({ s with ports := ports, ioDir := ioDir } : State).acquiredBy a t).goesOn sw
            { (w.landed op (vs.map fun v => (m, v))).opEnded o with score := score }))
    ∧ ∀ mt va d mr, o.body = .cload mt va d → s.coherentAt a va (mtBytes mt) mr →
      ∃ ports ioDir score, exec (.loadComplete sw op) s = .next (({ s with ports := ports, ioDir := ioDir } : State).goesOn sw
        { (w.withScalar d (BitVec.ofInt 64 (loadedInt mt (memBytes s.mem (mr.paOf va) (mtBytes mt))))).opEnded o with
          score := score })

/-- STORE_COMPLETE of VST and CST to coherent locations (R386, R315): the bytes of each active lane, little-endian, the
highest lane's where several write one byte; every other byte of memory reads as before. Beside them only the directories at the
homes (R121), the swarm's score (R204) and, after a tainted address, the core's clean lines (R161) change. -/
def Obligations.StoreResults : Prop :=
  ∀ s sw op a o w, Due s sw op a o w → s.mayPerform sw o = true → s.upd = [] → s.restartable a.j = false →
    Memory.wf s.mem = true →
    (∀ mt m vas data t (pa : Nat → Nat), o.body = .store mt m vas data t →
      (∀ l < 64, m.getLsbD l = true → s.asksHome a (vas.getD l 0)
        ∧ ∃ mr, s.writableAt a (vas.getD l 0) (mtBytes mt) mr ∧ pa l = mr.paOf (vas.getD l 0)) →
      ∃ mem ports ioDir score,
        (∀ x, (∀ l < 64, m.getLsbD l = true → x < pa l ∨ pa l + mtBytes mt ≤ x) → memGet mem x = memGet s.mem x)
        ∧ (∀ l < 64, m.getLsbD l = true → ∀ j < mtBytes mt,
            (∀ l' < 64, l < l' → m.getLsbD l' = true → pa l + j < pa l' ∨ pa l' + mtBytes mt ≤ pa l + j) →
            memGet mem (pa l + j) = BitVec.ofNat 8 ((el64 data l).toNat / 256 ^ j))
        ∧ exec (.storeComplete sw op) s
            = .next ((({ s with mem := mem, ports := ports, ioDir := ioDir } : State).acquiredBy a t).goesOn sw
                { w.opEnded o with score := score }))
    ∧ ∀ mt va v mr, o.body = .cstore mt va v → s.asksHome a va → s.writableAt a va (mtBytes mt) mr →
      ∃ mem ports ioDir score, (∀ x, x < mr.paOf va ∨ mr.paOf va + mtBytes mt ≤ x → memGet mem x = memGet s.mem x)
        ∧ (∀ j < mtBytes mt, memGet mem (mr.paOf va + j) = BitVec.ofNat 8 (v.toNat / 256 ^ j))
        ∧ exec (.storeComplete sw op) s
            = .next (({ s with mem := mem, ports := ports, ioDir := ioDir } : State).goesOn sw { w.opEnded o with score := score })

/-- ATOMIC_PERFORM of an ATOM and of an ATOM2, and a RED, at coherent locations (R166-R168, R303, R305, R346): lanes in ascending
order, each on what the lane before left, an ATOM by Table 21.1; DCAS writes both locations where both hold what is expected and
delivers both old values, AMOVE moves location 1's value to location 2, writes location 1 and delivers the old value of location 1; f32
contributions of a RED gather in the core's update-only copy. The lanes' own writes make none of the locations an unsupported synonym
(R106). A tainted address acquires first (R161). -/
def Obligations.AtomicResults : Prop :=
  ∀ s sw op a o w, Due s sw op a o w → s.mayPerform sw o = true →
    (∀ aop wide m vas vals exps kr t (pa : Nat → Nat), o.body = .atom aop wide m vas vals exps kr t → s.upd = [] →
      (aop = .addF32 → wide = false) → (wide = false → ∀ l < 64, (el64 vals l).toNat < 2 ^ 32 ∧ (el64 exps l).toNat < 2 ^ 32) →
      (∀ l < 64, m.getLsbD l = true →
        ∃ mr, s.writableAt a (vas.getD l 0) (if wide then 8 else 4) mr ∧ pa l = mr.paOf (vas.getD l 0)) →
      (∀ n ≤ 64, ∀ l < 64, m.getLsbD l = true →
        ({ s with mem := (atomRun aop wide pa vals exps ((activeLanes m).take n) s.mem).1 } : State).synonym (pa l) = false) →
      ∃ (vs : List (List W32)) (ports : List Port), vs.length = wOf wide
        ∧ (∀ x ∈ (atomRun aop wide pa vals exps (activeLanes m) s.mem).2, ∀ lo, vs[0]? = some lo →
            (wide = false → (el lo x.1).toNat = x.2)
            ∧ (wide = true → ∀ hi, vs[1]? = some hi → (el hi x.1 ++ el lo x.1).toNat = x.2))
        ∧ exec (.atomicPerform sw op) s = .next
            ((({ s with mem := (atomRun aop wide pa vals exps (activeLanes m) s.mem).1, ports := ports } : State).acquiredBy a t).goesOn
              sw ((w.landed op (vs.map fun v => (m, v))).opEnded o)))
    ∧ (∀ dcas wide m v1 v2 e1 e2 n1 n2 kr t (p1 p2 : Nat → Nat), o.body = .atom2 dcas wide m v1 v2 e1 e2 n1 n2 kr t → s.upd = [] →
      (wide = false → ∀ l < 64, (el64 e1 l).toNat < 2 ^ 32 ∧ (el64 e2 l).toNat < 2 ^ 32) →
      (∀ l < 64, m.getLsbD l = true →
        (∃ mr, s.writableAt a (v1.getD l 0) (if wide then 8 else 4) mr ∧ p1 l = mr.paOf (v1.getD l 0))
        ∧ ∃ mr, s.writableAt a (v2.getD l 0) (if wide then 8 else 4) mr ∧ p2 l = mr.paOf (v2.getD l 0)) →
      (∀ n ≤ 64, ∀ l < 64, m.getLsbD l = true →
        let u : State := { s with mem := (atom2Run dcas wide p1 p2 e1 e2 n1 n2 ((activeLanes m).take n) s.mem).1 }
        u.synonym (p1 l) = false ∧ u.synonym (p2 l) = false) →
      let run := atom2Run dcas wide p1 p2 e1 e2 n1 n2 (activeLanes m) s.mem
      ∃ (vs : List (List W32)) (ports : List Port), vs.length = (if dcas then 2 else 1) * wOf wide
        ∧ (∀ x ∈ run.2,
            (∀ lo, vs[0]? = some lo → (wide = false → (el lo x.1).toNat = x.2.1)
              ∧ (wide = true → ∀ hi, vs[1]? = some hi → (el hi x.1 ++ el lo x.1).toNat = x.2.1))
            ∧ (dcas = true → ∀ lo, vs[wOf wide]? = some lo → (wide = false → (el lo x.1).toNat = x.2.2)
              ∧ (wide = true → ∀ hi, vs[3]? = some hi → (el hi x.1 ++ el lo x.1).toNat = x.2.2)))
        ∧ exec (.atomicPerform sw op) s = .next
            ((({ s with mem := run.1, ports := ports } : State).acquiredBy a t).goesOn sw
              ((w.landed op (vs.map fun v => (m, v))).opEnded o)))
    ∧ ∀ rop wide m vas vals t (pa : Nat → Nat), o.body = .red rop wide m vas vals t →
      (wide = false → ∀ l < 64, (el64 vals l).toNat < 2 ^ 32) →
      (∀ l < 64, m.getLsbD l = true →
        ∃ mr, s.writableAt a (vas.getD l 0) (if wide then 8 else 4) mr ∧ pa l = mr.paOf (vas.getD l 0)) →
      (rop ≠ .addF32 → s.upd = [] →
        (∀ n ≤ 64, ∀ l < 64, m.getLsbD l = true →
          ({ s with mem := (atomRun rop wide pa vals [] ((activeLanes m).take n) s.mem).1 } : State).synonym (pa l) = false) →
        ∃ ports, exec (.storeComplete sw op) s = .next
          ((({ s with mem := (atomRun rop wide pa vals [] (activeLanes m) s.mem).1, ports := ports } : State).acquiredBy a t).goesOn sw
            (w.opEnded o)))
      ∧ (rop = .addF32 → exec (.storeComplete sw op) s = .next
        ((({ s with upd := ((activeLanes m).map fun l => (pa l, lo32 (el64 vals l))).foldl (gather a.k) s.upd } :
            State).acquiredBy a t).goesOn sw (w.opEnded o)))

/-! ### Synchronisation -/

/-- BIND, UNBIND, REL, FENCE and ACQ issue (R153, R154, R155, R160): the first four leave their access in flight; ACQ of a
coherent object blocks until SEQ reaches n, and ACQ of a page that is not resident sets SR.NONRES and goes on, once nothing is in
flight that it comes after (R162, R196, Table 9.4). BIND and UNBIND end restartability first with CAUSE 3, REL and FENCE wider than
colony scope with CAUSE 4 (R221), once the store buffer can drain. A restartable colony reads the object with its buffered entries
over memory's bytes (R220). -/
def Obligations.SyncIssues : Prop :=
  ∀ s e c (a : SReg),
    (Issues s e c { access := true } false →
      e.scalarsOk [a.val, a.val + 1, a.val + 2] [a.val, a.val + 1, a.val + 2] →
      let va := (e.scalar 0 a.val).toNat
      let base := (e.scalar 1 (a.val + 1)).toNat
      let len := (e.scalar 2 (a.val + 2)).toNat
      va < 2 ^ 52 → va % 64 = 0 → base + len ≤ 2 ^ 52 → base % 64 = 0 → len % 64 = 0 → 0 < len → len ≤ 2 ^ 36 →
      (e.col.rst = true → s.drainOk e.w.colony = true → Ends s e (.bind c a) 3)
      ∧ (e.col.rst = false →
        exec (.bind c a) s = .next (s.issuedTo (e.launched c none (.bind va (some (base, len)))))))
    ∧ (Issues s e c { access := true } false → e.scalarsOk [a.val] [a.val] →
      let va := (e.scalar 0 a.val).toNat
      va < 2 ^ 52 → va % 64 = 0 →
      (e.col.rst = true → s.drainOk e.w.colony = true → Ends s e (.unbind c a) 3 ∧ ∀ sc, 1 < scopeCode sc → Ends s e (.rel c sc a) 4)
      ∧ (e.col.rst = false →
        exec (.unbind c a) s = .next (s.issuedTo (e.launched c none (.bind va none))))
      ∧ ∀ sc, e.col.rst = false ∨ scopeCode sc ≤ 1 →
        exec (.rel c sc a) s = .next (s.issuedTo (e.launched c none (.rel sc va))))
    ∧ (∀ sc, Issues s e c { access := true } true →
      (e.col.rst = true → 1 < scopeCode sc → s.drainOk e.w.colony = true → Ends s e (.fence c sc) 4)
      ∧ (e.col.rst = false ∨ scopeCode sc ≤ 1 →
        exec (.fence c sc) s = .next (s.issuedTo (e.launched c none (.fence sc)))))
    ∧ ∀ sc, Issues s e c { access := true } true → e.scalarsOk [a.val, a.val + 1] [a.val, a.val + 1] →
      let va := (e.scalar 0 a.val).toNat
      va < 2 ^ 52 → va % 64 = 0 → e.w.acqFree (some (va, 64)) →
      s.holds e.ctx.asid va false = false →
      (∀ m, s.heldMap e.ctx.asid va = some m → m.c = true → s.poisoned (m.paOf va) 64 = false → s.upd = [] →
        let bs := e.seen va (s.physRead (m.paOf va) 64)
        legalWait (objClass bs) (objTarget e bs) false = true →
        exec (.acq c sc a) s = .next (settle (s.issuedTo (e.blocked c
          (.acq sc va (e.scalar 1 (a.val + 1)).toNat) (objClass bs)))))
      ∧ (s.heldMap e.ctx.asid va = none → s.walkAny e.ctx.asid va = .nonres →
        exec (.acq c sc a) s
          = .next (settle { s.issuedTo { e.w.moved e.cycle (e.w.pc + 8) with nonres := true } with
              clk := { s.clk with nonres := s.cur :: s.clk.nonres } }))

/-- What BIND, UNBIND, REL, FENCE, CINV and BULKPF do when they perform (R153, R154, R160, R107, R117), at a coherent
object, with no dirty line to write back. BIND writes words 1 and 2 of the object, UNBIND clears BOUND, REL counts SEQ
up and names the releaser; every other byte of memory reads as before. A restartable colony's REL at swarm or colony scope goes into
its store buffer instead (R220, R349), where it counts SEQ up over what it stands on; that the count takes place at the drain, on what
the home then holds, is the model's reading (log 78). CINV drops the clean bytes of the range and the W of its lines, keeps their dirty
bytes (R107), and combines the update-only copies of the range (R167). -/
def Obligations.SyncPerforms : Prop :=
  ∀ s sw op a o w, Due s sw op a o w → s.mayPerform sw o = true →
    (∀ va m, s.writableAt a va 64 m → s.upd = [] → Memory.wf s.mem = true → va % 64 = 0 →
      (∀ region, o.body = .bind va region → (a.asid, va) ∉ s.clk.rels →
        ∃ mem ports, (∀ x, Apart x 1 (m.paOf (va + 8)) (if region.isSome then 16 else 8) → memGet mem x = memGet s.mem x)
          ∧ (∀ base len, region = some (base, len) → leNat (memBytes mem (m.paOf (va + 8)) 8) = (base + 1) % 2 ^ 64
              ∧ leNat (memBytes mem (m.paOf (va + 16)) 8) = len % 2 ^ 64)
          ∧ (region = none → leNat (memBytes mem (m.paOf (va + 8)) 8) = leNat (memBytes s.mem (m.paOf (va + 8)) 8) / 2 * 2)
          ∧ exec (.storeComplete sw op) s
              = .next (({ s with mem := mem, ports := ports } : State).goesOn sw (w.opEnded o)))
      ∧ ∀ sc f, o.body = .rel sc va → s.cleanL1 a.k a.asid → (scopeCode sc = 5 → ∀ p ∈ s.posted, p.swarm ≠ sw) →
        s.fieldOf a.j = some f →
        let clk : Clock := { s.clk with rels := (a.asid, va) :: s.clk.rels }
        let by_ := (f.id % 2 ^ 32 * 2 ^ 32 + (s.whoOf sw o.pc.toNat).colony % 2 ^ 16 * 2 ^ 16 + f.cls * 2 ^ 3 + scopeCode sc)
        (s.restartable a.j = false →
          ∃ mem ports, (∀ x, Apart x 1 (m.paOf va) 8 → Apart x 1 (m.paOf (va + 24)) 8 → memGet mem x = memGet s.mem x)
            ∧ leNat (memBytes mem (m.paOf va) 8) = (leNat (memBytes s.mem (m.paOf va) 8) + 1) % 2 ^ 64
            ∧ leNat (memBytes mem (m.paOf (va + 24)) 8) = by_ % 2 ^ 64
            ∧ exec (.relPerform sw op) s
                = .next (({ s with clk := clk, mem := mem, ports := ports } : State).goesOn sw (w.opEnded o)))
        ∧ ∀ col, s.colonies[a.j]? = some col → col.rst = true → col.bufferFull va = false →
          let b : Buffered := .rel va (scopeCode sc) f.id (s.whoOf sw o.pc.toNat).colony f.cls
          exec (.relPerform sw op) s = .next (({ s with
                clk := clk, colonies := s.colonies.set a.j { col with sbuf := col.sbuf ++ [b] } } : State).goesOn sw (w.opEnded o))
          ∧ ∀ bs : List Byte, bs.length = 64 → (b.onto bs).length = 64
            ∧ leNat ((b.onto bs).take 8) = (leNat (bs.take 8) + 1) % 2 ^ 64
            ∧ leNat (((b.onto bs).drop 24).take 8) = by_ % 2 ^ 64
            ∧ ∀ n < 64, 8 ≤ n → (n < 24 ∨ 32 ≤ n) → (b.onto bs)[n]? = bs[n]?)
    ∧ (∀ sc, o.body = .fence sc → s.cleanL1 a.k a.asid → (scopeCode sc = 5 → ∀ p ∈ s.posted, p.swarm ≠ sw) →
      exec (.fenceComplete sw op) s = .next ((if scopeCode sc = 0 then s else
        s.updCore a.k fun k => { k with l1 := k.l1.filter fun l => !l.of a.asid }).goesOn sw (w.opEnded o)))
    ∧ (∀ base len, o.body = .cinv base len →
      ∃ (ports : List Port) (dies : List Die) (mem : List Host.Cell) (upd : List UpdCopy) (fresh : Nat),
      let inR := fun tag unit => (tag = a.asid ∨ tag = 0xFFFF) ∧ len ≠ 0 ∧ base / 2 ^ 16 ≤ unit
        ∧ unit ≤ (base + len - 1) / 2 ^ 16
      (∀ (p : Nat) (m : MapRec), (∃ q, ports[p]? = some q ∧ m ∈ q.maps) ↔
        ∃ q, s.ports[p]? = some q ∧ m ∈ q.maps ∧ ¬inR m.asid m.unit)
      ∧ (∀ k, ∀ l ∈ (({ s with dies := dies } : State).core k).l1, inR l.asid (l.line / 1024) → l.dirty ≠ 0 ∧ l.w = false)
      ∧ (∀ k, ∀ l ∈ (s.core k).l1, (¬inR l.asid (l.line / 1024) → l ∈ (({ s with dies := dies } : State).core k).l1)
        ∧ (inR l.asid (l.line / 1024) → l.dirty ≠ 0 →
          { l with w := false, have_ := l.dirty } ∈ (({ s with dies := dies } : State).core k).l1))
      ∧ (∀ k, ∀ l ∈ (({ s with dies := dies } : State).core k).icache, ¬inR l.asid (l.line / 1024))
      ∧ (∀ u ∈ upd, u ∈ s.upd ∧ ∀ q ∈ s.ports, ∀ m ∈ q.maps, inR m.asid m.unit → Apart u.pa 4 m.pa (2 ^ 16))
      ∧ (Memory.wf s.mem = true → ∀ x, (∀ u ∈ s.upd, Apart x 1 u.pa 4) → memGet mem x = memGet s.mem x)
      ∧ exec (.cinvComplete sw op) s
          = .next (({ s with ports := ports, dies := dies, mem := mem, upd := upd, fresh := fresh } : State).goesOn sw
              (w.opEnded o)))
    ∧ ∀ base len, o.body = .bulkpf base len → exec (.bulkpfComplete sw op) s = .next (s.goesOn sw (w.opEnded o))

/-- When a wait ends, and what its end does (R25-R29, R127, R131, R137, R143, R155, R180, R198, R200), for a barrier that
has not been invalidated; an invalidated one ends it with STAT 1 (R132). A colony that a pre-emption has stopped completes waits in
that clock only (R216, R217). A comb access performs with its cells (Table 7.2, R127): .full and .take deliver their bytes, .take
empties the cells, .empty writes its bytes, the highest lane's where several write one byte, and fills the cells. -/
def Obligations.WaitsEndWhenReleased : Prop :=
  ∀ s i e wt, envOf s i = some e → e.w.wait = some wt →
    (e.col.stop ≠ none → e.w.colony ∉ s.clk.stopped → s.tryWait i = none)
    ∧ (e.col.stop = none ∨ e.w.colony ∈ s.clk.stopped →
    (∀ b x, e.invalidated wt.kind = some (b, x) → ∃ t w, s.tryWait i = some t ∧ t.swarms[i]? = some w ∧ w.wait = none
      ∧ w.barstat = 1)
    ∧ (e.invalidated wt.kind = none →
      ((s.tryWait i).isSome = true ↔ match wt.kind with
        | .barGen b t | .ringGen b t | .barToken b t _ | .ringToken b t _ => ahead (e.col.genOf b e.w.stage) t = true
        | .ringWait b => e.col.aheadAll b e.w.stage = true
        | .comb (.load t m a) => ∀ x ∈ (CombAccess.load t m a).cells, x ∈ e.col.full
        | .comb (.store m a d) => ∀ x ∈ (CombAccess.store m a d).cells, x ∉ e.col.full
        | .timeline sel n => n ≤ (e.col.timeline sel).toNat
        | .acq _ va n => ∃ bs, s.peek e.ctx.asid va 8 = some bs ∧ n ≤ leNat (e.seen va bs)
        | .launch _ _ => e.col.launchQ.length < 4
        | .lwait va n _ => ∃ w5 done, s.peekWord e.ctx.asid (va + 40) = some w5
            ∧ s.peekWord e.ctx.asid (va + 48) = some done
            ∧ (2 ≤ w5 / 2 ^ 56 % 2 ^ 8 ∨ (w5 / 2 ^ 56 % 2 ^ 8 = 1 ∧ (if 0 < n then n else w5 % 2 ^ 32) ≤ done))
        | .rsvWave _ => s.lowBlocked e.w.colony i = false)
      ∧ (∀ t, s.tryWait i = some t → (∀ b x, wt.kind ≠ .barToken b x true ∧ wt.kind ≠ .ringToken b x true) →
          (∀ x, wt.kind ≠ .comb x) → ∃ w, t.swarms[i]? = some w ∧ w.wait = none ∧ w.starveLevel = 0 ∧ w.pc = e.w.pc
            ∧ (∀ o ∈ w.ops, o.id ≠ wt.op))
      ∧ ∀ t x, s.tryWait i = some t → wt.kind = .comb x → (∀ n ∈ x.cells, n ∉ e.col.combPoison) → ∃ w c' b,
          t.swarms[i]? = some w ∧ w.wait = none ∧ w.starveLevel = 0 ∧ w.pc = e.w.pc ∧ t.colonies[e.w.colony]? = some c'
          ∧ w.ops = e.w.ops.map (fun o => if o.id = wt.op then
              { o with body := b, due := some (e.cycle + x.clocks e.fld.desc.hash) } else o)
          ∧ match x with
            | .load take m as => (∃ v : List W32, b = .result [(m, v)] [] none none ∧ ∀ l < 64, m.getLsbD l = true →
                (el v l).toNat = leNat ((List.range 4).map fun j => e.col.combByte (as.getD l 0 + j)))
              ∧ c'.comb = e.col.comb ∧ ∀ y, y ∈ c'.full ↔ y ∈ e.col.full ∧ (take = true → y ∉ x.cells)
            | .store m as d => b = .result [] [] none none ∧ (∀ y, y ∈ c'.full ↔ y ∈ e.col.full ∨ y ∈ x.cells)
              ∧ (∀ y, (∀ l < 64, m.getLsbD l = true → Apart y 1 (as.getD l 0) 4) → c'.combByte y = e.col.combByte y)
              ∧ (spWfFrom 0 0 e.col.comb = true → ∀ l < 64, m.getLsbD l = true → ∀ j < 4,
                (∀ l' < 64, l < l' → m.getLsbD l' = true → Apart (as.getD l 0 + j) 1 (as.getD l' 0) 4) →
                c'.combByte (as.getD l 0 + j) = BitVec.ofNat 8 ((el d l).toNat / 256 ^ j))))

/-- `settle` leaves no wait that its target has released (R144), but those that keep a place among the other events of their clock: comb
accesses and waves (R146, R184). -/
def Obligations.SettlePerformsEveryReleasedWait : Prop :=
  ∀ s i w wt t, (settle s).swarms[i]? = some w → w.wait = some wt → (settle s).tryWait i = some t →
    (∃ x, wt.kind = .comb x) ∨ ∃ kd, wt.kind = .rsvWave kd

/-! ### The comb, barriers, rings and timelines -/

/-- VLD_COMB and VST_COMB (R122-R127, R379): an unqualified load and the .any and .fill stores perform at once, a load's
bytes little-endian, a store's highest lane winning; the qualified forms block on the state of their cells, and perform in the place
of their issue when the cells allow it (R146). No earlier VLDC holds
a tainted address back (R163), and no TASK.POP the access (R196). -/
def Obligations.CombAccesses : Prop :=
  ∀ s e c k (b : SReg) addr, e.operandOk addr false → e.scalarsOk [b.val] [b.val] → e.combOk k b addr → e.combFree addr →
    (∀ q, Runs s e c { pushes := 1, access := true } (q != .any) → (q ≠ .any → e.combLegal k b addr) →
      ∃ as, PerLane as (e.combAddr b addr)
        ∧ (q = .any → (∀ x ∈ (CombAccess.load false (e.mask k) as).cells, x ∉ e.col.combPoison) →
          ∃ v : List W32, (∀ l < 64, e.maskBit k l = true →
              (el v l).toNat = leNat ((List.range 4).map fun j => e.col.combByte (e.combAddr b addr l + j)))
            ∧ exec (.vldComb c k q b addr) s = .next (settle ((s.issuedTo
                { e.launched c (some ((CombAccess.load false (e.mask k) as).clocks e.fld.desc.hash))
                    (.result [(e.mask k, v)] [] none none) with
                  top := e.w.top.awaiting e.w.nextOp (e.mask k) (e.taint false addr) 1 }).touched e.w.colony
                (CombAccess.load false (e.mask k) as).cells)))
        ∧ (q ≠ .any → exec (.vldComb c k q b addr) s = .next (s.issuedTo
            { e.blocked c (.comb (.load (q == .take) (e.mask k) as)) 0 with
              top := e.w.top.awaiting e.w.nextOp (e.mask k) (e.taint false addr) 1 }).takeOwnTurn))
    ∧ ∀ q data, Issues s e c { access := true } (q == .empty) → e.operandOk data false →
      (q = .empty → e.combLegal k b addr) →
      ∃ as, PerLane as (e.combAddr b addr)
        ∧ (q ≠ .empty → (∀ x ∈ (CombAccess.store (e.mask k) as (e.read 1 data)).cells, x ∉ e.col.combPoison) →
          ∃ comb full old seq, (∀ x, (∀ l < 64, e.maskBit k l = true → Apart x 1 (e.combAddr b addr l) 4) →
              spGet 0 comb x = e.col.combByte x)
            ∧ (∀ l < 64, e.maskBit k l = true → ∀ j < 4, (∀ l' < 64, l < l' → e.maskBit k l' = true →
                Apart (e.combAddr b addr l + j) 1 (e.combAddr b addr l') 4) → spWfFrom 0 0 e.col.comb = true →
                spGet 0 comb (e.combAddr b addr l + j) = BitVec.ofNat 8 ((el (e.read 1 data) l).toNat / 256 ^ j))
            ∧ (∀ x, x ∈ full ↔ x ∈ e.col.full
                ∨ (q = .fill ∧ ∃ l < 64, e.maskBit k l = true ∧ x = e.combAddr b addr l / 16))
            ∧ exec (.vstComb c k q b addr data) s = .next (settle ((s.issuedIn e
                (e.launched c
                  (some ((CombAccess.store (e.mask k) as (e.read 1 data)).clocks e.fld.desc.hash))
                  (.result [] [] none none))
                { e.col with comb := comb, full := full, combOld := old, combSeq := seq }).touched e.w.colony
                (CombAccess.store (e.mask k) as (e.read 1 data)).cells)))
        ∧ (q = .empty → exec (.vstComb c k q b addr data) s = .next (s.issuedTo
            (e.blocked c (.comb (.store (e.mask k) as (e.read 1 data))) 0)).takeOwnTurn)

/-- BAR_INIT, BAR_INVAL, BAR_ARRIVE, BAR_WAIT and BAR_ARRIVE_WAIT at an ordinary and at a ring barrier (R130, R131, R132, R137, R307):
an arrival at a ring barrier counts at the swarm's stage, and every stage whose generation then completes advances, the later ones
first; BAR_ARRIVE_WAIT waits for the own stage, by the colony's class when distance alone holds it (Table 2.5). That BAR_INIT discards
engine arrivals held for a next generation is the model's choice (log 71), and so is that a counted arrival leaves SR.BARSTAT as it is
(log 100). -/
def Obligations.BarrierForms : Prop :=
  ∀ s e c,
    (∀ a : SReg, Issues s e c {} false → e.scalarsOk [a.val] [a.val] →
      let v := (e.scalar 0 a.val).toNat
      let b := v % 2 ^ 5
      v < 2 ^ 34 → v / 2 ^ 17 % 2 ^ 7 = 0 → v / 2 ^ 5 % 2 ^ 3 = 0 → 1 ≤ v / 2 ^ 8 % 2 ^ 9 →
      v / 2 ^ 8 % 2 ^ 9 ≤ e.fld.desc.swarms → v / 2 ^ 32 ≠ 3 → b < e.col.bars.length → e.barFree b →
      exec (.barInit c a) s = .next (settle (s.issuedIn e (e.w.moved e.cycle (e.w.pc + 8)) { e.col with
        rings := (match (e.col.bar b).ring with
          | none => e.col.rings
          | some k => e.col.rings.set k none)
        bars := e.col.bars.set b ⟨true, v / 2 ^ 32, v / 2 ^ 8 % 2 ^ 9, v / 2 ^ 24 % 2 ^ 8, 0, 0, 0, 0,
          (e.col.bar b).epoch, [], none, []⟩ })))
    ∧ ∀ b : Fin 32, b.val < e.col.bars.length → (∀ k r, e.col.ringOf b.val = some (k, r) → e.w.stage < r.rs) →
      let x := e.col.bar b.val
      (Issues s e c {} false →
        exec (.barInval c b) s = .next (settle (s.issuedIn e (e.w.moved e.cycle (e.w.pc + 8)) { e.col with
          bars := e.col.bars.set b.val { x with
            valid := false, epoch := x.epoch + 1, sArr := 0, eArr := 0, eHeld := 0
            stages := x.stages.map fun _ => (0, 0, 0) } })))
      ∧ (Issues s e c { quiet := true } false →
        (x.valid = false → x.token? e.w.idx = none →
          exec (.barArrive c b) s
            = .next (settle (s.issuedTo { e.w.moved e.cycle (e.w.pc + 8) with barstat := 1 })))
        ∧ (x.valid = true → x.token? e.w.idx = none → e.col.ringOf b.val = none →
          exec (.barArrive c b) s = .next (settle (s.issuedIn e (e.w.moved e.cycle (e.w.pc + 8))
            { e.col with bars := e.col.bars.set b.val (x.arrived e.w.idx) })))
        ∧ (x.valid = true → x.token? e.w.idx = none → ∀ k r, e.col.ringOf b.val = some (k, r) → ∃ r' x',
          RingRuns e.fld.desc.stages 128 r (e.ringArrived r x) r' x'
          ∧ exec (.barArrive c b) s = .next (settle (s.issuedIn e (e.w.moved e.cycle (e.w.pc + 8))
            { e.col with bars := e.col.bars.set b.val x', rings := e.col.rings.set k (some r') })))
        ∧ ∀ t, x.valid = true → x.token? e.w.idx = some t → e.barWaitOk b.val →
          exec (.barArrive c b) s = .next (settle (s.issuedTo (e.blocked c
            (if (e.col.ringOf b.val).isSome then .ringToken b.val t false else .barToken b.val t false) x.cls))))
      ∧ (Issues s e c { quiet := true } true → e.barWaitOk b.val → x.valid = true → x.token? e.w.idx = none →
        e.col.ringOf b.val = none →
        exec (.barArriveWait c b) s = .next (settle (s.issuedIn e
          (e.blocked c (.barGen b.val x.gen.toNat) x.cls)
          { e.col with bars := e.col.bars.set b.val (x.arrived e.w.idx) })))
      ∧ (Issues s e c { quiet := true } true → x.valid = true → x.token? e.w.idx = none →
        ∀ k r, e.col.ringOf b.val = some (k, r) → ∃ r' x', RingRuns e.fld.desc.stages 128 r (e.ringArrived r x) r' x'
          ∧ ∀ cls, (let n := e.fld.desc.stages.getD e.w.stage 0
              let far := r'.ptr e.w.stage = r.ptr e.w.stage ∧ RingIn n r' x' e.w.stage ∧ ¬RingNear r' e.w.stage
              (far → cls = e.fld.cls) ∧ (¬far → cls = x.cls) ∧ (cls ≤ 1 ∨ n = e.fld.desc.swarms)) →
            exec (.barArriveWait c b) s = .next (settle (s.issuedIn e (e.blocked c (.ringGen b.val (r.ptr e.w.stage)) cls)
              { e.col with bars := e.col.bars.set b.val x', rings := e.col.rings.set k (some r') })))
      ∧ (Issues s e c { quiet := true } true → e.barWaitOk b.val → x.valid = true →
        ∀ t, x.token? e.w.idx = some t →
        exec (.barArriveWait c b) s = .next (settle (s.issuedTo (e.blocked c
          (if (e.col.ringOf b.val).isSome then .ringToken b.val t true else .barToken b.val t true) x.cls))))
      ∧ (Issues s e c {} true → e.barWaitOk b.val → x.valid = true →
        exec (.barWait c b) s = .next (settle (s.issuedTo (e.blocked c
          (if (e.col.ringOf b.val).isSome then .ringWait b.val
            else .barGen b.val ((x.token? e.w.idx).getD x.gen.toNat)) x.cls))))

/-- RING_DEF, TLRD and TLWAIT (R135, R143, R351): a ring is defined with every pointer 0 and its barrier in ring mode; TLRD
reads a timeline, TLWAIT blocks until it reaches a value. -/
def Obligations.RingsAndTimelines : Prop :=
  ∀ s e c,
    (∀ (k : Fin 4096) (a : SReg), Issues s e c {} false → e.scalarsOk [a.val, a.val + 1] [a.val, a.val + 1] →
      let r : Ring := ⟨e.scalar 0 a.val, e.scalar 1 (a.val + 1), [0, 0, 0, 0, 0, 0, 0, 0]⟩
      ringChecks e k.val r = none → e.col.rings.getD k.val none = none →
      exec (.ringDef c k a) s = .next (settle (s.issuedIn e (e.w.moved e.cycle (e.w.pc + 8)) { e.col with
        bars := e.col.bars.set r.bar { Bar.clear with
          valid := true, cls := r.pclass, gen := (e.col.bar r.bar).gen, epoch := (e.col.bar r.bar).epoch
          ring := some k.val, stages := List.replicate 8 (0, 0, 0) }
        rings := e.col.rings.set k.val (some r) })))
    ∧ (∀ sel (d : SReg), Issues s e c {} false → e.scalarsOk [d.val] [] →
      exec (.tlrd c d sel) s = .next (s.issuedTo (e.launched c none
        (.result [] [(d.val, e.col.timeline sel)] none none))))
    ∧ ∀ sel (a : SReg), Issues s e c {} true → e.scalarsOk [a.val] [a.val] →
      exec (.tlwait c sel a) s = .next (settle (s.issuedTo (e.blocked c
        (.timeline sel (e.scalar 0 a.val).toNat) 0)))

/-! ### Reserving loops -/

/-- The reserving-loop instructions (R174-R182). RSV_OPEN and RSV_CLOSE answer a status two clocks later, an opened loop with every
lane free. RSV_CAND gives the next items to free lanes in ascending order, at most its limit, where 0 means 64, and pushes the
item of each pending lane. CLAIM adds the signature of its address to each pending active lane. The wave forms block, or form a
wave: in ascending order of items, each pending lane whose claims share no signature with a wave in flight, with a lane before
it, or with the colony's lowest pending item; or report an empty one. RSV_DONE frees the admitted lanes. -/
def Obligations.ReservingLoopForms : Prop :=
  ∀ s e c,
    (∀ d a : SReg, Issues s e c {} false → e.scalarsOk [d.val, a.val, a.val + 1] [a.val, a.val + 1] →
      let n := (e.scalar 0 a.val).toNat
      let q := (e.scalar 1 (a.val + 1)).toNat
      0 < n → n ≤ 0xFFFFFFFE → 0 < q → q ≤ 16384 →
      let st : W64 := if e.col.rsv.isSome then 2 else if 16384 < s.claimsReserved e.span.die e.span.clus + q then 1 else 0
      let u := s.issuedTo (e.launched c (some 2) (.result [] [(d.val, st)] none none))
      exec (.rsvOpen c d a) s = .next (if st = 0 then
          { u with
            colonies := s.colonies.set e.w.colony { e.col with rsv := some ⟨n, 0, q⟩ }
            swarms := u.swarms.map fun w =>
              if w.colony = e.w.colony then { w with lanes := List.replicate 64 RLane.free } else w }
        else u))
    ∧ (∀ d : SReg, Issues s e c {} false → e.scalarsOk [d.val] [] →
      let st : W64 := match e.col.rsv with
        | none => 2
        | some r => if r.next < r.n ∨ s.items e.w.colony true ≠ [] ∨ s.items e.w.colony false ≠ [] then 1 else 0
      exec (.rsvClose c d) s = .next (s.issuedIn e
        (e.launched c (some 2) (.result [] [(d.val, st)] none none))
        (if st = 0 then { e.col with rsv := none } else e.col)))
    ∧ (∀ (d : SReg) (kd : KReg) (lim : Fin 65) r, Runs s e c { pushes := 1 } false → e.scalarsOk [d.val] [] →
      e.col.rsv = some r → e.w.wave = false → e.w.lanes.length = 64 →
      let free := fun l : Nat => (e.w.lanes.getD l RLane.free).item.isNone
      let below := fun l : Nat => (List.range l).countP free
      let given := min (if lim.val = 0 then 64 else lim.val) (r.n - r.next)
      ∃ (ls : List RLane) (m : W64), ls.length = 64
        ∧ (∀ l < 64, ∀ y, ls[l]? = some y → m.getLsbD l = y.pending
            ∧ y = if free l = true ∧ below l < given then ⟨some (r.next + below l), false, []⟩
                else e.w.lanes.getD l RLane.free)
        ∧ exec (.rsvCand c d kd lim) s = .next (s.issuedIn e
            { e.launched c (some 4)
                (.result [(allLanes, ls.map fun y => if y.pending = true then BitVec.ofNat 32 (y.item.getD 0) else 0xFFFFFFFF)]
                  [(d.val, BitVec.ofNat 64 (activeLanes m).length)] (some (kd.val, m)) none) with
              lanes := ls, top := e.w.top.awaiting e.w.nextOp allLanes false 1 }
            { e.col with rsv := some { r with next := r.next + min given (below 64) } }))
    ∧ (∀ k (b : SReg) addr r, Issues s e c {} false → e.operandOk addr false → e.scalarsOk [b.val] [b.val] →
      e.col.rsv = some r →
      let on := fun l => e.maskBit k l && (e.w.lanes.getD l RLane.free).pending
      (∀ l < 64, on l = true → e.laneVa b addr l < 2 ^ 52 ∧ (e.w.lanes.getD l RLane.free).claims.length < 8) →
      s.claimsUsed e.w.colony + (List.range 64).countP on ≤ r.quota → e.w.lanes.length = 64 →
      ∃ ls : List RLane, ls.length = 64
        ∧ (∀ l < 64, ∀ x, e.w.lanes[l]? = some x → ls[l]? = some
            (if on l then { x with claims := x.claims ++ [sig (e.laneVa b addr l)] } else x))
        ∧ exec (.claim c k b addr) s = .next (s.issuedTo { e.w.moved e.cycle (e.w.pc + 8) with lanes := ls }))
    ∧ ∀ (kd : KReg) r, e.col.rsv = some r →
      (e.w.wave = false → e.fld.cls ≤ 1 → Issues s e c {} true →
        e.w.acqFree none ∨ (s.lowBlocked e.w.colony s.cur = false ∧ s.waveAdmits e.w.colony s.cur = false) →
        exec (.rsvWave c kd) s = .next (s.issuedTo (e.blocked c (.rsvWave kd.val) e.fld.cls)).takeOwnTurn)
      ∧ (e.w.wave = false → Issues s e c {} false → s.lowBlocked e.w.colony s.cur = true →
        exec (.rsvWaveNb c kd) s = .next (s.issuedTo
          { e.w.moved e.cycle (e.w.pc + 8) with wave := true, top := e.w.top.setMask kd.val 0 }))
      ∧ (e.w.wave = false → Issues s e c {} false → s.lowBlocked e.w.colony s.cur = false →
        e.w.acqFree none ∨ s.waveAdmits e.w.colony s.cur = false →
        e.w.lanes.length = 64 →
        let lane := fun l : Nat => e.w.lanes.getD l RLane.free
        (∀ l l' : Nat, (lane l).pending = true → (lane l').pending = true → (lane l).item = (lane l').item → l = l') →
        ∃ t w, exec (.rsvWaveNb c kd) s = .next t ∧ t.swarms[s.cur]? = some w ∧ w.wave = true ∧ w.pc = e.w.pc + 8
          ∧ w.lanes.length = 64
          ∧ (∀ l < 64, ∃ adm, w.lanes[l]? = some { lane l with admitted := adm }
            ∧ (adm = true ↔ (lane l).admitted = true ∨ ((lane l).pending = true
              ∧ NoneShared (lane l).claims (s.flightClaims e.w.colony)
              ∧ (∀ y, s.lowItem e.w.colony = some y → (lane l).item ≠ some y.item → NoneShared (lane l).claims y.claims)
              ∧ ∀ l' < 64, ∀ y n n', w.lanes[l']? = some y → y.admitted = true → (lane l').pending = true →
                  (lane l').item = some n' → (lane l).item = some n → n' < n → NoneShared (lane l).claims (lane l').claims)))
          ∧ ∀ l < 64, 0 < kd.val → kd.val ≤ w.top.masks.length →
            (w.top.mask kd.val).getLsbD l = ((lane l).pending && (w.lanes.getD l RLane.free).admitted))
      ∧ (e.w.wave = true → Issues s e c { access := true, quiet := true } true → s.cleanL1 e.core e.ctx.asid →
        let u := s.issuedTo { e.w.moved e.cycle (e.w.pc + 8) with
          wave := false, lanes := e.w.lanes.map fun l => if l.admitted then RLane.free else l }
        exec (.rsvDone c) s = .next (settle (({ u with
            swarms := u.swarms.map fun w => if w.colony = e.w.colony then
              { w with wait := w.wait.map (Wait.without (.swarm s.cur)), starved := w.starved.map (Wait.without (.swarm s.cur)) }
            else w } : State).updCore e.core
          fun k => { k with l1 := k.l1.filter fun l => !l.of e.ctx.asid })))

/-! ### The matrix unit -/

/-- MACQ, MREL, MREL_FREE, MRD, MWR, TCFG and UCFG (R82, R85, R92, R337, R341, R342, Table 5.1). MRD and MWR meet no
uncorrectable error in the code words of four elements that they name (Table 14.7). -/
def Obligations.TileForms : Prop :=
  ∀ s e c (t : Fin 2),
    (∀ d : SReg, Issues s e c {} false → e.scalarsOk [d.val] [] →
      let x := e.tileOf t.val
      let own := x.owner = some e.w.colony ∧ (x.token = none ∨ x.token = some s.cur)
      let st : W64 := if x.owner = none ∨ own then 0 else if x.owner = some e.w.colony then 1 else 2
      exec (.macq c d t) s = .next
        ((s.issuedTo (e.launched c (some 2) (.result [] [(d.val, st)] none none))).updCore e.core fun k =>
          if x.owner = none then k.withTile t.val fun _ => ⟨some e.w.colony, some s.cur, [], []⟩
          else if own then k.withTile t.val fun y => { y with token := some s.cur } else k))
    ∧ (e.holdsToken t.val → e.tileStill t.val →
      (Issues s e c {} false → exec (.mrel c t) s = .next
        ((s.issuedTo (e.w.moved e.cycle (e.w.pc + 8))).updCore e.core fun k =>
          k.withTile t.val fun y => { y with token := none }))
      ∧ (Issues s e c { tile := some t.val } false → exec (.mrelFree c t) s = .next
        ((s.issuedTo (e.w.moved e.cycle (e.w.pc + 8))).updCore e.core fun k =>
          k.withTile t.val fun y => { y with owner := none, token := none })))
    ∧ (∀ k hi (j : Fin 160), e.holdsToken t.val →
      (∀ l < 64, e.maskBit k l = true → ((if hi then l + 64 else l) * 160 + j.val) / 4 ∉ (e.tileOf t.val).bad) →
      (Runs s e c { pushes := 1, tile := some t.val } false →
        ∃ v : List W32, (∀ l < 64, el v l = spGet 0 (e.tileOf t.val).elems ((if hi then l + 64 else l) * 160 + j.val))
          ∧ exec (.mrd c k hi t j) s = .next (s.issuedTo
              { e.launched c (some 4) (.mrd t.val (e.mask k) v) with
                top := e.w.top.awaiting e.w.nextOp (e.mask k) false 1 }))
      ∧ ∀ a, Issues s e c { tile := some t.val } false → e.operandOk a false → spWfFrom 0 0 (e.tileOf t.val).elems = true →
        ∃ es, (∀ i < 128, ∀ n < 160, spGet 0 es (i * 160 + n)
            = if n = j.val ∧ (if hi then 64 ≤ i else i < 64) ∧ e.maskBit k (i % 64) = true then el (e.read 0 a) (i % 64)
              else spGet 0 (e.tileOf t.val).elems (i * 160 + n))
          ∧ exec (.mwr c k hi t a j) s = .next
              ((s.issuedTo (e.launched c (some 1) (.mwr t.val))).updCore e.core fun k =>
                k.withTile t.val fun y => { y with elems := es }))
    ∧ ∀ a : SReg, Issues s e c {} false →
      (e.scalarsOk [a.val, a.val + 1, a.val + 2] [a.val, a.val + 1, a.val + 2] →
        let ws := [e.scalar 0 a.val, e.scalar 1 (a.val + 1), e.scalar 2 (a.val + 2)]
        tileCfgBad ws = false →
        exec (.tcfg c a) s = .next (s.issuedTo { e.w.moved e.cycle (e.w.pc + 8) with tcfg := ws }))
      ∧ (e.scalarsOk [a.val, a.val + 1, a.val + 2, a.val + 3] [a.val, a.val + 1, a.val + 2, a.val + 3] →
        let ws := [e.scalar 0 a.val, e.scalar 1 (a.val + 1), e.scalar 2 (a.val + 2), e.scalar 3 (a.val + 3)]
        unfCfgBad ws = false →
        exec (.ucfg c a) s = .next (s.issuedTo { e.w.moved e.cycle (e.w.pc + 8) with ucfg := ws }))

/-- MMA and MMA_COOP are accepted (R75, R91, R94, R338, R339): MMA takes the next number and stands last in the unit's
order, due 40 clocks after the occupancy of Table 5.5, which a limiter that withholds delays (R239; by how much is free, log 98); of a
mask without a lane the occupancy is read from lane 0's format word, which is the model's choice (log 72). An MMA_COOP waits for its
other participants, and the last arrival starts one operation of all their parts. -/
def Obligations.MatrixOperationsIssue : Prop :=
  ∀ s e c k z (t : Fin 2) o w, Issues s e c {} false → e.operandOk o false →
    ((e.tileOf t.val).owner = some e.w.colony ∧ ((e.tileOf t.val).token = some s.cur ∨ (e.tileOf t.val).token = none)) →
    (tileCfg e.w.tcfg).m ≠ 0 → (∃ x ∈ e.w.ucfg, x ≠ 0) →
    (w = el (e.read 0 o) (lowLane (e.mask k)) →
      e.mask k = 0 ∨ (e.votes (e.mask k) o w
        ∧ mmaRangeTrap e (tileCfg e.w.tcfg) (unfCfg e.w.ucfg) w.toNat 0 0 = none) →
      let fin := max e.cycle (s.core e.core).unitFree + s.acceptDelay e.core + mmaOccupancy (tileCfg e.w.tcfg) w
      exec (.mma c k z t o) s = .next { (s.issuedIn e (e.launched c none .engine)
          { e.col with mmaIssued := e.col.mmaIssued + 1 }).updCore e.core (fun x => { x with unitFree := fin }) with
        mmas := s.mmas ++ [⟨e.w.colony, e.col.mmaIssued + 1,
          [⟨s.cur, e.w.nextOp, e.core.1, e.core.2.1, e.core.2.2, 0, t.val, z, e.mask k, e.w.tcfg, e.w.ucfg,
            e.col.rings, w⟩], false, fin + 40, e.col.combSeq, false⟩] })
    ∧ (let tc := tileCfg e.w.tcfg
      let base : Int := (e.w.idx : Int) - tc.qpart
      let a : CoopArr := ⟨base, tc.rb * tc.cb, tc.qpart, s.cur, e.w.nextOp, t.val, z, e.mask k, e.w.tcfg, e.w.ucfg, w,
        e.col.rings⟩
      e.votes (if e.mask k = 0 then allLanes else e.mask k) o w → (∀ b ∈ e.col.coop, b.swarm ≠ s.cur) →
      tc.rb * tc.cb ≤ e.fld.desc.span → base + (tc.rb * tc.cb : Nat) - 1 < (e.fld.desc.swarms : Int) →
      mmaRangeTrap e tc (unfCfg e.w.ucfg) w.toNat (tc.qpart / tc.cb) (tc.qpart % tc.cb) = none →
      (coopGroup (e.col.coop ++ [a]) base = none → exec (.mmaCoop c k z t o) s = .next
        (s.issuedIn e (e.launched c none .engine) { e.col with coop := e.col.coop ++ [a] }))
      ∧ ∀ g, coopGroup (e.col.coop ++ [a]) base = some g → g ≠ [] →
        ∃ u x, exec (.mmaCoop c k z t o) s = .next u ∧ u.mmas = s.mmas ++ [x] ∧ x.colony = e.w.colony
          ∧ x.num = e.col.mmaIssued + 1 ∧ x.parts.map (fun p => (p.swarm, p.op, p.q)) = g.map fun b => (b.swarm, b.op, b.q))

/-- MMA_COMPLETE of an operation of one part, the oldest on its core and due (R77, R91, R93, R95): every element of the rows that
the mask and M pick takes the value of R77, the others stay; the operation leaves, and its number counts in the timeline. Each
comb byte is read as it is, or as it stood before a write made since the operation started; what is written in the very clock of the
completion it does not see (R146). It comes while it is still the engines' turn in the clock (Table 7.9). -/
def Obligations.MmaPerforms : Prop :=
  ∀ s core x p col y, s.mmas.find? (fun m => m.uses core) = some x → x.due ≤ s.cycleOf (core / 48) → x.parts = [p] →
    x.ran = false → x.free = false → s.engineTurn = true → s.colonies[x.colony]? = some col → col.combPoison = [] →
    (∃ d cl, s.dies[p.die]? = some d ∧ d.clusters[p.clus]? = some cl ∧ p.core < cl.cores.length) →
    (s.core (p.die, p.clus, p.core)).tiles[p.tile]? = some y → y.bad = [] → spWfFrom 0 0 y.elems = true →
    (tileCfg p.tcfg).n ≤ 160 →
    ∃ u y' rd, exec (.mmaComplete core) s = .next (settle u)
      ∧ u.mmas = s.mmas.filter (fun m => !(m.colony == x.colony && m.num == x.num))
      ∧ (∃ c', u.colonies[x.colony]? = some c' ∧ x.num ∈ c'.mmaDone)
      ∧ (u.core (p.die, p.clus, p.core)).tiles[p.tile]? = some y' ∧ y'.owner = y.owner ∧ y'.token = y.token
      ∧ (∀ a, (∃ o ∈ col.combOld, o.addr = a ∧ x.since ≤ o.seq ∧ o.cycle ≠ s.cycleOf p.die ∧ rd a = o.byte)
        ∨ rd a = match col.combOld.find? fun o => o.addr == a && o.cycle == s.cycleOf p.die with
          | none => col.combByte a
          | some o => o.byte)
      ∧ ∀ i < 128, ∀ j < 160, spGet 0 y'.elems (i * 160 + j) =
          if i < (tileCfg p.tcfg).m ∧ p.mask.getLsbD (i % 64) = true ∧ j < (tileCfg p.tcfg).n then
            mmaValue rd (s.stageNo p.swarm) p (spGet 0 y.elems (i * 160 + j)) i j
          else spGet 0 y.elems (i * 160 + j)

/-! ### Copy collectives -/

/-- COPY and COPYX (R138, R140, R317): a slice opens a collective or joins the open one of its context, and the last slice
closes it, with the next number of its context, at the end of the queue. The barrier epoch is that of the opening, which is the model's
choice (log 101). -/
def Obligations.CopySlicesJoin : Prop :=
  ∀ s e c (idx : Fin 16384) (b : SReg) n i m w,
    ((n = 4 ∧ i = .copy c idx b) ∨ (n = 7 ∧ i = .copyx c idx b)) → Issues s e c { access := true } false → copyQueued e < 64 →
    e.scalarsOk (regsFrom b.val n) (regsFrom b.val n) → 8 * idx.val + 8 ≤ e.fld.desc.recSize →
    let pv := e.fld.desc.recBase + 8 * idx.val
    let r := copyRec w
    let ws := (List.range n).map fun j => e.scalar j (b.val + j)
    let a := copyArgs ws
    pv % 2 ^ 16 + 8 ≤ 2 ^ 16 → s.holds e.ctx.asid pv false = false →
    s.heldMap e.ctx.asid pv = some m → s.poisoned (m.paOf pv) 8 = false → s.upd = [] →
    w = leNat (s.physRead (m.paOf pv) 8) → copyRecBad e w = false → copyArgsBad r a = false → copyBadVa r a = none →
    mmaRingBad e.col e.w.stage (copyCombRanges r a) = false → copyCombOor e r a = none →
    s.cleanL1 e.core e.ctx.asid →
    let sl : Slice := ⟨s.cur, e.w.nextOp, ws, e.col.rings⟩
    let size := if r.npart = 0 then e.fld.desc.swarms else r.npart
    let num := e.col.copyIssued.getD r.ctx 0 + 1
    let w' := e.launched c none .engine
    (e.joins r.ctx = none →
      let x : Coll := ⟨e.w.colony, r.ctx, idx.val, BitVec.ofNat 64 w, e.w.stage, (e.col.bar r.bar).epoch, [sl], 0, .open_, 0⟩
      (1 < size → exec i s = .next { s.issuedTo w' with colls := s.colls ++ [x] })
      ∧ (size ≤ 1 → exec i s = .next { s.issuedIn e w' { e.col with copyIssued := e.col.copyIssued.set r.ctx num } with
          colls := s.colls ++ [{ x with num := num, state := .queued }] }))
    ∧ ∀ y, e.joins r.ctx = some y → y.recIdx = idx.val → y.rec_ = BitVec.ofNat 64 w → copyStageBad e y = false →
      (y.slices.length + 1 < size → exec i s = .next { s.issuedTo w' with
          colls := s.colls.map fun z => if z = y then { y with slices := y.slices ++ [sl] } else z })
      ∧ (size ≤ y.slices.length + 1 → exec i s = .next
          { s.issuedIn e w' { e.col with copyIssued := e.col.copyIssued.set r.ctx num } with
            colls := s.colls.erase y ++ [{ y with slices := y.slices ++ [sl], num := num, state := .queued }] })

/-- COPY_COLLECTIVE_START takes the collective that closed first when an engine of the cluster is free (R138); and
COPY_COLLECTIVE_COMPLETE of a collective of one plain slice from global memory to the comb moves its bytes, fills their
cells and counts in its timeline (R140-R143), while it is the engines' turn, in a clock in which no swarm has accessed the comb
(Table 7.9). What it reads of the comb it reads as from its start on (R141). -/
def Obligations.CopyCollectivesRun : Prop :=
  (∀ s clus x, s.colls.find? (fun x => x.state == .queued && s.collOn (clus / 4) (clus % 4) x) = some x →
    s.colls.countP (fun y => y.state == .running && s.collOn (clus / 4) (clus % 4) y) < 4 →
    exec (.copyCollectiveStart clus) s
      = .next { s with colls := s.colls.map fun y => if y = x then
          { y with state := .running, since := (s.colonies[x.colony]?.map Colony.combSeq).getD 0 } else y })
  ∧ ∀ s j ctx num x sl col f cx w (pa : Nat → Nat),
    s.colls.find? (fun x => x.colony == j && x.ctx == ctx && x.num == num && x.state == .running) = some x →
    x.slices = [sl] → s.colonies[j]? = some col → s.fields[col.field]? = some f → s.ctx? f.ctx = some cx →
    s.swarms[sl.swarm]? = some w → s.engineTurn = true → col.rst = false → sl.rings = [] → spWfFrom 0 0 col.comb = true → s.clk.cells = [] →
    ctx < col.copyDone.length → sl.args.length ≤ 4 → s.upd = [] →
    let r := copyRec x.rec_.toNat
    let a := copyArgs sl.args
    r.toGlobal = false → r.mode = 0 → a.va % r.esz = 0 → a.a2 % r.esz = 0 → a.comb % 16 = 0 → a.va + a.a2 ≤ 2 ^ 52 → a.comb + a.a2 ≤ 2 ^ 24 →
    (∀ i < a.a2, ∃ m, s.heldMap cx.asid (a.va + i) = some m ∧ s.holds cx.asid (a.va + i) false = false
      ∧ s.poisoned (m.paOf (a.va + i)) 1 = false
      ∧ isSelfReg (m.paOf (a.va + i)) = false ∧ isPeerPa (m.paOf (a.va + i)) = false
      ∧ s.synonym (m.paOf (a.va + i)) = false ∧ pa i = m.paOf (a.va + i)) →
    ∃ u c', exec (.copyCollectiveComplete j ctx num) s = .next (settle u) ∧ u.colonies[j]? = some c'
      ∧ (∀ i < a.a2, c'.combByte (a.comb + i) = memGet s.mem (pa i) ∧ (a.comb + i) / 16 ∈ c'.full)
      ∧ (∀ i, Apart i 1 a.comb a.a2 → c'.combByte i = col.combByte i)
      ∧ num ∈ c'.copyDone.getD ctx []

/-! ### Tiles of a field, task queues, launches, special registers -/

/-- TILE_NEXT (R193, R194), TASK_PUSH, TASK_POP (R196), LAUNCH, LAUNCH_WAIT (R198) and LWAIT (R200) issue. The launch forms
begin with a FENCE, here with no dirty line to write back, once the swarm's accesses have completed; the clock notes the launch, for the
entries that it frees were freed before (R198). LWAIT issues once nothing is in flight that it comes after (R162, R196). In a
restartable colony the task-queue forms end restartability first, with CAUSE 5 (R221), once the store buffer can drain. -/
def Obligations.WorkForms : Prop :=
  ∀ s e c (d a : SReg),
    (e.col.rst = true → s.drainOk e.w.colony = true → Issues s e c { access := true } false → ∀ p : Fin 8,
      (e.scalarsOk [d.val, a.val, a.val + 1] [a.val, a.val + 1] → Ends s e (.taskPush c d a p) 5)
      ∧ (e.scalarsOk (regsFrom d.val 3) [] → Ends s e (.taskPop c d p) 5))
    ∧ (e.col.rst = false →
    (∀ n : Fin 4096, Issues s e c {} false → e.scalarsOk (regsFrom d.val 5) [] → e.col.tileReplay = [] →
      let t := e.fld.nextTile
      let f := e.fld
      let m := min n.val (f.tx * f.ty * f.tz - t)
      (m = 0 → exec (.tileNext c d n) s = .next (s.issuedTo (e.launched c none
        (.result [] [(d.val, BitVec.allOnes 64), (d.val + 1, 0)] none none))))
      ∧ (m ≠ 0 → exec (.tileNext c d n) s = .next { s.issuedTo (e.launched c none (.result []
          [(d.val, BitVec.ofNat 64 t), (d.val + 1, BitVec.ofNat 64 m), (d.val + 2, BitVec.ofNat 64 (t % f.tx)),
            (d.val + 3, BitVec.ofNat 64 (t / f.tx % f.ty)), (d.val + 4, BitVec.ofNat 64 (t / (f.tx * f.ty)))]
          none none)) with fields := s.fields.set e.col.field { f with nextTile := t + m } }))
    ∧ (Issues s e c { access := true } false →
      (∀ p : Fin 8, e.scalarsOk [d.val, a.val, a.val + 1] [a.val, a.val + 1] →
        exec (.taskPush c d a p) s = .next (s.issuedTo (e.launched c none
          (.taskPush p.val (e.scalar 0 a.val) (e.scalar 1 (a.val + 1)) d.val))))
      ∧ ∀ p : Fin 8, e.scalarsOk (regsFrom d.val 3) [] →
        exec (.taskPop c d p) s = .next (s.issuedTo (e.launched c none (.taskPop p.val d.val))))
    ∧ (Issues s e c { access := true } true → e.w.quiet = true → e.scalarsOk [d.val, a.val] [a.val] →
      s.cleanL1 e.core e.ctx.asid →
      let va := (e.scalar 0 a.val).toNat
      let fenced := fun t : State => { t.updCore e.core fun k => { k with l1 := k.l1.filter fun l => !l.of e.ctx.asid } with
        clk := { s.clk with launched := e.w.colony :: s.clk.launched } }
      va < 2 ^ 52 → va % 64 = 0 →
      (e.col.launchQ.length < 4 → exec (.launch c d a) s = .next (settle (fenced (s.issuedIn e
        ((e.w.moved e.cycle (e.w.pc + 8)).withScalar d.val (BitVec.ofNat 64 (e.col.launchIssued + 1)))
        { e.col with launchQ := e.col.launchQ ++ [va], launchIssued := e.col.launchIssued + 1 }))))
      ∧ (4 ≤ e.col.launchQ.length → exec (.launch c d a) s = .next (settle (fenced (s.issuedTo
        ((e.w.moved e.cycle (e.w.pc + 8)).withScalar d.val 0)))))
      ∧ exec (.launchWait c d a) s
          = .next (settle (fenced (s.issuedTo (e.blocked c (.launch va d.val) 0)))))
    ∧ (Issues s e c { access := true } true → e.scalarsOk [d.val, a.val, a.val + 1] [a.val, a.val + 1] →
      let va := (e.scalar 0 a.val).toNat
      va < 2 ^ 52 → va % 64 = 0 → e.w.acqFree (some (va, 64)) → s.holds e.ctx.asid va false = false →
      (s.heldMap e.ctx.asid va = none → s.walkAny e.ctx.asid va = .nonres → exec (.lwait c d a) s
        = .next (settle { s.issuedTo { (e.w.moved e.cycle (e.w.pc + 8)).withScalar d.val 0 with nonres := true } with
            clk := { s.clk with nonres := s.cur :: s.clk.nonres } }))
      ∧ ∀ m, s.heldMap e.ctx.asid va = some m → m.c = true → s.poisoned (m.paOf va) 64 = false → s.upd = [] →
        let w1 := lineWord (s.physRead (m.paOf va) 64) 1
        let cls := w1 / 2 ^ 30 % 4
        legalWait (if cls = 3 then 0 else cls) (if w1.testBit 29 then .reserved else .other) false = true →
        exec (.lwait c d a) s = .next (settle (s.issuedTo (e.blocked c
          (.lwait va (e.scalar 1 (a.val + 1)).toNat d.val) cls)))))

/-- TASK_QUEUE_PERFORM (R195, R196, R360): a push that has room stands in key order behind its equals and answers 0, else 1; a
pop takes one of the address space's first 64 pairs and answers 0 with it, or 1 when there is none. The pushes of a clock come
before its pops. -/
def Obligations.TaskQueuesPerform : Prop :=
  ∀ s sw op a o w pick, Due s sw op a o w → s.mayPerform sw o = true →
    (∀ port key payload d p, o.body = .taskPush port key payload d → s.ports[port]? = some p → port ∉ s.clk.popped →
      (p.tasks.length < 262144 → p.tasks.countP (fun t => t.asid == a.asid) < spGet 0 p.quotas a.asid →
        ∃ ts pre post, ts = pre ++ ⟨a.asid, key, payload⟩ :: post ∧ p.tasks = pre ++ post
          ∧ (keyOrdered p.tasks → (∀ x ∈ pre, x.key.toNat ≤ key.toNat) ∧ ∀ x ∈ post, key.toNat < x.key.toNat)
          ∧ exec (.taskQueuePerform sw op pick) s = .next
              (({ s with ports := s.ports.set port { p with tasks := ts } } : State).goesOn sw
                ((w.withScalar d 0).opEnded o)))
      ∧ (262144 ≤ p.tasks.length ∨ spGet 0 p.quotas a.asid ≤ p.tasks.countP (fun t => t.asid == a.asid) →
        exec (.taskQueuePerform sw op pick) s = .next (s.goesOn sw ((w.withScalar d 1).opEnded o))))
    ∧ ∀ port d p, o.body = .taskPop port d → s.ports[port]? = some p →
      let own := p.tasks.filter fun t => t.asid == a.asid
      let clk : Clock := { s.clk with popped := port :: s.clk.popped }
      let after := fun st k v => (((w.withScalar d st).withScalar (d + 1) k).withScalar (d + 2) v).opEnded o
      (∀ t, own[pick]? = some t → pick < 64 → exec (.taskQueuePerform sw op pick) s = .next
        (({ s with clk := clk, ports := s.ports.set port { p with tasks := p.tasks.erase t } } : State).goesOn sw
          (after 0 t.key t.payload)))
      ∧ (own = [] → exec (.taskQueuePerform sw op pick) s
          = .next (({ s with clk := clk } : State).goesOn sw (after 1 0 0)))

/-- GETID, GETID_HOP, SRD and SWR (R229, R298, R328, R358, R359): reads land two clocks after issue, a write one clock after,
into the fields that its register's table lets software write; a bit of SR.NONRES or SR.COPYST that hardware sets in that same
clock stays set. -/
def Obligations.SpecialRegisters : Prop :=
  (∀ s e c, Issues s e c {} false →
    (∀ sel (d : SReg), e.scalarsOk [d.val] [] → exec (.getid c d sel) s = .next (s.issuedTo
      (e.launched c (some 2) (.result [] [(d.val, BitVec.ofNat 64 (e.idValue sel))] none none))))
    ∧ (∀ d a b : SReg, e.scalarsOk [d.val, a.val, b.val] [a.val, b.val] → exec (.getidHop c d a b) s = .next (s.issuedTo
      (e.launched c (some 2) (.result []
        [(d.val, hopDistance e.ctx (e.scalar 0 a.val).toNat (e.scalar 1 b.val).toNat)] none none))))
    ∧ (∀ r (d : SReg), e.scalarsOk [d.val] [] → ∃ v : W64,
      (r = .tstat → v.toNat = e.w.trap.intrap.toNat) ∧ (r = .trec 0 → v = e.w.trap.rec0) ∧ (r = .trec 1 → v = e.w.trap.rec1)
      ∧ (r = .trec 2 → v = e.w.trap.rec2) ∧ (r = .trec 3 → v = e.w.trap.rec3)
      ∧ (r = .tresume → v = e.w.trap.resume.setWidth 64) ∧ (r = .tvec → v = e.ctx.tvec.setWidth 64)
      ∧ (r = .check → v.toNat = e.ctx.check.toNat) ∧ (r = .nonres → v.toNat = e.w.nonres.toNat)
      ∧ (r = .starve → v = BitVec.ofNat 64 (e.w.starveLevel * 2 ^ 8 + e.w.starveLog2))
      ∧ (r = .barstat → v = BitVec.ofNat 64 e.w.barstat) ∧ (r = .bardrop → v = e.col.bardrop.setWidth 64)
      ∧ (r = .resumes → v = e.col.resumes.setWidth 64) ∧ (r = .copyst → v = BitVec.ofNat 64 e.col.copyst)
      ∧ (r = .privbase → v = BitVec.ofNat 64 e.w.privBase) ∧ (r = .privsize → v = BitVec.ofNat 64 e.w.privSize)
      ∧ (r = .combhash → v = BitVec.ofNat 64 e.fld.desc.hash)
      ∧ (r = .restart → v = BitVec.ofNat 64
          (e.col.rst.toNat * 2 ^ 31 + e.col.rstCause * 2 ^ 28 + e.col.rstCount * 2 ^ 24 + e.col.sbufLines))
      ∧ (r = .tflags 0 → v = BitVec.ofNat 64 ((List.range 10).map fun n => e.w.trap.flags.getD n 0 * 2 ^ (6 * n)).sum)
      ∧ (r = .tflags 1 → v = BitVec.ofNat 64 (e.w.trap.flags.getD 10 0 + e.w.trap.flags.getD 11 0 * 2 ^ 6))
      ∧ (∀ i, r = .tcfg i → v = e.w.tcfg.getD i.val 0) ∧ (∀ i, r = .ucfg i → v = e.w.ucfg.getD i.val 0)
      ∧ exec (.srd c d r) s = .next (s.issuedTo
          (e.launched c (some 2) (.result [] [(d.val, v)] none none))))
    ∧ ∀ r (a : SReg), r.writable = true → e.scalarsOk [a.val] [a.val] → exec (.swr c r a) s = .next (s.issuedTo
      (e.launched c (some 1) (.result [] [] none (some (r, e.scalar 0 a.val))))))
  ∧ ∀ s sw op a o w r v, Due s sw op a o w → o.body = .result [] [] none (some (r, v)) →
    ∃ w' col, exec (.scalarResultComplete sw op) s
        = .next (({ s with colonies := col } : State).goesOn sw (w'.opEnded o))
      ∧ w' = (match r with
        | .starve => if 10 ≤ v.toNat % 32 ∧ v.toNat % 32 ≤ 30 then { w with starveLog2 := v.toNat % 32 } else w
        | .nonres => { w with nonres := w.nonres && (!v.getLsbD 0 || decide (sw ∈ s.clk.nonres)) }
        | .tresume => if v.toNat % 8 = 0 then { w with trap := { w.trap with resume := v.setWidth 52 } } else w
        | _ => w)
      ∧ (r ≠ .copyst → col = s.colonies)
      ∧ (r = .copyst → ∀ x, s.colonies[w.colony]? = some x →
          ∃ kept < 16, (∀ b < 4, kept.testBit b = decide ((w.colony, b) ∈ s.clk.copyst))
            ∧ col = s.colonies.set w.colony { x with copyst := x.copyst &&& ((15 - v.toNat % 16) ||| kept) })

/-! ### Scheduling -/

/-- The life of a colony: LAUNCH_RECORD_EXAMINE, which comes before a LAUNCH of its clock and once swapped-out lenders have taken what new
reservations they can (R198, R270), frees the record's entry and makes the field with its waiting colonies, or rejects the record, or
tells lenders to lend and others that they need not (R269); a poisoned record is consumed by the launching colony (R190, R191, R197,
R219). COLONY_PLACE starts its swarms (R8, R12, R192, R205). CONTEXT_ROTATION and LENDING_SWAP_OUT, the latter in a later clock than the
decision (R269), stop its issue and, once it has drained, save it (R191, R192, R216); RESUME brings it back as its save area gives it (R32,
R216, R218), unless colonies of other contexts go first (R24, R192); COLONY_RETIRE releases what it holds and counts it in the field
(R35, R199). Where the spec leaves the tests of admission, order and placement open, they are the model's (log 24, log 25, log 79,
log 80). -/
def Obligations.ColonyLifeCycle : Prop :=
  ∀ s j c cx, s.colonies[j]? = some c → s.ctx? (s.colCtx j) = some cx → cx.fault = none →
    (∀ va rest, c.launchQ = va :: rest → j ∉ s.clk.launched →
      let r := s.newResvs
      let v := r.examined cx va (if c.alive then some j else none)
      (∀ st, v = .ok (.reject st) → ∃ u c', exec (.launchRecordExamine j) s = .next (settle u) ∧ u.colonies[j]? = some c'
        ∧ c'.launchQ = rest ∧ c'.launchTl = c.launchTl + 1 ∧ u.fields.length = s.fields.length)
      ∧ (∀ d n sps b sv used, v = .ok (.accept d n sps b sv used) → ∃ u c' f,
        exec (.launchRecordExamine j) s = .next (settle u)
        ∧ u.colonies[j]? = some c' ∧ c'.launchQ = rest ∧ c'.launchTl = c.launchTl + 1
        ∧ u.fields[s.fields.length]? = some f ∧ f.recVa = va ∧ f.desc = d ∧ f.colonies = n ∧ f.retired = 0
        ∧ f.nextTile = 0 ∧ f.privBase = b ∧ u.colonies.length = s.colonies.length + n
        ∧ ∀ k < n, ∃ x, u.colonies[s.colonies.length + k]? = some x ∧ x.field = s.fields.length ∧ x.index = k
          ∧ x.place = none ∧ x.saveBase = sv + k * d.saveBytes ∧ x.saveSize = d.saveBytes)
      ∧ (∀ js, v = .ok (.hold js) → ∃ u, exec (.launchRecordExamine j) s = .next u ∧ u.swarms = s.swarms
        ∧ ∀ (k : Nat) (x : Colony), r.colonies[k]? = some x → ∃ y, u.colonies[k]? = some y ∧ (y.lent = true ↔ k ∈ js
          ∨ (x.lent = true ∧ (x.toldBy = some (.colony j) → r.lentTo (k, x.lendNo) = true))))
      ∧ (v = .error .poison → ∃ u : State, exec (.launchRecordExamine j) s = .next (settle (u.consume j)) ∧ u.colonies = r.colonies))
    ∧ ∀ f, s.fields[c.field]? = some f →
      (∀ sock clus cores, s.waitingAt c.field c.index = some j → f.live = true → s.mayAdmit j c f.cls = true →
        s.itsTurn j f.ctx c = true → s.mayPlace j c f cx ⟨sock, clus, cores⟩ = true →
        ∃ u c', exec (.colonyPlace c.field c.index sock clus cores) s = .next u ∧ u.colonies[j]? = some c'
          ∧ c'.status = .running ∧ c'.place = some ⟨sock, clus, cores⟩ ∧ c'.resv.isSome = c.resv.isSome
          ∧ u.nextPlaced = s.nextPlaced + 1
          ∧ (s.swarmsOf j = [] → ∀ k < f.desc.swarms, ∃ w, u.swarms[s.swarms.length + k]? = some w ∧ w.colony = j
            ∧ w.idx = k ∧ w.pc = BitVec.ofNat 52 f.desc.entry ∧ w.quarter < 4 ∧ w.placed = s.nextPlaced ∧ w.ended = false
            ∧ w.top = Level.entry f.desc.depth f.desc.frame ∧ w.flags = List.replicate 12 0
            ∧ w.scalars.length = f.desc.scalars ∧ ∀ n < f.desc.scalars, w.scalars[n]? = some (f.args.getD n 0)))
      ∧ (∀ p, c.place = some p → c.status = .running →
        (s.rotates j = true → ∃ ds, exec (.contextRotation [j]) s
            = .next (settle { s with colonies := s.colonies.set j { c with stop := some .rotation }, dies := ds,
                                     clk := { s.clk with stopped := j :: s.clk.stopped } })
          ∧ ∀ d, s.dies[p.die]? = some d → ds[p.die]? = some { d with rotation := s.periodOf p.die })
        ∧ (c.stop = some .rotation → s.savable j cx p →
          ∃ u, exec (.contextRotation [j]) s = .next (settle u) ∧ u.savedAt j cx.handle p)
        ∧ (c.lent = true → c.stop = none → j ∉ s.clk.told →
          (s.lendable j = false → exec (.lendingSwapOut j) s = .next { s with
            colonies := s.colonies.set j { c with lent := false, toldBy := none } })
          ∧ (s.lendable j = true → exec (.lendingSwapOut j) s = .next { s with
            colonies := s.colonies.set j { c with stop := some .lending }, clk := { s.clk with stopped := j :: s.clk.stopped } }))
        ∧ (c.lent = true → c.stop = some .lending → s.savable j cx p →
          ∃ u, exec (.lendingSwapOut j) s = .next (settle u) ∧ u.savedAt j cx.handle p)
        ∧ (s.allEnded j = true → s.enginesDone j c = true → c.sbuf = [] → (∀ k ∈ p.coreKeys, s.cleanL1 k cx.asid) →
          ∃ u c' f', exec (.colonyRetire j) s = .next (settle u) ∧ u.colonies[j]? = some c' ∧ c'.status = .retired
            ∧ c'.place = none ∧ c'.resv = none ∧ c'.comb = [] ∧ u.noTiles p j
            ∧ u.fields[c.field]? = some f' ∧ f'.retired = f.retired + 1))
      ∧ ∀ sock clus cores c0, c.status = .saved → s.raisedFirst j f.ctx = true → s.yields j c = false →
        s.mayResume j c f cx ⟨sock, clus, cores⟩ = true → (s.readSave j cx).colonies[j]? = some c0 →
        ∃ u c', exec (.resume j sock clus cores) s = .next (settle u) ∧ u.colonies[j]? = some c'
          ∧ (u.signals cx.handle = true → c'.status = .running ∧ c'.place = some ⟨sock, clus, cores⟩
            ∧ c'.resumes = c0.resumes + 1 ∧ c'.savedTiles = [] ∧ c'.lent = false ∧ c'.stop = none)

/-- STARVE_FIRST_EXPIRY raises the releasers, which then have top priority, and LEVEL reads 1 (R29, R205, R207);
STARVE_SECOND_EXPIRY takes STARVE at the blocked instruction, with its row of Table 2.5 as CAUSE, unless the colony is to be
pre-empted (R29, R30); TOP_PRIORITY (R205, R206), THROTTLE_ADMIT once in 4,096 cycles (R204) and YIELD_HOLD_END, in a clock in which no
other swarm of the quarter has issued or is ready (R387). -/
def Obligations.PriorityAndStarvation : Prop :=
  ∀ s sw e, envOf s sw = some e →
    (∀ wt, e.w.wait = some wt → 2 ^ e.w.starveLog2 ≤ wt.timer →
      (e.w.starveLevel = 0 →
        let t := { s with
          swarms := s.swarms.set sw { e.w with
            starveLevel := 1, wait := some { wt with timer := 0, raises := s.releasers sw wt.kind } }
          clk := { s.clk with expired := true } }
        exec (.starveFirstExpiry sw) s = .next t
        ∧ (∀ i, Releaser.swarm i ∈ s.releasers sw wt.kind → i < s.swarms.length → t.top? i = true)
        ∧ ∀ (i : Nat) (w : Swarm), Releaser.colony w.colony ∈ s.releasers sw wt.kind → s.swarms[i]? = some w → t.top? i = true)
      ∧ ∀ o, e.w.starveLevel = 1 → e.col.stop = none → e.w.ops.find? (fun o => o.id == wt.op) = some o → ∃ row info,
        exec (.starveSecondExpiry sw) s = .next (takeTrap sw ⟨8, row, 0, 0, BitVec.ofNat 64 info, none, false⟩ o.pc
          { s with swarms := s.swarms.set sw { e.w with starveLevel := 2, wait := none, starved := some wt } }).setExpired
        ∧ (match wt.kind with
          | .barGen b _ | .barToken b _ _ | .ringWait b => row = 1 ∧ info = b
          | .ringGen b _ | .ringToken b _ _ => (row = 1 ∧ info = b) ∨ row = 3
          | .comb _ => row = 2
          | .timeline _ _ => row = 4
          | .acq _ va _ => row = 5 ∧ info = va
          | .lwait va _ _ => row = 6 ∧ info = va
          | .launch _ _ => row = 7 ∧ info = 0
          | .rsvWave _ => row = 8))
    ∧ ((s.raised sw = true ∨ 4096 ≤ e.w.readyCount) → s.first sw e.w = true →
      exec (.topPriority sw) s = .next { s with swarms := s.swarms.set sw { e.w with admitted := true }, cur := sw })
    ∧ (∀ t, e.w.hold = some t →
      (t ≤ e.cycle ∨ e.quarterUsed = false ∧ ∀ i < s.swarms.length, i ≠ sw → s.sameQuarter sw i = true → s.couldIssue i = false) →
      exec (.yieldHoldEnd sw) s = .next { s with swarms := s.swarms.set sw { e.w with hold := none } })
    ∧ ∀ core quarter n, 4 ≤ n → n ≤ 64 → quarter < 4 → s.throttleDue (coreKey core) quarter = true →
      ∃ ws ds, exec (.throttleAdmit core quarter n) s = .next { s with swarms := ws, dies := ds }
        ∧ ({ s with swarms := ws, dies := ds } : State).throttleDue (coreKey core) quarter = false
        ∧ ∀ (i : Nat) (w : Swarm), s.swarms[i]? = some w → ws[i]? = some (if i ∈ s.quarterOf (coreKey core) quarter then
            { w with admitted := decide (s.scoreRank (s.quarterOf (coreKey core) quarter) i < n) } else w)

/-! ### Errors, power, links -/

/-- EVICTION_WRITEBACK of a bound or a coherent line (R115, R204), UNCORRECTABLE_ERROR (R219, R222, Tables 14.5 and 14.7): an error
sets poison where it arises, or is consumed; and TIMING_REPLAY (R223). -/
def Obligations.ErrorsAndEvictions : Prop :=
  ∀ s : State,
    (∀ core asid line l, (s.core (coreKey core)).l1.find? (fun l => l.asid == asid && l.line == line) = some l →
      (l.dirty = 0 → exec (.evictionWriteback core asid line) s = .next (s.updCore (coreKey core) fun k => { k with
        l1 := k.l1.filter fun x => !(x.asid == asid && x.line == line)
        victims := (⟨asid, line, l.filler⟩ :: k.victims).take 1024 }))
      ∧ ∀ m, l.dirty ≠ 0 → asid ≠ 0xFFFF → Memory.wf s.mem = true → s.heldMap asid (line * 64) = some m →
        s.holds asid (line * 64) true = false → m.w = true → m.dset = true → isPeerPa m.pa = false → isSelfReg m.pa = false →
        (∀ x ∈ s.upd, Apart x.pa 4 (m.paOf (line * 64)) 64) →
        ∃ u, exec (.evictionWriteback core asid line) s = .next u
          ∧ (∀ o < 64, l.dirty.getLsbD o = true → memGet u.mem (m.paOf (line * 64 + o)) = l.bytes.getD o 0)
          ∧ ∀ a, (∀ o < 64, l.dirty.getLsbD o = true → a ≠ m.paOf (line * 64 + o)) → memGet u.mem a = memGet s.mem a)
    ∧ (∀ core asid line i, (s.core (coreKey core)).l1.find? (fun l => l.asid == asid && l.line == line) = none →
      s.coherentFiller (coreKey core) asid line = some i → ∃ u : State, exec (.evictionWriteback core asid line) s
          = .next (u.updCore (coreKey core) fun k => { k with victims := (⟨asid, line, i⟩ :: k.victims).take 1024 })
        ∧ u.coherentFiller (coreKey core) asid line = none ∧ u.mem = s.mem ∧ u.dies = s.dies)
    ∧ (∀ col u, ∃ ps, exec (.uncorrectableError col (.markMemory u)) s = .next { s with poison := ps }
      ∧ ∀ x, x ∈ ps ↔ x = u ∨ x ∈ s.poison)
    ∧ (∀ col sw frame n, exec (.uncorrectableError col (.markSlot sw frame n)) s = .next { s with
        swarms := s.swarms.modify sw fun w => { w with top :=
          if frame then { w.top with win := w.top.win.modify n fun x => { x with bad := true } }
          else { w.top with queue := w.top.queue.modify n fun x => { x with bad := true } } } })
    ∧ (∀ col sw n w, s.swarms[sw]? = some w → ∃ bs, exec (.uncorrectableError col (.markScalar sw n)) s
          = .next { s with swarms := s.swarms.set sw { w with badScalars := bs } }
        ∧ ∀ x, x ∈ bs ↔ x = n ∨ x ∈ w.badScalars)
    ∧ (∀ col core t g x, (s.core (coreKey core)).tiles[t]? = some x → ∃ bs, exec (.uncorrectableError col (.markTile core t g)) s
          = .next (s.updCore (coreKey core) fun k => { k with tiles := k.tiles.set t { x with bad := bs } })
        ∧ ∀ y, y ∈ bs ↔ y = g ∨ y ∈ x.bad)
    ∧ (∀ col core asid line n, ∃ f : L1Line → L1Line, exec (.uncorrectableError col (.markLine core asid line n)) s
          = .next (s.updCore (coreKey core) fun k => { k with l1 := k.l1.map f })
        ∧ ∀ l, (¬(l.asid = asid ∧ l.line = line) → f l = l)
          ∧ (l.asid = asid → l.line = line →
            ((∀ j < 16, l.dirty.getLsbD (16 * n + j) = false) → f l = { l with have_ := (f l).have_ }
              ∧ ∀ j < 64, (f l).have_.getLsbD j = (l.have_.getLsbD j && !decide (j / 16 = n)))
            ∧ (∀ j < 16, l.dirty.getLsbD (16 * n + j) = true → f l = { l with bad := (f l).bad } ∧ n ∈ (f l).bad)))
    ∧ (∀ col die, exec (.uncorrectableError col (.corrected die)) s = .next { s with dies := s.dies.modify die fun d =>
        { d with ce := if d.ce = BitVec.allOnes 32 then d.ce else d.ce + 1 } })
    ∧ (∀ core, exec (.timingReplay core) s = .next (s.updCore (coreKey core) fun k =>
        { k with replay := if k.replay = BitVec.allOnes 32 then k.replay else k.replay + 1 }))
    ∧ ∀ col c, s.colonies[col]? = some c →
      exec (.uncorrectableError col .system) s = .next (contextFault (s.colCtx col) 7 s)
      ∧ (∀ cell, ∃ cs, exec (.uncorrectableError col (.markComb cell)) s
            = .next { s with colonies := s.colonies.set col { c with combPoison := cs } }
          ∧ ∀ x, x ∈ cs ↔ x = cell ∨ x ∈ c.combPoison)
      ∧ ∀ unit ∈ [ErrUnit.slot, .scalar, .comb, .accumulator, .memory], c.status = .running →
        (c.rst = false → exec (.uncorrectableError col unit) s = .next (settle (contextFault (s.colCtx col) 5 s)))
        ∧ (c.rst = true → 3 ≤ c.rstCount →
          exec (.uncorrectableError col unit) s = .next (settle (contextFault (s.colCtx col) 6 s)))
        ∧ ∀ f, c.rst = true → c.rstCount < 3 → s.fields[c.field]? = some f →
          ∃ u c', exec (.uncorrectableError col unit) s = .next (settle u) ∧ u.colonies[col]? = some c' ∧ c'.status = .waiting
            ∧ c'.rstCount = c.rstCount + 1 ∧ c'.place = none ∧ c'.sbuf = [] ∧ c'.comb = [] ∧ c'.resv = c.resv
            ∧ c'.tileReplay = c.tileLog ++ c.tileReplay ∧ c'.avoid = c.place.map (fun p => (p.die, p.clus))
            ∧ ∀ i ∈ s.swarmsOf col, ∀ w, u.swarms[i]? = some w → w.ended = true

/-- Performance states (R224, R236-R244): the target is the slowest of REQ, CAP and LIM; AGEING_CHECK raises a cluster's cap
a state for each 5% of drift and fails it beyond P7; POWER_SHARE every 10 µs, its power within the ceiling that was complete 20 µs
before the interval of 1 ms began; LIMITER_RAISE after
1 ms of withholding and LIMITER_LOWER after 10 ms below 90% of the share; a transition that has taken its time sets CUR, and
tries a park when REQ reads PK; PARK_COMPLETE leaves the die without lines, parked, or waking when it has been asked for
again. The limit of 40% and the gating at bring-up are the model's reading (log 26), and so are what a refused park leaves
(log 27), and the measure and times of the limiter (log 49). -/
def Obligations.PowerEvents : Prop :=
  (∀ d : Die, d.up = true → d.trans = none → d.req < 8 →
    let n := max d.req (max d.cap d.lim)
    d.retarget = if n = d.cur then d else { d with trans := some n, busy := true })
  ∧ ∀ s : State,
    (∀ meas other withheld light, s.shareAt + 1000 ≤ s.ioCycle →
      let last := (s.pwrHist.find? fun x => decide (x.1 + 102000 ≤ s.ioCycle)).or s.pwrHist.getLast?
      meas ≤ 50 * (match last with
        | some x => x.2
        | none => s.pwrCap) → withheld.Nodup →
      (∀ i, i ∈ withheld ∨ i ∈ light → ∃ d, s.dies[i]? = some d ∧ d.unparked = true) →
      ∃ ds n, exec (.powerShare ⟨meas, other⟩ ⟨withheld, light⟩) s = .next { s with
          pwrMeas := min meas 0xFFFF, pwrEvents := min 0xFFFF (s.pwrEvents + n), shareAt := s.ioCycle, dies := ds }
        ∧ n = withheld.countP (fun i => (s.dies[i]?.bind Die.withheld).isNone)
        ∧ ∀ (i : Nat) d, s.dies[i]? = some d → ds[i]? = some { d with
            share := if d.unparked then (50 * s.pwrCap - other) / max 1 (s.dies.countP Die.unparked) else 0
            withheld := if i ∈ withheld then some (d.withheld.getD s.ioCycle) else none
            light := if i ∈ light then some (d.light.getD s.ioCycle) else none })
    ∧ ∀ die d, s.dies[die]? = some d →
      (∀ clus k drift, d.clusters[clus]? = some k → s.stage = 3 → d.dead = false → k.checked < s.ioCycle / 2 ^ 36 →
        ∃ (d' : Die) (k' : Cluster), exec (.ageingCheck die clus drift) s = .next { s with dies := s.dies.set die d'.retarget }
        ∧ d'.clusters[clus]? = some k' ∧ k'.cap = max k.cap (min 7 (drift / 500))
        ∧ k'.failed = (k.failed || decide (4000 ≤ drift)) ∧ k'.drift = min drift 0xFFFF ∧ k'.gated = k.gated
        ∧ k'.checked = s.ioCycle / 2 ^ 36 ∧ d'.cur = d.cur ∧ d'.req = d.req)
      ∧ (∀ t, d.up = true → d.lim < 7 → d.withheld = some t → t + 100000 ≤ s.ioCycle → exec (.limiterRaise die) s
          = .next { s with dies := s.dies.set die ({ d with lim := d.lim + 1, withheld := some s.ioCycle } : Die).retarget })
      ∧ (∀ t, d.up = true → 0 < d.lim → d.light = some t → t + 1000000 ≤ s.ioCycle → exec (.limiterLower die) s
          = .next { s with dies := s.dies.set die ({ d with lim := d.lim - 1, light := some s.ioCycle } : Die).retarget })
      ∧ (∀ t, d.trans = some t → slewTime d.cur t + 500 ≤ d.elapsed →
        let d1 := { d with cur := t, trans := none, elapsed := 0, busy := false }
        (d.req ≠ 8 → exec (.pstateTransitionComplete die) s = .next { s with dies := s.dies.set die d1.retarget })
        ∧ (d.req = 8 →
          let s1 := { s with dies := s.dies.set die d1 }
          (s1.parkCheck die = none → exec (.pstateTransitionComplete die) s
            = .next { s with dies := s.dies.set die ({ d1 with req := d.oldReq, pkst := 2 } : Die).retarget })
          ∧ ∀ s2, s1.parkCheck die = some s2 → ∃ (u : State) (d' : Die), exec (.pstateTransitionComplete die) s = .next u
            ∧ u.dies[die]? = some d' ∧ d'.parking = true ∧ d'.busy = true ∧ d'.req = 8 ∧ u.ctxs = entriesMoved die 1 2 s2.ctxs
            ∧ ∀ j ∈ s2.runningOn die, ∀ x, s2.colonies[j]? = some x → u.colonies[j]? = some { x with stop := some .park }))
      ∧ (d.parking = true → s.runningOn die = [] → s.dieFree die = true → ∃ u d', exec (.parkComplete die) s = .next (settle u)
        ∧ u.dies[die]? = some d' ∧ d'.parking = false ∧ (∀ k ∈ coresOfDie die, (u.core k).l1 = [])
        ∧ (∀ x ∈ u.upd, x.core.1 ≠ die) ∧ (∀ p ∈ u.ports, ∀ x ∈ p.dir, die ∉ x.dies)
        ∧ (8 ≤ d.req → d'.cur = 8 ∧ d'.pkst = 1 ∧ ∀ l ∈ u.links[die]?, l.state = 0)
        ∧ (d.req < 8 → d'.cur = 7 ∧ d'.pkst = 0 ∧ d'.waking = true ∧ ∀ l ∈ u.links[die]?, l.state = 1))

/-- Links (R231-R234, R242, R243, Table 16.3), reset and bring-up (R102, R224, R267, R268, Tables 17.6 and 17.7), and writes to
registers without a row (R7, R99). A link that dies takes its compute die with it; any other passenger's death is every
context's fault 7. When an ACTIVE link without an answer turns SILENT, what a bring-up check measures, and that it keeps what was
marked failed, are the model's (log 83, log 85); so are the event that makes a link doze (log 45), the arguments of stage 0 (log 26), and
that memory survives a reset (log 28). -/
def Obligations.LinksAndBringUp : Prop :=
  ∀ s : State,
    (∀ sock l, s.link? sock = some l →
      let awake := fun u : State => ∀ d, s.dies[sock]? = some d →
        (d.waking = true → d.req ≠ 8 → u.ctxs = entriesMoved sock 2 1 s.ctxs
          ∧ u.dies[sock]? = some ({ d with waking := false } : Die).retarget)
        ∧ (d.waking = false → u.ctxs = s.ctxs ∧ u.dies = s.dies)
      (l.state = 1 → l.refCycle ≤ l.since + 4000 → ∃ u, exec (.linkTrained sock) s = .next u
        ∧ u.link? sock = some { l with state := 2, doze := false, since := l.refCycle, asked := none } ∧ awake u)
      ∧ (l.state = 3 → ∃ u, exec (.linkResponse sock) s = .next u ∧ u.link? sock = some { l with state := 2, asked := none }
        ∧ awake u)
      ∧ (l.state = 1 → l.since + 4000 ≤ l.refCycle → ∃ u, exec (.linkWakeTimeout sock) s = .next u
        ∧ u.link? sock = some
          { l with state := 3, doze := false, since := l.refCycle, asked := none, waketo := min 0xFFFF (l.waketo + 1) }
        ∧ u.linkLog.getLast? = some ⟨sock, 1, l.refCycle⟩)
      ∧ (l.state = 2 → l.doze = true ∨ s.asks sock = false → ∃ u, exec (.linkDoze sock) s = .next u ∧ u.link? sock = some
        (if l.doze then { l with state := 1, doze := false, since := l.refCycle } else { l with doze := true }))
      ∧ ∀ t, l.state = 2 ∨ l.state = 3 → sock < 64 → s.deadTimer sock = some t →
        (l.state = 2 → t < 500000 → ∃ u, exec (.linkDeadTimeout sock) s = .next u
          ∧ u.link? sock = some { l with state := 3, asked := some l.refCycle } ∧ u.dies = s.dies)
        ∧ (500000 ≤ t → sock < 4 → ∃ u, exec (.linkDeadTimeout sock) s = .next (settle u)
          ∧ u.link? sock = some { l with state := 4, doze := false, since := l.refCycle, asked := none }
          ∧ u.linkLog.getLast? = some ⟨sock, 2, l.refCycle⟩
          ∧ u.dieDead.getLsbD sock = true ∧ (∀ d ∈ u.dies[sock]?, d.dead = true)
          ∧ ∀ c ∈ u.ctxs, ∀ v ∈ c.vdies, v.socket = sock → v.state = 0 ∨ v.state = 3)
        ∧ (500000 ≤ t → 4 ≤ sock → ∃ u, exec (.linkDeadTimeout sock) s = .next u
          ∧ u.link? sock = some { l with state := 4, doze := false, since := l.refCycle, asked := none }
          ∧ u.linkLog.getLast? = some ⟨sock, 2, l.refCycle⟩
          ∧ ∀ c ∈ u.ctxs, c.live = true → c.fault ≠ none))
    ∧ (∃ t, exec .deviceReset s = .next t ∧ t.mem = s.mem
      ∧ { t with mem := [], poison := [], fresh := 0, inbox := [], out := [], dies := State.reset.dies } = State.reset
      ∧ ∀ (i : Nat) d, s.dies[i]? = some d → t.dies[i]? = some { Die.reset with
          clusters := d.clusters.map fun c => { Cluster.reset with gated := c.failed || c.gated } })
    ∧ (s.stage = 0 →
      (∃ t, exec (.bringupStageComplete 0 0 0) s = .next t ∧ t.stage = 1 ∧ t.queues = [adminQueue]
        ∧ (s.ioLink.state = 0 → t.ioLink.state = 2)
        ∧ (Memory.wf s.mem = true → ∀ a, memGet t.mem a = if sramBase + 0x4000 ≤ a ∧ a < sramBase + 0x8000 then 0 else memGet s.mem a))
      ∧ ∀ a b c, a ≠ 0 ∨ b ≠ 0 ∨ c ≠ 0 → exec (.bringupStageComplete a b c) s = .next { s with stage := 7 })
    ∧ (s.stage = 1 → ∀ a b c, exec (.bringupStageComplete a b c) s = .next { s with stage := 2 })
    ∧ (s.stage = 2 → s.portDead = 0 → (List.range 8).countP s.stkDead.toNat.testBit ≤ 4 → ∀ stk die port,
      let ok : Prop := port % 2 ^ 8 = 0 ∧ (List.range 8).countP stk.testBit ≤ 4
      ∃ t, exec (.bringupStageComplete stk die port) s = .next t ∧ t.stkDead = BitVec.ofNat 32 (stk % 2 ^ 8)
        ∧ t.portDead = BitVec.ofNat 32 (port % 2 ^ 8) ∧ (¬ok → t.stage = 2)
        ∧ (ok → t.stage = 3 ∧ t.dieDead = BitVec.ofNat 32 (die % 2 ^ 4)
          ∧ (∀ (i : Nat) d, s.dies[i]? = some d →
            (die.testBit i = true ∨ d.dead = true → t.dies[i]? = some { d with dead := true })
            ∧ (die.testBit i = false → d.dead = false → ∃ ks, t.dies[i]? = some ({ d with clusters := ks } : Die).retarget
              ∧ ks.length = d.clusters.length
              ∧ ∀ (n : Nat) k, d.clusters[n]? = some k → ∃ drift, ks[n]? = some { k with
                drift := min drift 0xFFFF, cap := min 7 (drift / 500)
                failed := k.gated || decide (4000 ≤ drift), gated := k.gated || decide (4000 ≤ drift)
                checked := s.ioCycle / 2 ^ 36 }))
          ∧ (∀ (i : Nat) l, s.links[i]? = some l → ∃ l', t.links[i]? = some l'
            ∧ l'.state = if i < 4 ∧ die.testBit i = true then 4 else if l.state = 0 then 2 else l.state)
          ∧ (∀ p < 8, stk.testBit p = false → t.stackMap[p]? = some (false, p))
          ∧ (∀ p < 8, stk.testBit p = true → ∃ q < 8, t.stackMap[p]? = some (true, q) ∧ stk.testBit q = false)
          ∧ ∀ p < 8, ∀ q < 8, ∀ b, t.stackMap[p]? = some (true, b) → t.stackMap[q]? = some (true, b) → p = q))
    ∧ (∀ (b : Fin 3) v, hashOk (s.homeHash.set b.val (BitVec.ofNat 64 (v.toNat % 2 ^ 36))) = true →
      (∀ c ∈ s.ctxs, c.live = false) → exec (.registerWrite (.homehash b) v) s
        = .next { s with homeHash := s.homeHash.set b.val (BitVec.ofNat 64 (v.toNat % 2 ^ 36)) })
    ∧ (∀ die v, exec (.registerWrite (.cecount die) v) s
        = .next { s with dies := s.dies.modify die fun d => { d with ce := v.setWidth 32 } })
    ∧ ∀ v, exec (.registerWrite .readOnly v) s = .next s

/-! ### The host -/

/-- Commands are consumed in ring order and completed with SIGVAL at SIGVA, when they succeed and name one, and then a completion entry
of Table 17.8 (R247, R249, R250, R255); the checks come in the order DENIED, BADCMD, BADARG (R249, R251); then queue pairs, contexts, pages (R103, R112, R211,
R228, R247, R251, Table 17.9). That the handle is the ASID, and which cases are BADARG, is the model's (log 15, log 16). -/
def Obligations.CommandsOfContexts : Prop :=
  (∀ (s : State) r st r0 r1,
    (r.src = .mgmt →
      ((st ≠ 0 ∨ r.sigva = 0) → s.complete r st r0 r1 = { s with out := s.out ++ [.mgmt r.tag st r0 r1] })
      ∧ ∀ x, st = 0 → r.sigva ≠ 0 → (r.ctx = 0 ∨ ∃ c, s.goodCtx r.ctx = some c) → s.fwHeld = [] → r.sigva % 2 ^ 16 + 8 ≤ 2 ^ 16 →
        s.rangeHeld (s.asidOfCtx r.ctx) r.sigva 8 true = false → s.plainAt (s.asidOfCtx r.ctx) r.sigva x → x.w = true →
        x.dset = true → let u := s.complete r st r0 r1
        u.mem = memPutBytes s.mem (x.paOf r.sigva) (leBytes 8 r.sigval) ∧ u.out = s.out ++ [.mgmt r.tag st r0 r1])
    ∧ ∀ qid q h m, r.src = .queue qid → s.queue? qid = some q → q.pend = [⟨r.tag, h, none, r.slot⟩] →
      (q.cidx + 1) % 2 ^ q.n ≠ q.chead → (∀ x ∈ s.queues, x.deleting = none) → s.fwHeld = [] →
      let va := q.cq + 64 * q.cidx
      va % 64 = 0 → s.plainAt (s.asidOfCtx q.space) va m → m.w = true → m.dset = true →
      let u := s.complete r st r0 r1
      let entry := leBytes 8 (st * 2 ^ 32 + r.tag) ++ leBytes 8 r0.toNat ++ leBytes 8 r1.toNat
          ++ leBytes 8 (q.phase.toNat * 2 ^ 16 + h) ++ List.replicate 32 0
      u.queue? qid = some { q with
          pend := [], cidx := (q.cidx + 1) % 2 ^ q.n, phase := if (q.cidx + 1) % 2 ^ q.n = 0 then !q.phase else q.phase }
        ∧ ((st ≠ 0 ∨ r.sigva = 0) → u.mem = memPutBytes s.mem (m.paOf va) entry)
        ∧ ∀ x, st = 0 → r.sigva ≠ 0 → (r.ctx = 0 ∨ ∃ c, s.goodCtx r.ctx = some c) → r.sigva % 2 ^ 16 + 8 ≤ 2 ^ 16 →
          s.rangeHeld (s.asidOfCtx r.ctx) r.sigva 8 true = false → s.plainAt (s.asidOfCtx r.ctx) r.sigva x → x.w = true →
          x.dset = true → u.mem = memPutBytes (memPutBytes s.mem (x.paOf r.sigva) (leBytes 8 r.sigval)) (m.paOf va) entry)
  ∧ ∀ s m,
    let t := s.consumeCmd m
    (∀ qid q, m.src = .queue qid → s.queue? qid = some q → t.queue? qid = some { q with
      head := (q.head + 1) % 2 ^ q.n
      pend := q.pend ++ [⟨m.tag, (q.head + 1) % 2 ^ q.n, none, q.nextSlot⟩]
      nextSlot := q.nextSlot + 1 })
    ∧ (∀ i, (i = .unknownCommand m ∧ (m.opc, m.sub) ∉ knownCmds) ∨ (i = .setroot m ∧ m.opc = 4 ∧ m.sub = 0) →
      s.submitted m = true → s.stage = 1 ∨ s.stage = 2 ∨ (s.stage = 3 ∧ s.behind m = true) → exec i s = .next { s with
        mgmtQ := if m.src = .mgmt ∧ s.mgmtQ.head? ≠ some m then s.mgmtQ ++ [m] else s.mgmtQ })
    ∧ ((m.opc, m.sub) ∉ knownCmds → s.stage = 3 → s.behind m = false → s.submitted m = true →
      Answers (.unknownCommand m) m s t 1 0 0)
    ∧ (m.opc = 4 → m.sub = 0 → s.stage = 3 → s.behind m = false → s.submitted m = true →
      (rootSource m.src = false → Answers (.setroot m) m s t 2 0 0)
      ∧ (rootSource m.src = true →
        (m.resv ≠ 0 ∨ m.w4 % 2 ^ 8 ≠ 0 ∨ 2 ^ 46 ≤ m.w4 ∨ m.w5 ≠ 0 ∨ m.w6 ≠ 0 ∨ m.w7 ≠ 0 → Answers (.setroot m) m s t 1 0 0)
        ∧ (m.resv = 0 → m.w4 % 2 ^ 8 = 0 → m.w4 < 2 ^ 46 → m.w5 = 0 → m.w6 = 0 → m.w7 = 0 →
          (m.scope < 3 ∨ 5 < m.scope ∨ s.goodCtx m.ctx = none) → Answers (.setroot m) m s t 3 0 0)))
    ∧ (∀ c, Served m 4 0 true false s → m.w4 % 2 ^ 8 = 0 → m.w4 < 2 ^ 46 → m.w5 = 0 → m.w6 = 0 → m.w7 = 0 →
      s.goodCtx m.ctx = some c → ∃ u : State, Answers (.setroot m) m s u 0 0 0
        ∧ u.ctxs = (ctxsWith s.ctxs m.ctx fun c => { c with root := m.w4 })
        ∧ u.colonies = s.colonies ∧ u.swarms = s.swarms ∧ u.fields = s.fields
        ∧ ∀ p ∈ u.ports, ∀ x ∈ p.maps, x.unit < 2 ^ 36 → x.asid ≠ c.asid ∧ x.asid ≠ 0xFFFF)
    ∧ (Served m 5 0 false false s → m.w4 < 2 ^ 52 → m.w4 % 8 = 0 → m.w5 = 0 → m.w6 = 0 → m.w7 = 0 →
      (s.goodCtx m.ctx).isSome = true → Answers (.settvec m) m s
        { t with ctxs := ctxsWith s.ctxs m.ctx fun c => { c with tvec := BitVec.ofNat 52 m.w4 } } 0 0 0)
    ∧ (Served m 2 0 true false s → m.ctx = 0 → m.w4 % 2 ^ 8 = 0 → m.w4 < 2 ^ 56 → m.w5 / 2 % 2 ^ 15 = 0 → m.w5 < 2 ^ 52 →
      m.w6 < 2 ^ 52 → m.w7 < 2 ^ 52 → m.w7 % 2 ^ 16 ≠ 0 →
      (s.freeAsid (min 65534 (s.ctxs.length + 1)) 1 = none → Answers (.ctxcreate m) m s t 4 0 0)
      ∧ ∀ a, s.freeAsid (min 65534 (s.ctxs.length + 1)) 1 = some a →
        (∀ c ∈ s.ctxs, c.live = true → c.asid ≠ a) ∧ Answers (.ctxcreate m) m s { t with
          ctxs := s.ctxs.filter (fun c => c.live) ++ [{
            handle := a, asid := a, root := m.w4 / 2 ^ 8 % 2 ^ 38 * 2 ^ 8, pager := m.w4 / 2 ^ 46 % 2 ^ 10
            check := decide (m.w5 % 2 = 1), selfVa := m.w5 / 2 ^ 16 % 2 ^ 36 * 2 ^ 16
            saveBase := m.w6 / 2 ^ 16 % 2 ^ 36 * 2 ^ 16, saveSize := m.w6 % 2 ^ 16 * 2 ^ 16
            privBase := m.w7 / 2 ^ 16 % 2 ^ 36 * 2 ^ 16, privSize := m.w7 % 2 ^ 16 * 2 ^ 20
            tvec := 0, vdies := s.vdieTable, fault := none, live := true }] } 0 (a * 2 ^ 16 + a) 0)
    ∧ (∀ c, Served m 3 0 true false s → m.w4 = 0 → m.w5 = 0 → m.w6 = 0 → m.w7 = 0 → s.ctx? m.ctx = some c →
      ∃ u, Answers (.ctxdestroy m) m s u 0 0 0 ∧ u.ctx? m.ctx = none
        ∧ ∀ (j : Nat) (x : Colony), s.colonies[j]? = some x → s.colCtx j = m.ctx →
          ∃ y, u.colonies[j]? = some y ∧ y.status = .retired)
    ∧ (let qid := m.w4 % 2 ^ 16
      let n := m.w4 / 2 ^ 16 % 2 ^ 5
      Served m 1 0 false true s → m.w4 < 2 ^ 21 → m.w7 < 2 ^ 16 → 1 ≤ qid → qid ≤ 1023 → 4 ≤ n → n ≤ 16 →
      m.w5 < 2 ^ 52 → m.w5 % (64 * 2 ^ n) = 0 → m.w6 < 2 ^ 52 → m.w6 % (64 * 2 ^ n) = 0 →
      (m.ctx = 0 ∨ (s.goodCtx m.ctx).isSome = true) → (m.w7 = 0 ∨ (s.goodCtx m.w7).isSome = true) → s.queue? qid = none →
      (m.ctx = 0 → 0xFC0000000 ≤ m.w5 ∧ m.w5 + 64 * 2 ^ n ≤ 0xFC0100000 ∧ 0xFC0000000 ≤ m.w6
        ∧ m.w6 + 64 * 2 ^ n ≤ 0xFC0100000) →
      ∃ u, Answers (.qcreate m) m s u 0 0 0
        ∧ ⟨qid, n, m.w5, m.w6, m.w7, m.ctx, 0, 0, 0, 0, true, [], 0, none⟩ ∈ u.queues)
    ∧ (∀ q, Served m 1 1 false false s → m.w4 < 2 ^ 16 → m.w4 ≠ 0 → m.w5 = 0 → m.w6 = 0 → m.w7 = 0 →
      s.queue? m.w4 = some q →
      (q.deleting ≠ none → Answers (.qdelete m) m s t 4 0 0)
      ∧ (q.deleting = none → ∃ u, exec (.qdelete m) s = .next (settle u)
        ∧ (q.pend = [] → m.src ≠ .queue m.w4 → (∀ x ∈ s.queues, x.deleting = none) →
          m.sigva = 0 ∨ (s.fwHeld = [] ∧ s.rangeHeld (s.asidOfCtx m.ctx) m.sigva 8 true = false) → u.queue? m.w4 = none)))
    ∧ (∀ c, Served m 0x14 0 false false s → m.w5 < 4 → m.w6 < 2 ^ 56 → m.w7 = 0 → s.goodCtx m.ctx = some c →
      m.src = .queue c.pager → Answers (.pagereq m) m s t 0 m.w4 (m.w6 + m.w5 * 2 ^ 56))
    ∧ ∀ c, Served m 8 0 false false s → m.w4 < 2 ^ 52 → m.w4 % 2 ^ 16 = 0 → m.w5 < 2 → m.w6 = 0 → m.w7 = 0 →
      s.goodCtx m.ctx = some c →
      ((∀ x a, t.walkAny c.asid m.w4 ≠ .ok x a) → Answers (.drain m) m s t 5 0 0)
      ∧ ∀ x a p, t.walkAny c.asid m.w4 = .ok x a → s.ports[s.home m.w4]? = some p →
        ∃ u done gone, Answers (.drain m) m s u 0 done gone
          ∧ done + gone = p.bounce.countP (t.drains c.asid m.w4 (m.w5 == 1))

/-- LOADK (R281, R282), LAUNCH as a command (R190, R191, R255), and the commands of power, memory, tables
and firmware (R119, R195, R236-R238, R242, R246, R253, R258, R260, Table 17.9) with their effects and results: a REQ other than PK
unparks a parked die, whose link wakes. The order of LOADK's checks and what a patch image holds are the model's (log 17, log 20); so
are what a refused park completes with (log 27) and that frames a CARVE gives back read as 0 (log 29). -/
def Obligations.CommandsOfTheDevice : Prop :=
  ∀ s m,
    let t := s.consumeCmd m
    (∀ c s0 s1 secs s2 ws, Served m 6 0 false false s → m.w4 < 2 ^ 52 → m.w5 < 2 ^ 52 → m.w7 < 2 ^ 52 → loadHold m s = none →
      s.goodCtx m.ctx = some c → t.fwWords c.asid m.w7 5 = (s0, some secs) →
      State.relocateAll c.asid secs m.w6 m.w5 s0 = some s1 → s1.fwWords c.asid m.w4 8 = (s2, some ws) →
      let n := s2.loadCheck c.asid secs ws m.w4
      (descFieldsOk ws = false → n = 1)
      ∧ (n ≠ 0 → Answers (.loadk m) m s t 3 n 0)
      ∧ (n = 0 → ∃ ls, Answers (.loadk m) m s { s2 with loaded := ls } 0 0 0
        ∧ ∀ x, x ∈ ls ↔ x = ⟨m.ctx, m.w4, descOfWords ws⟩ ∨ (x ∈ s2.loaded ∧ ¬(x.ctx = m.ctx ∧ x.va = m.w4))))
    ∧ (∀ c v, Served m 7 0 false false s → m.w4 < 2 ^ 52 → m.w4 % 64 = 0 → m.w5 = 0 → m.w6 = 0 → m.w7 = 0 →
      s.goodCtx m.ctx = some c → s.newResvs.examined c m.w4 none = .ok v → t.newResvs.examined c m.w4 none = .ok v →
      (∀ st, v = .reject st → ∃ u, Answers (.launchCommand m) m s u 0 st 0)
      ∧ (∀ d n sps b sv used, v = .accept d n sps b sv used → ∃ u f, exec (.launchCommand m) s = .next (settle u)
        ∧ u.fields[s.fields.length]? = some f ∧ f.recVa = m.w4 ∧ f.desc = d ∧ f.colonies = n
        ∧ f.host = some (s.refOf m) ∧ u.colonies.length = s.colonies.length + n)
      ∧ ∀ js, v = .hold js → ∃ u, exec (.launchCommand m) s = .next u ∧ u.queues = s.queues
        ∧ ∀ (k : Nat) (x : Colony), s.newResvs.colonies[k]? = some x → ∃ y, u.colonies[k]? = some y ∧ (y.lent = true ↔ k ∈ js
          ∨ (x.lent = true ∧ (x.toldBy = some (.command m.src) → s.newResvs.lentTo (k, x.lendNo) = true))))
    ∧ (∀ d, Served m 9 0 false true s → m.ctx = 0 → m.w4 < 4 → m.w5 ≤ 8 → m.w6 = 0 → m.w7 = 0 →
      s.dies[m.w4]? = some d → d.dead = false → d.parking = false → d.cur ≠ 8 →
      (m.w5 < 8 → let d' := ({ d with req := m.w5, pkst := 0 } : Die).retarget
        Answers (.pstate m) m s { t with dies := s.dies.set m.w4 d' } 0 d'.pstate 0)
      ∧ (m.w5 = 8 → d.trans.isSome = true ∨ d.waking = true →
        let d' := { d with req := 8, oldReq := if d.req = 8 then d.oldReq else d.req }
        Answers (.pstate m) m s { t with dies := s.dies.set m.w4 d' } 0 d'.pstate 0)
      ∧ (m.w5 = 8 → d.trans = none → d.waking = false →
        (t.parkCheck m.w4 = none → let d' := ({ d with pkst := 2 } : Die).retarget
          Answers (.pstate m) m s { t with dies := s.dies.set m.w4 d' } 0 d'.pstate 0)
        ∧ (∀ s1, t.parkCheck m.w4 = some s1 → ∃ (u : State) (d' : Die), Answers (.pstate m) m s u 0 d'.pstate 0
          ∧ u.dies[m.w4]? = some d' ∧ d'.parking = true ∧ d'.busy = true ∧ d'.req = 8 ∧ u.ctxs = entriesMoved m.w4 1 2 s1.ctxs
          ∧ ∀ j ∈ s1.runningOn m.w4, ∀ x, s1.colonies[j]? = some x → u.colonies[j]? = some { x with stop := some .park })
        ∧ ((∀ (i : Nat) x, s.dies[i]? = some x → i ≠ m.w4 → x.unparked = false ∨ x.parking = true) →
          t.parkCheck m.w4 = none)))
    ∧ (∀ d l, Served m 9 0 false true s → m.ctx = 0 → m.w4 < 4 → m.w5 ≤ 8 → m.w6 = 0 → m.w7 = 0 →
      s.dies[m.w4]? = some d → d.dead = false → d.parking = false → d.cur = 8 → s.links[m.w4]? = some l →
      (m.w5 < 8 → let d' : Die := { d with req := m.w5, cur := 7, pkst := 0, busy := false, waking := true }
        Answers (.pstate m) m s { t with
          dies := s.dies.set m.w4 d'
          links := s.links.set m.w4 { l with state := 1, doze := false, since := l.refCycle, asked := none } } 0 d'.pstate 0)
      ∧ (m.w5 = 8 → let d' : Die := { d with req := 8 }
        Answers (.pstate m) m s { t with dies := s.dies.set m.w4 d' } 0 d'.pstate 0))
    ∧ (∀ d, Served m 9 0 false true s → m.ctx = 0 → m.w4 < 4 → m.w5 ≤ 8 → m.w6 = 0 → m.w7 = 0 →
      s.dies[m.w4]? = some d → d.dead = false → d.parking = true → let d' : Die := { d with req := m.w5 }
      Answers (.pstate m) m s { t with dies := s.dies.set m.w4 d' } 0 d'.pstate 0)
    ∧ (Served m 0xA 0 true true s → m.ctx = 0 → 50 ≤ m.w4 → m.w4 ≤ 220 → m.w5 = 0 → m.w6 = 0 → m.w7 = 0 →
      Answers (.setcap m) m s { t with
        pwrCap := m.w4
        pwrHist := (s.ioCycle, m.w4) :: recentCaps s.ioCycle s.pwrHist } 0 0 0)
    ∧ (∀ q, Served m 0xB 0 true false s → m.ctx = 0 → m.w4 < 8 → m.w5 ≤ 6 → m.w6 = 0 → m.w7 = 0 →
      s.ports[m.w4]? = some q →
      (q.carveTo ≠ none → Answers (.carve m) m s t 4 0 0)
      ∧ (q.carveTo = none → exec (.carve m) s = .next (settle { t with
          ports := s.ports.set m.w4 { q with carveTo := some m.w5, carveCmd := some (s.refOf m) } })))
    ∧ (∀ port q n r, s.ports[port]? = some q → q.carveTo = some n → q.carveCmd = some r → Memory.wf s.mem = true →
      ∃ mem, exec (.carveComplete port) s = .next (({ s with
          ports := s.ports.set port { q with carve := n, carveTo := none, carveCmd := none }, mem := mem } : State).complete
            r 0 0 0)
        ∧ let base := 2 ^ 44 + port * 2 ^ 36
          ∀ a, memGet mem a = if base + n * 2 ^ 25 ≤ a ∧ a < base + q.carve * 2 ^ 25 then 0 else memGet s.mem a)
    ∧ (∀ c, Served m 0xB 1 true false s → m.ctx = 0 → m.w4 < 8 → m.w5 < 2 ^ 16 → s.goodCtx m.w5 = some c →
      m.w6 ≤ 262144 → m.w7 = 0 → Answers (.tquota m) m s { t with
        ports := s.ports.modify m.w4 fun p => { p with quotas := spPut 0 p.quotas c.asid m.w6 } } 0 0 0)
    ∧ (m.ctx = 0 ∨ (s.goodCtx m.ctx).isSome = true →
      (∀ s1 ws, Served m 0xC 0 false false s → m.w4 < 2 ^ 8 → m.w5 < 2 ^ 52 → m.w6 = 0 → m.w7 = 0 →
        s.rangeHeld (s.asidOfCtx m.ctx) m.w5 24 false = false → t.fwWords (t.asidOfCtx m.ctx) m.w5 3 = (s1, some ws) →
        (s1.svcOf ws = none → Answers (.svcreg m) m s s1 3 0 0)
        ∧ ∀ v, s1.svcOf ws = some v → Answers (.svcreg m) m s { s1 with svcs := s1.svcs.set m.w4 v } 0 0 0)
      ∧ (∀ v, Served m 0xC 1 false false s → m.w4 < 2 ^ 8 → m.w5 = 0 → m.w6 = 0 → m.w7 = 0 → s.svcs[m.w4]? = some v →
        Answers (.svcdel m) m s { t with svcs := s.svcs.set m.w4 Svc.reset } 0 v.miss 0)
      ∧ (Served m 0xF 0 true true s → m.w4 ≤ 0x7FE → m.w6 = 0 → m.w7 = 0 →
        (m.w5 = 0 → Answers (.peerset m) m s { t with peers := s.peers.filter fun p => p.1 != m.w4 } 0 0 0)
        ∧ ∀ s1 ws p, m.w5 ≠ 0 → m.w5 < 2 ^ 52 → s.rangeHeld (s.asidOfCtx m.ctx) m.w5 64 false = false → t.fwWords (t.asidOfCtx m.ctx) m.w5 8 = (s1, some ws) → peerOf ws = some p →
          ws.getD 0 0 % 2 = 1 → ∃ u, Answers (.peerset m) m s u 0 0 0 ∧ u.peerOf? m.w4 = some p)
      ∧ (Served m 0x11 0 true true s → m.w4 < 2 ^ 52 → m.w6 = 0 → m.w7 = 0 →
        ∃ u, Answers (.attest m) m s u 0 (min 4096 Config.attestLen) 0)
      ∧ (∀ s1 bs, Served m 0x12 0 false false s → m.w4 + m.w5 ≤ 2 ^ 52 → m.w4 < 2 ^ 52 → m.w6 = 0 → m.w7 = 0 →
        s.rangeHeld (s.asidOfCtx m.ctx) m.w4 m.w5 false = false → t.fwRead (t.asidOfCtx m.ctx) m.w4 m.w5 = (s1, some bs) →
        (∀ l, Config.patchLevel bs = some l → s1.patch < l → Answers (.patch m) m s { s1 with patch := l } 0 l 0)
        ∧ ((∀ l, Config.patchLevel bs = some l → l ≤ s1.patch) → Answers (.patch m) m s s1 5 0 0))
      ∧ (∀ port p, Served m 0x13 0 false true s → port < 8 → m.w4 = 16 * port → m.w5 < 2 ^ 52 → m.w7 = 0 →
        s.ports[port]? = some p →
        ∃ u, Answers (.logread m) m s u 0 (min (m.w6 / 64) p.flog.length) p.flogOver))
    ∧ (Served m 0x15 0 true false s → m.ctx = 0 → m.w4 ≠ 0 → m.w4 < 64 → m.w5 < 2 ^ 52 → m.w5 / 2 ^ 18 % 2 ^ 12 = 0 →
      m.w6 = 0 → m.w7 = 0 → Answers (.aperture m) m s
        { t with apertures := s.apertures.set m.w4 (BitVec.ofNat 64 m.w5) } 0 0 0)

/-! ### The fabric -/

/-- Collectives and storage: REDUCE and COLLRESET (R261, R264), a contributor's source (R263), contributions, aborts and
timeouts (R262, R263), STORIO and its completion (R266). A reduction that commits adds the contributions, combined in ascending
rank, into its destination. A failure writes bit 63 and the number into the collective
timeline and ends the command FAILED. The frames' conventions are the model's (log 58, log 59, log 60). -/
def Obligations.ReductionsAndStorage : Prop :=
  (∀ s m c j, Served m 0xD 0 false false s ∨ Served m 0xE 0 false false s → s.goodCtx m.ctx = some c →
    s.collColony m = some j → m.w4 < 2 ^ 50 →
    let t := s.consumeCmd m
    let k := m.w4 / 2 ^ 48 % 4
    (m.opc = 0xE → m.w5 = 0 → m.w6 = 0 → m.w7 = 0 →
      let v := (s.collValue j k).toNat % 2 ^ 63
      Answers (.collreset m) m s { t with colonies := s.colonies.modify j fun c =>
        { c with collTl := c.collTl.set k (BitVec.ofNat 64 v) } } 0 v 0)
    ∧ (m.opc = 0xD → m.w5 < 2 ^ 52 → m.w6 / 2 % 8 ≤ 5 → (m.w6 / 2 % 8 = 5 → m.w6 % 2 = 0) → m.w6 / 2 ^ 13 % 2 ^ 3 = 0 →
      m.w6 / 2 ^ 16 % 2 ^ 16 ≤ 1000 →
      (m.w6 / 2 ^ 4 % 2 = 1 → m.w7 ≤ 0x7FE → (s.collValue j k).getLsbD 63 = true → Answers (.reduce m) m s t 4 0 0)
      ∧ (m.w6 / 2 ^ 4 % 2 = 1 → m.w7 ≤ 0x7FE → (s.collValue j k).getLsbD 63 = false →
        ∃ u r, exec (.reduce m) s = .next (settle u) ∧ u.reducs = s.reducs ++ [r] ∧ r.role = 1 ∧ r.peers = [m.w7]
          ∧ r.colony = j ∧ r.cctx = k ∧ r.ctag = m.tag ∧ r.va = m.w5 ∧ r.count = m.w6 / 2 ^ 32 % 2 ^ 32 ∧ r.sent = false
          ∧ ∀ x, s.colonies[j]? = some x → r.number = x.collIssued.getD k 0 + 1)
      ∧ ∀ s1 bs, m.w6 / 2 ^ 4 % 2 = 0 → m.w7 < 2 ^ 52 → (s.collValue j k).getLsbD 63 = false →
        s.rangeHeld (s.asidOfCtx m.ctx) m.w7 (2 * (m.w6 / 2 ^ 5 % 2 ^ 8 + 1)) false = false →
        t.fwRead c.asid m.w7 (2 * (m.w6 / 2 ^ 5 % 2 ^ 8 + 1)) = (s1, some bs) →
        ∃ u r, exec (.reduce m) s = .next (settle u) ∧ u.reducs = s1.reducs ++ [r] ∧ r.role = 0 ∧ r.colony = j
          ∧ r.ctag = m.tag ∧ r.peers = peerList (m.w6 / 2 ^ 5 % 2 ^ 8 + 1) bs))
  ∧ (∀ (s : State) i r col,
      ((∃ n, i = .reduceTimeout n ∧ s.reducs.find? (fun r => r.num == n && r.role == 0 && decide (r.since + r.limit ≤ s.ioCycle)) = some r)
      ∨ (∃ n, i = .reduceContributorTimeout n ∧ s.reducs.find? (fun r => r.num == n && r.role == 1 && decide (r.since + r.limit ≤ s.ioCycle)) = some r)
      ∨ (∃ p e, i = .torjorReduceAbort p ∧ pktIs p 8 = true ∧ s.sender p = some e ∧ s.reducFrom 0 p = some r)
      ∨ (∃ p e, i = .torjorReduceAbort p ∧ pktIs p 8 = true ∧ s.sender p = some e ∧ s.reducFrom 0 p = none
        ∧ s.reducFrom 1 p = some r)) →
      s.colonies[r.colony]? = some col → r.cctx < col.collTl.length →
      ∃ (u : State) (c' : Colony), exec i s = .next (settle (u.complete r.host 5 (BitVec.ofNat 64 (2 ^ 63 + r.number)) 0))
        ∧ u.reducs = s.reducs.filter (fun x => x.num != r.num)
        ∧ u.colonies[r.colony]? = some c' ∧ c'.collTl[r.cctx]? = some (BitVec.ofNat 64 (2 ^ 63 + r.number))
        ∧ (r.role = 0 → (∃ n, i = .reduceTimeout n) ∨ (∃ p, i = .torjorReduceAbort p ∧ s.reducFrom 0 p = some r) →
          ∀ x ∈ r.peers, (s.peerOf? x).isSome = true → u.hasTold x 8 r.ctag))
  ∧ (∀ (s : State) n r, s.reducs.find? (fun r => r.num == n && r.role == 1 && !r.sent) = some r →
      s.rangeHeld r.asid r.va r.size false = false →
      let x := sourceRun r.asid r.va r.size s
      ∀ d e, r.peers = [d] → x.s.peerOf? d = some e → x.bytes.length ≤ 9088 →
      (x.poison = false → x.nonres = [] → x.faults = [] →
        ∃ u psn, exec (.reduceSourceRead n) s = .next (settle u) ∧ u.out = x.s.out ++ [frameTo e d 7 psn 0 r.ctag x.bytes]
          ∧ ∀ q ∈ u.reducs, q.num = n → q.frames = [(psn, 0, x.bytes)])
      ∧ (x.poison = false → (x.nonres ≠ [] ∨ x.faults ≠ []) →
        ∃ u : State, exec (.reduceSourceRead n) s = .next (settle u) ∧ u.hasTold d 8 r.ctag)
      ∧ (x.poison = true →
        ∃ u : State, exec (.reduceSourceRead n) s = .next (settle (u.consume r.colony)) ∧ u.hasTold d 8 r.ctag))
  ∧ (∀ (s : State) p, pktIs p 7 = true → p.payload.length = p.len →
      (s.reducs.find? (fun r => r.role == 0 && r.ctag == p.ctag) = none → exec (.torjorReduceContribution p) s = .next s)
      ∧ ∀ r, s.reducs.find? (fun r => r.role == 0 && r.ctag == p.ctag) = some r →
        ((s.sender p = none ∨ p.peer ∉ r.peers) →
          ∃ u : State, exec (.torjorReduceContribution p) s = .next u ∧ u.reducs = s.reducs ∧ u.out = s.out)
        ∧ ∀ e, s.sender p = some e → p.peer ∈ r.peers →
          ((r.gather p).complete = false → exec (.torjorReduceContribution p) s = .next { s with
            reducs := s.reducs.map fun q => if q.num == r.num then r.gather p else q })
          ∧ ((r.gather p).complete = true → s.sendsOk r.asid [r.sends] = true →
            ∃ (u : State) (v : W64), exec (.torjorReduceContribution p) s = .next (settle (u.complete r.host 0 v 0))
              ∧ (∀ x ∈ u.reducs, x.num ≠ r.num)
              ∧ ∀ pa : Nat → Nat,
                let z := if r.wide then 8 else 4
                let sums := (List.range r.count).map fun k => BitVec.ofNat 64 ((r.gather p).sum k)
                let after := fun n => (atomRun (reduceOp r.op) r.wide pa sums [] (List.range n) s.mem).1
                (reduceOp r.op = .addF32 → r.wide = false) →
                (∀ k < r.count, (r.va + k * z) % 2 ^ 16 + z ≤ 2 ^ 16 ∧ ∃ m, s.plainAt r.asid (r.va + k * z) m ∧ m.w = true
                  ∧ m.dset = true ∧ pa k = m.paOf (r.va + k * z)
                  ∧ ∀ n ≤ r.count, ({ s with mem := after n } : State).synonym (pa k) = false) →
                u.mem = after r.count))
  ∧ (∀ s m, Served m 0x10 0 false false s → (m.ctx = 0 ∨ (s.goodCtx m.ctx).isSome = true) → m.w4 / 2 ^ 43 % 2 ^ 5 = 0 →
      m.w4 < 2 ^ 49 → m.w6 < 2 ^ 32 → m.w7 < 2 ^ 52 → (s.peerOf? (m.w4 / 2 ^ 32 % 2 ^ 11)).isSome = true →
      let t := s.consumeCmd m
      (m.w4 / 2 ^ 48 % 2 = 0 → exec (.storio m) s = .next (settle { t with
        stors := s.stors ++ [⟨s.nextStor, false, t.asidOfCtx m.ctx, m.ctx, m.w7, m.w6, s.refOf m⟩]
        nextStor := s.nextStor + 1
        out := s.out ++ [.nvme s.nextStor (m.w4 % 2 ^ 32) (m.w4 / 2 ^ 32 % 2 ^ 11) false m.w5 m.w6 []] }))
      ∧ (m.w4 / 2 ^ 48 % 2 = 1 → s.rangeHeld (s.asidOfCtx m.ctx) m.w7 (m.w6 * Config.blockSize) false = false →
        let x := sourceRun (t.asidOfCtx m.ctx) m.w7 (m.w6 * Config.blockSize) t
        (x.faults = [] → x.poison = false → ∃ u : State, exec (.storio m) s = .next (settle u) ∧ u.out = x.s.out
          ++ [.nvme x.s.nextStor (m.w4 % 2 ^ 32) (m.w4 / 2 ^ 32 % 2 ^ 11) true m.w5 m.w6 x.bytes])
        ∧ ((x.faults ≠ [] ∨ x.poison = true) → ∃ u, Answers (.storio m) m s u 5 0 0 ∧ u.out = x.s.out)))
  ∧ ∀ (s : State) id status data x, s.stors.find? (fun x => x.num == id) = some x →
      (status ≠ 0 → exec (.nvmeCompletion id status data) s = .next (settle
        (({ s with stors := s.stors.filter fun y => y.num != id } : State).complete x.host 5 (BitVec.ofNat 64 status) 0)))
      ∧ (status = 0 → x.write = true → exec (.nvmeCompletion id status data) s = .next (settle
        (({ s with stors := s.stors.filter fun y => y.num != id } : State).complete x.host 0 0 0)))
      ∧ (status = 0 → x.write = false → data.length = x.blocks * Config.blockSize →
        s.rangeHeld x.asid x.va data.length true = false →
        ∃ u : State, exec (.nvmeCompletion id status data) s = .next (settle (u.complete x.host 0 0 0))
          ∧ ∀ m, 0 < data.length → x.va % 2 ^ 16 + data.length ≤ 2 ^ 16 → s.plainAt x.asid x.va m → m.w = true →
            m.dset = true → u.mem = memPutBytes s.mem (m.paOf x.va) data)

/-- What reaches the device from outside: doorbells, BAR0 and BAR2 (R245-R248), reads of the management port (R265), HREL and remote releases (R256), and the frames of
the exported window, acknowledgements, posted stores and services (R257-R260). The frames' conventions are the model's (log 58), and so
is that an access through an aperture whose context is gone reads all ones (log 19). -/
def Obligations.OuterAccesses : Prop :=
  (∀ (s : State) p w asid va, s.windowOf p w = some (asid, va) ↔ ∃ q e, s.peers.find? (fun x => x.1 == p.peer) = some (q, e)
      ∧ e.port = p.port ∧ e.udp = p.udp ∧ e.v6 = p.v6
      ∧ (if e.v6 then e.addrHi = p.srcHi ∧ e.addrLo = p.srcLo else e.addrHi % 2 ^ 32 = p.srcHi % 2 ^ 32)
      ∧ p.addr + p.len ≤ e.wlen ∧ (w = true → e.ww = true) ∧ s.spaceOf e.wctx = some asid
      ∧ va = (e.wbase + p.addr) % 2 ^ 52)
  ∧ (∀ s : State,
    (∀ p, (pktIs p 1 = true ∨ pktIs p 2 = true) → p.payload.length = p.len →
      let i := if p.op = 1 then Instr.torjorWrite p else .torjorPostedWrite p
      (s.windowOf p true = none → ∃ u : State, exec i s = .next u ∧ u.mem = s.mem ∧ u.out = s.out ++ [answerTo p 10 []])
      ∧ ∀ asid va, s.windowOf p true = some (asid, va) →
        let first : Prop := ∀ q ∈ s.rx.takeWhile (· != p), q.peer = p.peer → q.port ≠ p.port
        (∀ m, first → s.rangeHeld asid va p.len true = false → 0 < p.len → va % 2 ^ 16 + p.len ≤ 2 ^ 16 → s.plainAt asid va m →
          m.w = true → m.dset = true → ∃ u : State, exec i s = .next (settle u)
            ∧ u.mem = memPutBytes s.mem (m.paOf va) p.payload ∧ u.out = s.out ++ [answerTo p 5 []])
        ∧ (p ∉ s.rx → (¬first ∨ s.rangeHeld asid va p.len true = true) →
          ∃ u : State, exec i s = .next u ∧ u.rx = s.rx ++ [p] ∧ u.mem = s.mem ∧ u.out = s.out))
    ∧ (∀ p, pktIs p 3 = true →
      (s.windowOf p false = none → ∃ u : State, exec (.torjorRead p) s = .next u ∧ u.out = s.out ++ [answerTo p 10 []])
      ∧ ∀ asid va m, s.windowOf p false = some (asid, va) → 0 < p.len → va % 2 ^ 16 + p.len ≤ 2 ^ 16 →
        s.openAt asid va p.len false → s.plainAt asid va m → ∃ u : State, exec (.torjorRead p) s = .next (settle u) ∧ u.mem = s.mem
          ∧ u.out = s.out ++ [answerTo p 4 (memBytes s.mem (m.paOf va) p.len)])
    ∧ (∀ p asid va m, pktIs p 9 = true → s.windowOf p true = some (asid, va) → va % 64 = 0 → s.plainAt asid va m →
      m.c = true → m.w = true → m.dset = true → Memory.wf s.mem = true →
      (∀ q ∈ s.rx.takeWhile (· != p), q.peer = p.peer → q.port ≠ p.port) →
      ∃ u : State, exec (.torjorRemoteRelease p) s = .next (settle u) ∧ u.out = s.out ++ [answerTo p 5 []]
        ∧ leNat (memBytes u.mem (m.paOf va) 8) = (leNat (memBytes s.mem (m.paOf va) 8) + 1) % 2 ^ 64)
    ∧ (∀ p, pktIs p 4 = true → exec (.torjorReadResponse p) s = .next s)
    ∧ (∀ p, p.op = 0 ∨ 10 < p.op ∨ p.ver ≠ 1 → ∃ u : State, exec (.torjorInvalidOp p) s = .next u ∧ u.out = s.out ∧ u.mem = s.mem
      ∧ ∃ e, u.ioFlog.getLast? = some e ∧ e.va = p.addr % 2 ^ 52)
    ∧ (∀ p, s.sender p = none →
      (pktIs p 5 = true → exec (.torjorAck p) s = .next s) ∧ (pktIs p 10 = true → exec (.torjorNack p) s = .next s))
    ∧ (∀ p e, s.sender p = some e → pktIs p 5 = true →
      (∀ x, s.postedOf p = some x → (∀ q ∈ s.posted, q.num < s.nextPosted) →
        ∃ u : State, exec (.torjorAck p) s = .next (settle u) ∧ ∀ q ∈ u.posted, q.num ≠ x.num)
      ∧ (s.postedOf p = none →
        (∀ r, s.reducFrom 1 p = some r → (∃ f ∈ r.frames, f.1 = p.psn) →
          ∃ (u : State) (v : W64), exec (.torjorAck p) s = .next (settle (u.complete r.host 0 v 0))
            ∧ ∀ x ∈ u.reducs, x.num ≠ r.num)
        ∧ ((∀ r, s.reducFrom 1 p = some r → ∀ f ∈ r.frames, f.1 ≠ p.psn) → exec (.torjorAck p) s = .next s)))
    ∧ (∀ i x, ((∃ p e, i = .torjorNack p ∧ pktIs p 10 = true ∧ s.sender p = some e ∧ s.postedOf p = some x)
        ∨ (∃ n, i = .postedStoreTimeout n ∧ s.posted.find? (fun q => q.num == n && decide (q.since + 1000000 ≤ s.ioCycle)) = some x)) →
      ∃ u : State, exec i s = .next u ∧ u.posted = s.posted.filter (fun q => q.num != x.num)
        ∧ (∀ c ∈ u.ctxs, c.handle = x.ctx → c.live = true → c.fault ≠ none)
        ∧ ∃ l, u.ioFlog.getLast? = some l ∧ l.va = x.va ∧ l.kind = 10 ∧ l.cause = 4)
    ∧ (∀ n x e, s.posted.find? (fun q => q.num == n) = some x → s.peerOf? x.peer = some e →
      exec (.torjorRetransmit (.posted n)) s = .next { s with out := s.out ++ [frameTo e x.peer 2 x.psn x.addr 0 x.payload] })
    ∧ (∀ n r d e, s.reducs.find? (fun q => q.num == n && q.sent && !q.frames.isEmpty) = some r → r.peers = [d] →
      s.peerOf? d = some e → exec (.torjorRetransmit (.contribution n)) s
        = .next { s with out := s.out ++ r.frames.map fun x => frameTo e d 7 x.1 x.2.1 r.ctag x.2.2 })
    ∧ (∀ p, pktIs p 6 = true → p.payload.length = p.len →
      ((∀ v ∈ s.svcs, v.svc = 0 ∨ v.svc ≠ p.addr) →
        exec (.torjorServiceRequest p) s = .next { s with out := s.out ++ [answerTo p 10 []] })
      ∧ ∀ k v, s.svcs.findIdx? (fun v => v.svc != 0 && v.svc == p.addr) = some k → s.svcs[k]? = some v →
        ((8 * v.maxw < p.len ∨ s.goodCtx v.ctx = none ∨ s.svcRoom v = false) →
          exec (.torjorServiceRequest p) s = .next { s with
            svcs := s.svcs.set k { v with miss := min (2 ^ 32 - 1) (v.miss + 1) }, out := s.out ++ [answerTo p 10 []] })
        ∧ ∀ q, p.len ≤ 8 * v.maxw → (s.goodCtx v.ctx).isSome = true → s.svcRoom v = true → s.queue? v.qid = some q →
          let r : SvcReq := ⟨k, p.peer, p.payload⟩
          (s.svcHeld v q = false → (∀ x ∈ s.svcWait, x.entry ≠ k) → exec (.torjorServiceRequest p) s
            = .next { s.queueService v q r with out := (s.queueService v q r).out ++ [answerTo p 5 []] })
          ∧ (s.svcHeld v q = true ∨ (∃ x ∈ s.svcWait, x.entry = k) → exec (.torjorServiceRequest p) s
            = .next { s with svcWait := s.svcWait ++ [r], out := s.out ++ [answerTo p 5 []] }))
    ∧ (∀ qid v, 1 ≤ s.stage → qid < 1024 →
      (s.queue? qid = none → ∃ u : State, exec (.doorbellWrite qid v) s = .next u ∧ u.qlog.getLast? = some ⟨0, qid, v⟩
        ∧ u.queues = s.queues)
      ∧ ∀ q, s.queue? qid = some q →
        ((2 ^ q.n ≤ v.toNat % 2 ^ 16 ∨ 2 ^ q.n ≤ v.toNat / 2 ^ 32 % 2 ^ 16) →
          ∃ u : State, exec (.doorbellWrite qid v) s = .next u ∧ u.qlog.getLast? = some ⟨0, qid, v⟩ ∧ u.queues = s.queues)
        ∧ (v.toNat % 2 ^ 16 < 2 ^ q.n → v.toNat / 2 ^ 32 % 2 ^ 16 < 2 ^ q.n → q.pend = [] →
          (∀ x ∈ s.queues, x.deleting = none) → exec (.doorbellWrite qid v) s = .next { s with
            queues := s.queues.map fun x => if x.qid == qid then
              { x with tail := v.toNat % 2 ^ 16, chead := v.toNat / 2 ^ 32 % 2 ^ 16 } else x }))
    ∧ (s.stage ≠ 0 →
      (∀ off n, 0 < n → off + n ≤ 2 ^ 16 → exec (.bar2Access off (.bar0 n)) s
        = .next { s with out := s.out ++ [.bar2 ((List.range n).map fun k => s.bar0Byte (off + k))] })
      ∧ (∀ k < 8, s.bar0Byte k = BitVec.ofNat 8 (s.bootstat / 2 ^ (8 * k)))
      ∧ (∀ off (bs : List Byte), off + bs.length ≤ 2 ^ 43 → ∃ u : State, exec (.bar2Access off (.hostWrite bs)) s = .next (settle u)
        ∧ u.mem = memPutBytes s.mem (3 * 2 ^ 44 + off) bs)
      ∧ ∀ off r v, ((r = .pwrstat ∧ v = s.pwrEvents * 2 ^ 16 + s.pwrMeas)
          ∨ (∃ k d, r = .pstate k ∧ s.dies[k]? = some d ∧ v = d.pstate)
          ∨ (∃ k l, r = .linkstat k ∧ s.link? k = some l ∧ v = l.waketo * 2 ^ 16 + l.doze.toNat * 8 + l.state)
          ∨ (∃ k n d c, r = .agestat k n ∧ s.dies[k]? = some d ∧ d.clusters[n]? = some c
            ∧ v = c.drift * 2 ^ 8 + c.failed.toNat * 8 + c.cap)
          ∨ (∃ k d, r = .cecount k ∧ s.dies[k]? = some d ∧ v = d.ce.toNat)
          ∨ (∃ k, r = .replay k ∧ v = (s.core (coreKey k)).replay.toNat)) →
        exec (.bar2Access off (.mgmt r)) s = .next { s with out := s.out ++ [.stat (BitVec.ofNat 64 v)] })
    ∧ ∀ off n, s.stage ≠ 0 → 0 < n → off % 4096 + n ≤ 4096 → off < 2 ^ 36 →
      let a := s.apertures.getD (off / 2 ^ 30) 0
      let va := a.toNat / 2 ^ 30 % 2 ^ 22 * 2 ^ 30 + off % 2 ^ 30
      ((a.getLsbD 0 = false ∨ s.spaceOf (a.toNat / 4 % 2 ^ 16) = none) →
        (∃ u : State, exec (.bar2Access off (.read n)) s = .next u ∧ u.out = s.out ++ [.bar2 (List.replicate n 0xFF)]
          ∧ u.mem = s.mem ∧ u.ioFlog.getLast?.map (fun l => l.kind) = some 0)
        ∧ ∀ bs : List Byte, bs.length = n → ∃ u : State, exec (.bar2Access off (.write bs)) s = .next u ∧ u.mem = s.mem
          ∧ u.ioFlog.getLast?.map (fun l => l.kind) = some 1)
      ∧ ∀ asid m, a.getLsbD 0 = true → s.spaceOf (a.toNat / 4 % 2 ^ 16) = some asid → s.plainAt asid va m →
        (s.openAt asid va n false → ∃ u : State, exec (.bar2Access off (.read n)) s = .next (settle u) ∧ u.mem = s.mem
          ∧ u.out = s.out ++ [.bar2 (memBytes s.mem (m.paOf va) n)])
        ∧ ∀ bs : List Byte, bs.length = n →
          (a.getLsbD 1 = false → ∃ u : State, exec (.bar2Access off (.write bs)) s = .next u ∧ u.mem = s.mem)
          ∧ (a.getLsbD 1 = true → s.openAt asid va n true → m.w = true → m.dset = true →
            ∃ u : State, exec (.bar2Access off (.write bs)) s = .next (settle u) ∧ u.mem = memPutBytes s.mem (m.paOf va) bs))
  ∧ ∀ s m c mr, Served m 0x16 0 false false s → s.goodCtx m.ctx = some c → m.w4 < 2 ^ 52 → m.w4 % 64 = 0 → m.w5 = 0 →
    m.w6 = 0 → m.w7 = 0 → s.plainAt c.asid m.w4 mr → mr.c = true → mr.w = true → mr.dset = true → Memory.wf s.mem = true →
    let seq := (leNat (memBytes s.mem (mr.paOf m.w4) 8) + 1) % 2 ^ 64
    ∃ u, Answers (.hrel m) m s u 0 seq 0 ∧ leNat (memBytes u.mem (mr.paOf m.w4) 8) = seq

/-! ### The machine -/

/-- Decoding and encoding agree in both directions (R284-R298): the word of a well-formed instruction decodes to it, and a
word that decodes is the word of the well-formed instruction it decodes to, so that no bit of a word is dropped. -/
def Obligations.DecodeEncodeRoundTrip : Prop :=
  (∀ i w, wellFormed i = true → encode i = some w → w < 2 ^ 64 ∧ decode w = .ok i)
  ∧ ∀ w i, w < 2 ^ 64 → decode w = .ok i → wellFormed i = true ∧ encode i = some w

/-- Words written out from the tables of spec 20 decode to their instructions (Tables 3.1, 20.1-20.11). -/
def Obligations.WordsOfTheSpec : Prop :=
  let c : Ctrl := ⟨0, 0, none⟩
  decode 0x0000F00000000000 = .ok (.nop c)
  ∧ decode 0x0000F0300000002A = .ok (.trap c 0x2A)
  ∧ decode 0x0000F20000200801 = .ok (.sadd c 2 2 1)
  ∧ decode 0x0000F401400081C0 = .ok (.kcmp c .lt (.int .s32) 0 1 (.frame 0) .zero)
  ∧ decode 0x0000F50001040000 = .ok (.save c 0 1 (.age 0))
  ∧ decode 0x0000F90100000008 = .ok (.cvt c 1 .rne .sat (.age 0) .s8 .f32)
  ∧ decode 0x0000FA1040040400 = .ok (.vst c 0 .w32 1 (.age 2) (.age 0))
  ∧ decode 0x0000FCD300100000 = .ok (.claim c 3 4 (.age 0))
  ∧ decode 0x0000FFF000000000 = .error 1
  ∧ decode 0x0000F00F00000000 = .error 2
  ∧ decode 0x0000F00000000001 = .error 3
  ∧ decode 0x0000C00000000000 = .error 4

/-- A step runs the word that is fetched (R104, R201, R205, R297, R299): the swarm whose place comes next in the clock, which
can issue and gives way to no swarm of its quarter with top priority, fetches at its pc, from the instruction cache or from
memory, and the word's instruction is executed in the state after the fetch; what begins the clock comes before it, and so do the
engines, unless it releases a tile or invalidates a barrier (Table 7.9). A word that is no instruction raises ILLOP. A wait that ends in
its place of the clock ends there (R144, R184). When nobody issues and nothing else happens, the clock passes. An event brought from
outside happens at once if it can, and in the next clock after a starvation expiry (R30; log 4), or when it is an engine's and the
engines' turn is over. Nothing runs after a root monitor failure (Table 17.7). -/
def Obligations.StepRunsTheFetchedWord : Prop :=
  (∀ s, s.stage = 7 → step s = .fault .rootMonitorFailure)
  ∧ (∀ s i r, s.stage ≠ 7 → s.inbox = i :: r →
    let s0 := { s with inbox := r }
    let s1 := if (s.clk.expired = true ∧ isExpiry i = false) ∨ (isEngine i = true ∧ s.engineTurn = false) then s0.tick else s0
    (∀ t, parts i = none → exec i s1 = .next t → step s = .next t)
    ∧ ((parts i ≠ none ∨ ∀ t, exec i s1 ≠ .next t) → step s = .next s1))
  ∧ (∀ s x, s.stage ≠ 7 → s.inbox = [] → s.clk.expired = false → s.firstEvent s.startEvents = none → s.nextPlace = some x →
    (x.cls < engineClass ∨ s.firstEvent s.engineEvents = none) →
    let j := x.sw
    let s0 := { s with cur := j }
    let after := fun (e : Env) (t : State) => { t with
      cur := s.cur, clk := { t.clk with issued := (j, e.core, e.w.quarter) :: t.clk.issued, last := some x } }
    (s.inOrderWait j = true → step s = .next { s.takeTurn j with clk := { (s.takeTurn j).clk with last := some x } })
    ∧ ∀ e, s.inOrderWait j = false → envOf s0 j = some e →
      s.canIssue j = true
      ∧ (∀ i < s.swarms.length, i ≠ j → s.sameQuarter j i = true → s.canIssue i = true → s.top? i = true → s.top? j = true)
      ∧ ∀ s1 w, s0.fetch e.core e.ctx.asid e.w.pc.toNat (s0.whoOf j e.w.pc.toNat) = (s1, .word w) →
        (∀ i t, decode w = .ok i → exec i s1 = .next t → step s = .next (after e t))
        ∧ ∀ n e1, decode w = .error n → Issues s1 e1 (looseCtrl w) {} (reportsWord w) →
          step s = .next (after e (takeTrap j ⟨1, n, 0, 0, 0, none, false⟩ e1.w.pc s1)))
  ∧ (∀ (s : State) j, s.clk.last = none → s.canIssue j = true → (∀ i < s.swarms.length, i ≠ j → s.canIssue i = false) →
    (∀ i < s.swarms.length, s.waitPlace? i = none) → ∃ x, s.nextPlace = some x ∧ x.sw = j)
  ∧ (∀ s, s.stage ≠ 7 → s.inbox = [] → s.clk.expired = false → s.firstEvent s.startEvents = none → s.nextPlace = none →
    s.firstEvent s.engineEvents = none → s.firstEvent s.events = none → step s = .next s.tick)
  ∧ ∀ (s : State) k asid va who, va % 8 = 0 →
    (∀ l, (s.core k).iline? asid va = some l → s.peek asid va 8 = some ((l.bytes.drop (va % 64)).take 8) →
      s.fetch k asid va who = (s, .word (leNat ((l.bytes.drop (va % 64)).take 8))))
    ∧ ∀ m, (s.core k).iline? asid va = none → s.plainAt asid va m → m.x = true →
      s.poisoned (m.paOf va) 8 = false → s.poisoned (m.paOf (va / 64 * 64)) 64 = false →
      s.fetch k asid va who = (s.updCore k (fun c => { c with
          icache := ⟨m.asid, va / 64, memBytes s.mem (m.paOf (va / 64 * 64)) 64⟩ :: c.icache }),
        .word (leNat (memBytes s.mem (m.paOf va) 8)))

/-- The device right after reset (R267, Tables 6.9, 14.9, 16.4, 16.7, 17.6, 17.7): nothing runs, and every register is at
the value its table gives; the invariant holds. That tiles are unowned, REPLAY 0 and the lists empty is the model's (log 9). -/
def Obligations.ResetValues : Prop :=
  State.reset.Inv ∧ State.reset.stage = 0 ∧ State.reset.mem = [] ∧ State.reset.swarms = [] ∧ State.reset.ctxs = []
    ∧ State.reset.queues = [] ∧ State.reset.pwrCap = 200 ∧ State.reset.pwrEvents = 0 ∧ State.reset.pwrMeas = 0
    ∧ State.reset.homeHash = [0x249249249, 0x492492492, 0x924924924]
    ∧ (∀ p < 8, State.reset.stackMap[p]? = some (false, p))
    ∧ (∀ d ∈ State.reset.dies, d.cur = 6 ∧ d.lim = 0 ∧ d.req = 0 ∧ d.busy = false ∧ d.pkst = 0 ∧ d.ce = 0
      ∧ ∀ c ∈ d.clusters, c.drift = 0 ∧ c.cap = 0 ∧ c.failed = false
        ∧ ∀ k ∈ c.cores, k.replay = 0 ∧ ∀ t ∈ k.tiles, t.owner = none ∧ t.token = none)
    ∧ (∀ p ∈ State.reset.ports, p.carve = 0 ∧ p.tasks = [] ∧ p.maps = [])
    ∧ State.reset.apertures[0]? = some 0xFC0000003 ∧ (∀ k < 63, State.reset.apertures[k + 1]? = some 0)
    ∧ ∀ v ∈ State.reset.svcs, v.svc = 0

/-- Every step keeps the invariant: memory in canonical form, an invertible home hash (R99), the fixed aperture 0 (Table
17.10), a power cap in its range (R238) and a stage of Table 17.7; and no instruction word changes a register that only
firmware or the root monitor writes. -/
def Obligations.StepKeepsInvariant : Prop :=
  (∀ s s', s.Inv → step s = .next s' → s'.Inv)
  ∧ ∀ i s t x, parts i = some x → exec i s = .next t → t.firm = s.firm
end

