-- ==== Sys2Proof/Laws/Issue.lean ====
section
/-! SUPPORT. What an issue does: the environment, the three ways an issue ends, the swarm it leaves, and the operand checks
that pass. -/

namespace Sys2Proof.Machine

/-- Everything an environment says about the state it was taken from. -/
theorem envOf_spec {s : State} {i : Nat} {e : Env} (h : envOf s i = some e) :
    e.s = s ∧ e.i = i ∧ s.swarms[i]? = some e.w ∧ s.colonies[e.w.colony]? = some e.col
      ∧ s.fields[e.col.field]? = some e.fld ∧ s.ctx? e.fld.ctx = some e.ctx ∧ e.col.place = some e.span
      ∧ e.col.status = .running ∧ e.w.ended = false ∧ e.core = coreAt e.span e.w.idx := by
  simp only [envOf, Option.bind_eq_bind, Option.bind_eq_some_iff] at h
  obtain ⟨w, hw, col, hcol, f, hf, cx, hcx, sp, hsp, h⟩ := h
  split at h
  · rename_i hc
    simp only [Bool.and_eq_true, decide_eq_true_eq, Bool.not_eq_true'] at hc
    simp only [Option.some.injEq] at h
    subst h
    exact ⟨rfl, rfl, hw, hcol, hf, hcx, hsp, hc.1, hc.2, rfl⟩
  · cases h

theorem Issues.s_eq {s : State} {e : Env} {c : Ctrl} {n : Need} {rep : Bool} (h : Issues s e c n rep) : e.s = s :=
  (envOf_spec h.1).1

theorem Issues.i_eq {s : State} {e : Env} {c : Ctrl} {n : Need} {rep : Bool} (h : Issues s e c n rep) : e.i = s.cur :=
  (envOf_spec h.1).2.1

theorem Issues.w_eq {s : State} {e : Env} {c : Ctrl} {n : Need} {rep : Bool} (h : Issues s e c n rep) :
    s.swarms[s.cur]? = some e.w := (envOf_spec h.1).2.2.1

/-- An instruction whose entry lets it go completes its issue. -/
theorem issueWith_go {post : State → State} {s s' : State} {e : Env} {c : Ctrl} {n : Need} {rep : Bool} {f : Env → Act}
    {op : Option (OpBody × Option Nat)} {pc : Option (BitVec 52)} (h : Issues s e c n rep) (hf : f e = .go s' op pc) :
    issueWith post c n rep f s = .next (post (finishIssue e c s' op pc)) := by
  simp [issueWith, h.1, h.2.1, h.2.2, hf]

theorem issue_go {s s' : State} {e : Env} {c : Ctrl} {n : Need} {rep : Bool} {f : Env → Act}
    {op : Option (OpBody × Option Nat)} {pc : Option (BitVec 52)} (h : Issues s e c n rep) (hf : f e = .go s' op pc) :
    issue c n rep f s = .next (finishIssue e c s' op pc) := issueWith_go h hf

/-- An instruction whose entry traps takes the trap, with none of its effects (R208). -/
theorem issueWith_trap {post : State → State} {s : State} {e : Env} {c : Ctrl} {n : Need} {rep : Bool} {f : Env → Act}
    {t : Trap} (h : Issues s e c n rep) (ht : t ≠ .ecc) (hf : f e = .trap t) :
    issueWith post c n rep f s = .next (takeTrap s.cur t e.w.pc s) := by
  simp [issueWith, h.1, h.2.1, h.2.2, hf, h.i_eq, trapAt, ht]

theorem issue_trap {s : State} {e : Env} {c : Ctrl} {n : Need} {rep : Bool} {f : Env → Act} {t : Trap}
    (h : Issues s e c n rep) (ht : t ≠ .ecc) (hf : f e = .trap t) : issue c n rep f s = .next (takeTrap s.cur t e.w.pc s) :=
  issueWith_trap h ht hf

/-- An instruction whose operands deliver an uncorrectable error: its colony consumes it (R219). -/
theorem issueWith_ecc {post : State → State} {s : State} {e : Env} {c : Ctrl} {n : Need} {rep : Bool} {f : Env → Act}
    (h : Issues s e c n rep) (hf : f e = .trap .ecc) :
    issueWith post c n rep f s = .next (s.consumeBy e.w.colony (some s.cur)) := by
  simp [issueWith, h.1, h.2.1, h.2.2, hf, h.i_eq, trapAt]

/-- Everything an issue can do: a deferred report, a trap, or its effects. -/
theorem issueWith_cases {post : State → State} {s t : State} {c : Ctrl} {n : Need} {rep : Bool} {f : Env → Act}
    (h : issueWith post c n rep f s = .next t) :
    ∃ e, envOf s s.cur = some e ∧ e.ready c n = true ∧
      ((e.reportDue c rep = true ∧ t = reportFault e)
      ∨ (e.reportDue c rep = false ∧ ∃ tr, f e = .trap tr ∧ t = trapAt e tr s)
      ∨ (e.reportDue c rep = false ∧ ∃ s' tr, f e = .trapIn s' tr ∧ t = takeTrap s.cur tr e.w.pc s')
      ∨ (e.reportDue c rep = false ∧ ∃ s' op pc, f e = .go s' op pc ∧ t = post (finishIssue e c s' op pc))) := by
  unfold issueWith at h
  split at h
  · cases h
  · rename_i e he
    have hi := (envOf_spec he).2.1
    refine ⟨e, he, ?_⟩
    split at h
    · cases h
    · rename_i hr
      have hr : e.ready c n = true := by simpa using hr
      refine ⟨hr, ?_⟩
      split at h
      · rename_i hd
        exact .inl ⟨hd, by simpa using h.symm⟩
      · rename_i hd
        have hd : e.reportDue c rep = false := by simpa using hd
        split at h
        · rename_i tr hf
          exact .inr (.inl ⟨hd, tr, hf, by simpa using h.symm⟩)
        · rename_i s' tr hf
          exact .inr (.inr (.inl ⟨hd, s', tr, hf, by rw [← hi]; simpa using h.symm⟩))
        · cases h
        · rename_i s' op pc hf
          exact .inr (.inr (.inr ⟨hd, s', op, pc, hf, by simpa using h.symm⟩))

/-- Changing the swarm at an index whose swarm is known. -/
theorem modify_eq_set {α : Type} {l : List α} {i : Nat} {x : α} (f : α → α) (h : l[i]? = some x) :
    l.modify i f = l.set i (f x) := by
  apply List.ext_getElem?
  intro j
  rw [List.getElem?_modify, List.getElem?_set]
  by_cases hij : i = j
  · subst hij
    have hlt : i < l.length := by
      rcases Nat.lt_or_ge i l.length with hl | hl
      · exact hl
      · simp [List.getElem?_eq_none hl] at h
    have hx : l[i] = x := by simpa [hlt] using h
    simp [hx, hlt]
  · simp [hij]

/-- A flag counts up by one, the others stay. -/
theorem incFlag_eq (w : Swarm) (f : Option (Fin 12)) :
    w.incFlag f = { w with flags := match f with
      | none => w.flags
      | some n => w.flags.set n.val (w.flag n.val + 1) } := by
  cases f with
  | none => rfl
  | some n =>
    simp only [Swarm.incFlag, Swarm.flag]
    congr 1
    rcases Nat.lt_or_ge n.val w.flags.length with h | h
    · rw [modify_eq_set (x := w.flags[n.val]) _ (by simp [h])]
      simp [List.getD_eq_getElem?_getD, h]
    · rw [List.modify_eq_self (by omega), List.set_eq_of_length_le (by omega)]

theorem Swarm.issued_plain (w : Swarm) (c : Ctrl) (cycle ref : Nat) (pc : Option (BitVec 52)) :
    w.issued c cycle ref none pc = w.moved cycle (pc.getD (w.pc + 8)) := rfl

theorem Env.issued_op (e : Env) (c : Ctrl) (b : OpBody) (lat : Option Nat) :
    e.w.issued c e.cycle e.s.ioCycle (some (b, lat)) none = e.launched c lat b := by
  cases h : c.setf <;> simp [Swarm.issued, incFlag_eq, Env.launched, Swarm.flag, h]

/-- The same for a swarm whose current level the issue has changed. -/
theorem Env.issued_top (e : Env) (c : Ctrl) (b : OpBody) (lat : Option Nat) (lv : Level) :
    { e.w with top := lv }.issued c e.cycle e.s.ioCycle (some (b, lat)) none = { e.launched c lat b with top := lv } := by
  cases h : c.setf <;> simp [Swarm.issued, incFlag_eq, Env.launched, Swarm.flag, h]

/-- The state after an issue whose effects change only the issuing swarm. -/
theorem finishIssue_upd {s : State} {e : Env} {c : Ctrl} {g : Swarm → Swarm} {op : Option (OpBody × Option Nat)}
    {pc : Option (BitVec 52)} (h : envOf s s.cur = some e) :
    finishIssue e c (e.s.updSwarm e.i g) op pc = s.issuedTo ((g e.w).issued c e.cycle e.s.ioCycle op pc) := by
  obtain ⟨hs, hi, hw, _⟩ := envOf_spec h
  have h1 : (s.swarms.modify s.cur g)[s.cur]? = some (g e.w) := by simp [hw]
  simp only [finishIssue, State.updSwarm, State.issuedTo, hs, hi, freshPerIssue]
  rw [modify_eq_set (x := g e.w) _ h1, modify_eq_set (x := e.w) _ hw, List.set_set]

/-- The state after an issue with no effect of its own. -/
theorem finishIssue_self {s : State} {e : Env} {c : Ctrl} {op : Option (OpBody × Option Nat)} {pc : Option (BitVec 52)}
    (h : envOf s s.cur = some e) : finishIssue e c e.s op pc = s.issuedTo (e.w.issued c e.cycle e.s.ioCycle op pc) := by
  obtain ⟨hs, hi, hw, _⟩ := envOf_spec h
  simp only [finishIssue, State.updSwarm, State.issuedTo, hs, hi, freshPerIssue]
  rw [modify_eq_set (x := e.w) _ hw]

/-! ### Operand checks -/

theorem oor_none {e : Env} {named : List Nat} {rds : List Rd} (h : ∀ n ∈ named, n < e.w.scalars.length)
    (hv : ∀ r ∈ rds, e.ageBad r = false ∧ e.frameBad r = false) : e.oor named rds = none := by
  have h1 : named.any (fun n => decide (n ≥ e.w.scalars.length)) = false := by
    simp only [List.any_eq_false, decide_eq_true_eq]
    intro n hn
    have := h n hn
    omega
  have h2 : rds.find? e.ageBad = none := by
    rw [List.find?_eq_none]; intro r hr; simp [(hv r hr).1]
  have h3 : rds.find? e.frameBad = none := by
    rw [List.find?_eq_none]; intro r hr; simp [(hv r hr).2]
  simp only [Env.oor, h1, h2, h3]
  rfl

theorem stall_none {e : Env} {rds : List Rd} (h : e.ctx.check = true → ∀ r ∈ rds, e.rdBusy r = false) :
    e.stall rds = none := by
  unfold Env.stall
  split
  · rename_i hc
    have : rds.find? e.rdBusy = none := by
      rw [List.find?_eq_none]; intro r hr; simp [h hc r hr]
    simp [this]
  · rfl

theorem ecc_none {e : Env} {rds : List Rd} (h : ∀ r ∈ rds, e.rdBad r = false) : e.ecc rds = none := by
  have : rds.any e.rdBad = false := by
    simp only [List.any_eq_false]
    intro r hr
    simp [h r hr]
  simp [Env.ecc, this]

theorem operandOk_bad {e : Env} {o : Operand} {wide : Bool} (h : e.operandOk o wide) :
    e.ageBad (.vec o wide) = false ∧ e.frameBad (.vec o wide) = false := by
  cases o <;> simp [Env.ageBad, Env.frameBad, Env.operandOk, Level.depth] at h ⊢ <;> omega

/-- The checks of classes 3 to 5 pass (R40, R41, R203). -/
theorem pre_none {e : Env} {named read : List Nat} {vs : List (Operand × Bool)} (h : e.scalarsOk named read)
    (hv : ∀ p ∈ vs, e.operandOk p.1 p.2) :
    e.pre named (read.map Rd.sc ++ vs.map fun p => .vec p.1 p.2) = none := by
  have h1 := oor_none (rds := read.map Rd.sc ++ vs.map fun p => .vec p.1 p.2) h.1 (by
    intro r hr
    simp only [List.mem_append, List.mem_map] at hr
    rcases hr with ⟨n, _, rfl⟩ | ⟨p, hp, rfl⟩
    · exact ⟨rfl, rfl⟩
    · exact operandOk_bad (hv p hp))
  have h2 := stall_none (rds := read.map Rd.sc ++ vs.map fun p => .vec p.1 p.2) (by
    intro hc r hr
    simp only [List.mem_append, List.mem_map] at hr
    rcases hr with ⟨n, hn, rfl⟩ | ⟨p, hp, rfl⟩
    · exact h.2.1 hc n hn
    · exact (hv p hp).2.1 hc)
  have h3 := ecc_none (e := e) (rds := read.map Rd.sc ++ vs.map fun p => .vec p.1 p.2) (by
    intro r hr
    simp only [List.mem_append, List.mem_map] at hr
    rcases hr with ⟨n, hn, rfl⟩ | ⟨p, hp, rfl⟩
    · simpa [Env.rdBad] using h.2.2 n hn
    · exact (hv p hp).2.2)
  simp [Env.pre, h1, h2, h3]

/-- The checks of classes 3 to 5 pass when each read passes. -/
theorem pre_ok {e : Env} {named : List Nat} {rds : List Rd} (h1 : ∀ n ∈ named, n < e.w.scalars.length)
    (h2 : ∀ r ∈ rds, e.ageBad r = false ∧ e.frameBad r = false) (h3 : e.ctx.check = true → ∀ r ∈ rds, e.rdBusy r = false)
    (h4 : ∀ r ∈ rds, e.rdBad r = false) : e.pre named rds = none := by
  simp [Env.pre, oor_none h1 h2, stall_none h3, ecc_none h4]

@[simp] theorem orTrap_none (k : Unit → Act) : orTrap none k = k () := rfl
@[simp] theorem orTrap_some (t : Trap) (k : Unit → Act) : orTrap (some t) k = .trap t := rfl
@[simp] theorem check_false (t : Trap) : check false t = none := rfl
@[simp] theorem check_true (t : Trap) : check true t = some t := rfl
@[simp] theorem firstTrap_nil : firstTrap [] = none := rfl
@[simp] theorem firstTrap_none (r : List (Option Trap)) : firstTrap (none :: r) = firstTrap r := rfl
@[simp] theorem firstTrap_some (t : Trap) (r : List (Option Trap)) : firstTrap (some t :: r) = some t := rfl

end Sys2Proof.Machine
end

