-- ==== Sys2Proof/Laws/Lanes.lean ====
section
/-! SUPPORT. Lanes and masks, lane by lane. -/

namespace Sys2Proof.Machine

/-- The lanes of a mask built from a test. -/
theorem has_maskOf (p : Nat → Bool) (l : Nat) (h : l < 64) : has (maskOf p) l = p l := by
  have key : ∀ (ls : List Nat) (hls : ∀ x ∈ ls, x < 64), has (ls.foldr (fun l acc => if p l then acc ||| BitVec.twoPow 64 l else acc) (0 : W64)) l = (ls.contains l && p l) := by
    intro ls
    induction ls with
    | nil => simp [has]
    | cons a r ih =>
      intro hls
      have ih := ih (fun x hx => hls x (by simp [hx]))
      have ha := hls a (by simp)
      simp only [List.foldr_cons]
      by_cases hp : p a = true
      · simp only [hp, if_true]
        simp only [has] at ih ⊢
        rw [BitVec.getLsbD_or, ih, BitVec.getLsbD_twoPow]
        by_cases hal : a = l
        · subst hal; simp [ha, hp]
        · have : (l == a) = false := by simp; omega
          by_cases hlr : l ∈ r <;> simp [hal, hlr, show ¬ l = a from fun x => hal x.symm]
      · simp only [hp]
        by_cases hal : a = l
        · subst hal; simp_all
        · have : (l == a) = false := by simp; omega
          simp_all
  have := key laneList (by simp [laneList])
  rw [maskOf, this]
  simp [laneList, h]

/-- The element of a lane. -/
theorem el_lanes (f : Nat → W32) (l : Nat) (h : l < 64) : el (lanes f) l = f l := by
  simp [el, lanes, laneList, List.getD_eq_getElem?_getD, h]

end Sys2Proof.Machine
end

