-- ==== Sys2Proof/Laws/State.lean ====
section
/-! SUPPORT. What each update of the device changes: one lemma per field per update, true by rfl. -/

namespace Sys2Proof.Machine

/-! ### State.updSwarm -/

@[simp] theorem State.updSwarm_mem (s : State) (i : Nat) (f : Swarm → Swarm) : (s.updSwarm i f).mem = s.mem := rfl
@[simp] theorem State.updSwarm_poison (s : State) (i : Nat) (f : Swarm → Swarm) : (s.updSwarm i f).poison = s.poison := rfl
@[simp] theorem State.updSwarm_fresh (s : State) (i : Nat) (f : Swarm → Swarm) : (s.updSwarm i f).fresh = s.fresh := rfl
@[simp] theorem State.updSwarm_cur (s : State) (i : Nat) (f : Swarm → Swarm) : (s.updSwarm i f).cur = s.cur := rfl
@[simp] theorem State.updSwarm_clk (s : State) (i : Nat) (f : Swarm → Swarm) : (s.updSwarm i f).clk = s.clk := rfl
@[simp] theorem State.updSwarm_inbox (s : State) (i : Nat) (f : Swarm → Swarm) : (s.updSwarm i f).inbox = s.inbox := rfl
@[simp] theorem State.updSwarm_swarms (s : State) (i : Nat) (f : Swarm → Swarm) :
    (s.updSwarm i f).swarms = s.swarms.modify i f := rfl
@[simp] theorem State.updSwarm_colonies (s : State) (i : Nat) (f : Swarm → Swarm) : (s.updSwarm i f).colonies = s.colonies := rfl
@[simp] theorem State.updSwarm_fields (s : State) (i : Nat) (f : Swarm → Swarm) : (s.updSwarm i f).fields = s.fields := rfl
@[simp] theorem State.updSwarm_ctxs (s : State) (i : Nat) (f : Swarm → Swarm) : (s.updSwarm i f).ctxs = s.ctxs := rfl
@[simp] theorem State.updSwarm_colls (s : State) (i : Nat) (f : Swarm → Swarm) : (s.updSwarm i f).colls = s.colls := rfl
@[simp] theorem State.updSwarm_mmas (s : State) (i : Nat) (f : Swarm → Swarm) : (s.updSwarm i f).mmas = s.mmas := rfl
@[simp] theorem State.updSwarm_dies (s : State) (i : Nat) (f : Swarm → Swarm) : (s.updSwarm i f).dies = s.dies := rfl
@[simp] theorem State.updSwarm_ports (s : State) (i : Nat) (f : Swarm → Swarm) : (s.updSwarm i f).ports = s.ports := rfl
@[simp] theorem State.updSwarm_upd (s : State) (i : Nat) (f : Swarm → Swarm) : (s.updSwarm i f).upd = s.upd := rfl
@[simp] theorem State.updSwarm_ioDir (s : State) (i : Nat) (f : Swarm → Swarm) : (s.updSwarm i f).ioDir = s.ioDir := rfl
@[simp] theorem State.updSwarm_links (s : State) (i : Nat) (f : Swarm → Swarm) : (s.updSwarm i f).links = s.links := rfl
@[simp] theorem State.updSwarm_ioLink (s : State) (i : Nat) (f : Swarm → Swarm) : (s.updSwarm i f).ioLink = s.ioLink := rfl
@[simp] theorem State.updSwarm_stage (s : State) (i : Nat) (f : Swarm → Swarm) : (s.updSwarm i f).stage = s.stage := rfl
@[simp] theorem State.updSwarm_stkDead (s : State) (i : Nat) (f : Swarm → Swarm) : (s.updSwarm i f).stkDead = s.stkDead := rfl
@[simp] theorem State.updSwarm_dieDead (s : State) (i : Nat) (f : Swarm → Swarm) : (s.updSwarm i f).dieDead = s.dieDead := rfl
@[simp] theorem State.updSwarm_portDead (s : State) (i : Nat) (f : Swarm → Swarm) : (s.updSwarm i f).portDead = s.portDead := rfl
@[simp] theorem State.updSwarm_stackMap (s : State) (i : Nat) (f : Swarm → Swarm) : (s.updSwarm i f).stackMap = s.stackMap := rfl
@[simp] theorem State.updSwarm_homeHash (s : State) (i : Nat) (f : Swarm → Swarm) : (s.updSwarm i f).homeHash = s.homeHash := rfl
@[simp] theorem State.updSwarm_pwrCap (s : State) (i : Nat) (f : Swarm → Swarm) : (s.updSwarm i f).pwrCap = s.pwrCap := rfl
@[simp] theorem State.updSwarm_pwrHist (s : State) (i : Nat) (f : Swarm → Swarm) : (s.updSwarm i f).pwrHist = s.pwrHist := rfl
@[simp] theorem State.updSwarm_shareAt (s : State) (i : Nat) (f : Swarm → Swarm) : (s.updSwarm i f).shareAt = s.shareAt := rfl
@[simp] theorem State.updSwarm_pwrEvents (s : State) (i : Nat) (f : Swarm → Swarm) : (s.updSwarm i f).pwrEvents = s.pwrEvents := rfl
@[simp] theorem State.updSwarm_pwrMeas (s : State) (i : Nat) (f : Swarm → Swarm) : (s.updSwarm i f).pwrMeas = s.pwrMeas := rfl
@[simp] theorem State.updSwarm_apertures (s : State) (i : Nat) (f : Swarm → Swarm) : (s.updSwarm i f).apertures = s.apertures := rfl
@[simp] theorem State.updSwarm_peers (s : State) (i : Nat) (f : Swarm → Swarm) : (s.updSwarm i f).peers = s.peers := rfl
@[simp] theorem State.updSwarm_svcs (s : State) (i : Nat) (f : Swarm → Swarm) : (s.updSwarm i f).svcs = s.svcs := rfl
@[simp] theorem State.updSwarm_svcWait (s : State) (i : Nat) (f : Swarm → Swarm) : (s.updSwarm i f).svcWait = s.svcWait := rfl
@[simp] theorem State.updSwarm_mgmtQ (s : State) (i : Nat) (f : Swarm → Swarm) : (s.updSwarm i f).mgmtQ = s.mgmtQ := rfl
@[simp] theorem State.updSwarm_fwHeld (s : State) (i : Nat) (f : Swarm → Swarm) : (s.updSwarm i f).fwHeld = s.fwHeld := rfl
@[simp] theorem State.updSwarm_queues (s : State) (i : Nat) (f : Swarm → Swarm) : (s.updSwarm i f).queues = s.queues := rfl
@[simp] theorem State.updSwarm_qlog (s : State) (i : Nat) (f : Swarm → Swarm) : (s.updSwarm i f).qlog = s.qlog := rfl
@[simp] theorem State.updSwarm_qlogOver (s : State) (i : Nat) (f : Swarm → Swarm) : (s.updSwarm i f).qlogOver = s.qlogOver := rfl
@[simp] theorem State.updSwarm_linkLog (s : State) (i : Nat) (f : Swarm → Swarm) : (s.updSwarm i f).linkLog = s.linkLog := rfl
@[simp] theorem State.updSwarm_linkLogOver (s : State) (i : Nat) (f : Swarm → Swarm) : (s.updSwarm i f).linkLogOver = s.linkLogOver := rfl
@[simp] theorem State.updSwarm_ioFlog (s : State) (i : Nat) (f : Swarm → Swarm) : (s.updSwarm i f).ioFlog = s.ioFlog := rfl
@[simp] theorem State.updSwarm_ioFlogOver (s : State) (i : Nat) (f : Swarm → Swarm) : (s.updSwarm i f).ioFlogOver = s.ioFlogOver := rfl
@[simp] theorem State.updSwarm_ioCycle (s : State) (i : Nat) (f : Swarm → Swarm) : (s.updSwarm i f).ioCycle = s.ioCycle := rfl
@[simp] theorem State.updSwarm_patch (s : State) (i : Nat) (f : Swarm → Swarm) : (s.updSwarm i f).patch = s.patch := rfl
@[simp] theorem State.updSwarm_loaded (s : State) (i : Nat) (f : Swarm → Swarm) : (s.updSwarm i f).loaded = s.loaded := rfl
@[simp] theorem State.updSwarm_posted (s : State) (i : Nat) (f : Swarm → Swarm) : (s.updSwarm i f).posted = s.posted := rfl
@[simp] theorem State.updSwarm_nextPosted (s : State) (i : Nat) (f : Swarm → Swarm) : (s.updSwarm i f).nextPosted = s.nextPosted := rfl
@[simp] theorem State.updSwarm_psns (s : State) (i : Nat) (f : Swarm → Swarm) : (s.updSwarm i f).psns = s.psns := rfl
@[simp] theorem State.updSwarm_rx (s : State) (i : Nat) (f : Swarm → Swarm) : (s.updSwarm i f).rx = s.rx := rfl
@[simp] theorem State.updSwarm_reducs (s : State) (i : Nat) (f : Swarm → Swarm) : (s.updSwarm i f).reducs = s.reducs := rfl
@[simp] theorem State.updSwarm_nextReduc (s : State) (i : Nat) (f : Swarm → Swarm) : (s.updSwarm i f).nextReduc = s.nextReduc := rfl
@[simp] theorem State.updSwarm_stors (s : State) (i : Nat) (f : Swarm → Swarm) : (s.updSwarm i f).stors = s.stors := rfl
@[simp] theorem State.updSwarm_nextStor (s : State) (i : Nat) (f : Swarm → Swarm) : (s.updSwarm i f).nextStor = s.nextStor := rfl
@[simp] theorem State.updSwarm_nextField (s : State) (i : Nat) (f : Swarm → Swarm) : (s.updSwarm i f).nextField = s.nextField := rfl
@[simp] theorem State.updSwarm_nextPlaced (s : State) (i : Nat) (f : Swarm → Swarm) : (s.updSwarm i f).nextPlaced = s.nextPlaced := rfl
@[simp] theorem State.updSwarm_out (s : State) (i : Nat) (f : Swarm → Swarm) : (s.updSwarm i f).out = s.out := rfl

/-! ### State.updColony -/

@[simp] theorem State.updColony_mem (s : State) (i : Nat) (f : Colony → Colony) : (s.updColony i f).mem = s.mem := rfl
@[simp] theorem State.updColony_poison (s : State) (i : Nat) (f : Colony → Colony) : (s.updColony i f).poison = s.poison := rfl
@[simp] theorem State.updColony_fresh (s : State) (i : Nat) (f : Colony → Colony) : (s.updColony i f).fresh = s.fresh := rfl
@[simp] theorem State.updColony_cur (s : State) (i : Nat) (f : Colony → Colony) : (s.updColony i f).cur = s.cur := rfl
@[simp] theorem State.updColony_clk (s : State) (i : Nat) (f : Colony → Colony) : (s.updColony i f).clk = s.clk := rfl
@[simp] theorem State.updColony_inbox (s : State) (i : Nat) (f : Colony → Colony) : (s.updColony i f).inbox = s.inbox := rfl
@[simp] theorem State.updColony_swarms (s : State) (i : Nat) (f : Colony → Colony) : (s.updColony i f).swarms = s.swarms := rfl
@[simp] theorem State.updColony_colonies (s : State) (i : Nat) (f : Colony → Colony) :
    (s.updColony i f).colonies = s.colonies.modify i f := rfl
@[simp] theorem State.updColony_fields (s : State) (i : Nat) (f : Colony → Colony) : (s.updColony i f).fields = s.fields := rfl
@[simp] theorem State.updColony_ctxs (s : State) (i : Nat) (f : Colony → Colony) : (s.updColony i f).ctxs = s.ctxs := rfl
@[simp] theorem State.updColony_colls (s : State) (i : Nat) (f : Colony → Colony) : (s.updColony i f).colls = s.colls := rfl
@[simp] theorem State.updColony_mmas (s : State) (i : Nat) (f : Colony → Colony) : (s.updColony i f).mmas = s.mmas := rfl
@[simp] theorem State.updColony_dies (s : State) (i : Nat) (f : Colony → Colony) : (s.updColony i f).dies = s.dies := rfl
@[simp] theorem State.updColony_ports (s : State) (i : Nat) (f : Colony → Colony) : (s.updColony i f).ports = s.ports := rfl
@[simp] theorem State.updColony_upd (s : State) (i : Nat) (f : Colony → Colony) : (s.updColony i f).upd = s.upd := rfl
@[simp] theorem State.updColony_ioDir (s : State) (i : Nat) (f : Colony → Colony) : (s.updColony i f).ioDir = s.ioDir := rfl
@[simp] theorem State.updColony_links (s : State) (i : Nat) (f : Colony → Colony) : (s.updColony i f).links = s.links := rfl
@[simp] theorem State.updColony_ioLink (s : State) (i : Nat) (f : Colony → Colony) : (s.updColony i f).ioLink = s.ioLink := rfl
@[simp] theorem State.updColony_stage (s : State) (i : Nat) (f : Colony → Colony) : (s.updColony i f).stage = s.stage := rfl
@[simp] theorem State.updColony_stkDead (s : State) (i : Nat) (f : Colony → Colony) : (s.updColony i f).stkDead = s.stkDead := rfl
@[simp] theorem State.updColony_dieDead (s : State) (i : Nat) (f : Colony → Colony) : (s.updColony i f).dieDead = s.dieDead := rfl
@[simp] theorem State.updColony_portDead (s : State) (i : Nat) (f : Colony → Colony) : (s.updColony i f).portDead = s.portDead := rfl
@[simp] theorem State.updColony_stackMap (s : State) (i : Nat) (f : Colony → Colony) : (s.updColony i f).stackMap = s.stackMap := rfl
@[simp] theorem State.updColony_homeHash (s : State) (i : Nat) (f : Colony → Colony) : (s.updColony i f).homeHash = s.homeHash := rfl
@[simp] theorem State.updColony_pwrCap (s : State) (i : Nat) (f : Colony → Colony) : (s.updColony i f).pwrCap = s.pwrCap := rfl
@[simp] theorem State.updColony_pwrHist (s : State) (i : Nat) (f : Colony → Colony) : (s.updColony i f).pwrHist = s.pwrHist := rfl
@[simp] theorem State.updColony_shareAt (s : State) (i : Nat) (f : Colony → Colony) : (s.updColony i f).shareAt = s.shareAt := rfl
@[simp] theorem State.updColony_pwrEvents (s : State) (i : Nat) (f : Colony → Colony) : (s.updColony i f).pwrEvents = s.pwrEvents := rfl
@[simp] theorem State.updColony_pwrMeas (s : State) (i : Nat) (f : Colony → Colony) : (s.updColony i f).pwrMeas = s.pwrMeas := rfl
@[simp] theorem State.updColony_apertures (s : State) (i : Nat) (f : Colony → Colony) : (s.updColony i f).apertures = s.apertures := rfl
@[simp] theorem State.updColony_peers (s : State) (i : Nat) (f : Colony → Colony) : (s.updColony i f).peers = s.peers := rfl
@[simp] theorem State.updColony_svcs (s : State) (i : Nat) (f : Colony → Colony) : (s.updColony i f).svcs = s.svcs := rfl
@[simp] theorem State.updColony_svcWait (s : State) (i : Nat) (f : Colony → Colony) : (s.updColony i f).svcWait = s.svcWait := rfl
@[simp] theorem State.updColony_mgmtQ (s : State) (i : Nat) (f : Colony → Colony) : (s.updColony i f).mgmtQ = s.mgmtQ := rfl
@[simp] theorem State.updColony_fwHeld (s : State) (i : Nat) (f : Colony → Colony) : (s.updColony i f).fwHeld = s.fwHeld := rfl
@[simp] theorem State.updColony_queues (s : State) (i : Nat) (f : Colony → Colony) : (s.updColony i f).queues = s.queues := rfl
@[simp] theorem State.updColony_qlog (s : State) (i : Nat) (f : Colony → Colony) : (s.updColony i f).qlog = s.qlog := rfl
@[simp] theorem State.updColony_qlogOver (s : State) (i : Nat) (f : Colony → Colony) : (s.updColony i f).qlogOver = s.qlogOver := rfl
@[simp] theorem State.updColony_linkLog (s : State) (i : Nat) (f : Colony → Colony) : (s.updColony i f).linkLog = s.linkLog := rfl
@[simp] theorem State.updColony_linkLogOver (s : State) (i : Nat) (f : Colony → Colony) : (s.updColony i f).linkLogOver = s.linkLogOver := rfl
@[simp] theorem State.updColony_ioFlog (s : State) (i : Nat) (f : Colony → Colony) : (s.updColony i f).ioFlog = s.ioFlog := rfl
@[simp] theorem State.updColony_ioFlogOver (s : State) (i : Nat) (f : Colony → Colony) : (s.updColony i f).ioFlogOver = s.ioFlogOver := rfl
@[simp] theorem State.updColony_ioCycle (s : State) (i : Nat) (f : Colony → Colony) : (s.updColony i f).ioCycle = s.ioCycle := rfl
@[simp] theorem State.updColony_patch (s : State) (i : Nat) (f : Colony → Colony) : (s.updColony i f).patch = s.patch := rfl
@[simp] theorem State.updColony_loaded (s : State) (i : Nat) (f : Colony → Colony) : (s.updColony i f).loaded = s.loaded := rfl
@[simp] theorem State.updColony_posted (s : State) (i : Nat) (f : Colony → Colony) : (s.updColony i f).posted = s.posted := rfl
@[simp] theorem State.updColony_nextPosted (s : State) (i : Nat) (f : Colony → Colony) : (s.updColony i f).nextPosted = s.nextPosted := rfl
@[simp] theorem State.updColony_psns (s : State) (i : Nat) (f : Colony → Colony) : (s.updColony i f).psns = s.psns := rfl
@[simp] theorem State.updColony_rx (s : State) (i : Nat) (f : Colony → Colony) : (s.updColony i f).rx = s.rx := rfl
@[simp] theorem State.updColony_reducs (s : State) (i : Nat) (f : Colony → Colony) : (s.updColony i f).reducs = s.reducs := rfl
@[simp] theorem State.updColony_nextReduc (s : State) (i : Nat) (f : Colony → Colony) : (s.updColony i f).nextReduc = s.nextReduc := rfl
@[simp] theorem State.updColony_stors (s : State) (i : Nat) (f : Colony → Colony) : (s.updColony i f).stors = s.stors := rfl
@[simp] theorem State.updColony_nextStor (s : State) (i : Nat) (f : Colony → Colony) : (s.updColony i f).nextStor = s.nextStor := rfl
@[simp] theorem State.updColony_nextField (s : State) (i : Nat) (f : Colony → Colony) : (s.updColony i f).nextField = s.nextField := rfl
@[simp] theorem State.updColony_nextPlaced (s : State) (i : Nat) (f : Colony → Colony) : (s.updColony i f).nextPlaced = s.nextPlaced := rfl
@[simp] theorem State.updColony_out (s : State) (i : Nat) (f : Colony → Colony) : (s.updColony i f).out = s.out := rfl

/-! ### State.updField -/

@[simp] theorem State.updField_mem (s : State) (i : Nat) (f : FieldSt → FieldSt) : (s.updField i f).mem = s.mem := rfl
@[simp] theorem State.updField_poison (s : State) (i : Nat) (f : FieldSt → FieldSt) : (s.updField i f).poison = s.poison := rfl
@[simp] theorem State.updField_fresh (s : State) (i : Nat) (f : FieldSt → FieldSt) : (s.updField i f).fresh = s.fresh := rfl
@[simp] theorem State.updField_cur (s : State) (i : Nat) (f : FieldSt → FieldSt) : (s.updField i f).cur = s.cur := rfl
@[simp] theorem State.updField_clk (s : State) (i : Nat) (f : FieldSt → FieldSt) : (s.updField i f).clk = s.clk := rfl
@[simp] theorem State.updField_inbox (s : State) (i : Nat) (f : FieldSt → FieldSt) : (s.updField i f).inbox = s.inbox := rfl
@[simp] theorem State.updField_swarms (s : State) (i : Nat) (f : FieldSt → FieldSt) : (s.updField i f).swarms = s.swarms := rfl
@[simp] theorem State.updField_colonies (s : State) (i : Nat) (f : FieldSt → FieldSt) : (s.updField i f).colonies = s.colonies := rfl
@[simp] theorem State.updField_fields (s : State) (i : Nat) (f : FieldSt → FieldSt) :
    (s.updField i f).fields = s.fields.modify i f := rfl
@[simp] theorem State.updField_ctxs (s : State) (i : Nat) (f : FieldSt → FieldSt) : (s.updField i f).ctxs = s.ctxs := rfl
@[simp] theorem State.updField_colls (s : State) (i : Nat) (f : FieldSt → FieldSt) : (s.updField i f).colls = s.colls := rfl
@[simp] theorem State.updField_mmas (s : State) (i : Nat) (f : FieldSt → FieldSt) : (s.updField i f).mmas = s.mmas := rfl
@[simp] theorem State.updField_dies (s : State) (i : Nat) (f : FieldSt → FieldSt) : (s.updField i f).dies = s.dies := rfl
@[simp] theorem State.updField_ports (s : State) (i : Nat) (f : FieldSt → FieldSt) : (s.updField i f).ports = s.ports := rfl
@[simp] theorem State.updField_upd (s : State) (i : Nat) (f : FieldSt → FieldSt) : (s.updField i f).upd = s.upd := rfl
@[simp] theorem State.updField_ioDir (s : State) (i : Nat) (f : FieldSt → FieldSt) : (s.updField i f).ioDir = s.ioDir := rfl
@[simp] theorem State.updField_links (s : State) (i : Nat) (f : FieldSt → FieldSt) : (s.updField i f).links = s.links := rfl
@[simp] theorem State.updField_ioLink (s : State) (i : Nat) (f : FieldSt → FieldSt) : (s.updField i f).ioLink = s.ioLink := rfl
@[simp] theorem State.updField_stage (s : State) (i : Nat) (f : FieldSt → FieldSt) : (s.updField i f).stage = s.stage := rfl
@[simp] theorem State.updField_stkDead (s : State) (i : Nat) (f : FieldSt → FieldSt) : (s.updField i f).stkDead = s.stkDead := rfl
@[simp] theorem State.updField_dieDead (s : State) (i : Nat) (f : FieldSt → FieldSt) : (s.updField i f).dieDead = s.dieDead := rfl
@[simp] theorem State.updField_portDead (s : State) (i : Nat) (f : FieldSt → FieldSt) : (s.updField i f).portDead = s.portDead := rfl
@[simp] theorem State.updField_stackMap (s : State) (i : Nat) (f : FieldSt → FieldSt) : (s.updField i f).stackMap = s.stackMap := rfl
@[simp] theorem State.updField_homeHash (s : State) (i : Nat) (f : FieldSt → FieldSt) : (s.updField i f).homeHash = s.homeHash := rfl
@[simp] theorem State.updField_pwrCap (s : State) (i : Nat) (f : FieldSt → FieldSt) : (s.updField i f).pwrCap = s.pwrCap := rfl
@[simp] theorem State.updField_pwrHist (s : State) (i : Nat) (f : FieldSt → FieldSt) : (s.updField i f).pwrHist = s.pwrHist := rfl
@[simp] theorem State.updField_shareAt (s : State) (i : Nat) (f : FieldSt → FieldSt) : (s.updField i f).shareAt = s.shareAt := rfl
@[simp] theorem State.updField_pwrEvents (s : State) (i : Nat) (f : FieldSt → FieldSt) : (s.updField i f).pwrEvents = s.pwrEvents := rfl
@[simp] theorem State.updField_pwrMeas (s : State) (i : Nat) (f : FieldSt → FieldSt) : (s.updField i f).pwrMeas = s.pwrMeas := rfl
@[simp] theorem State.updField_apertures (s : State) (i : Nat) (f : FieldSt → FieldSt) : (s.updField i f).apertures = s.apertures := rfl
@[simp] theorem State.updField_peers (s : State) (i : Nat) (f : FieldSt → FieldSt) : (s.updField i f).peers = s.peers := rfl
@[simp] theorem State.updField_svcs (s : State) (i : Nat) (f : FieldSt → FieldSt) : (s.updField i f).svcs = s.svcs := rfl
@[simp] theorem State.updField_svcWait (s : State) (i : Nat) (f : FieldSt → FieldSt) : (s.updField i f).svcWait = s.svcWait := rfl
@[simp] theorem State.updField_mgmtQ (s : State) (i : Nat) (f : FieldSt → FieldSt) : (s.updField i f).mgmtQ = s.mgmtQ := rfl
@[simp] theorem State.updField_fwHeld (s : State) (i : Nat) (f : FieldSt → FieldSt) : (s.updField i f).fwHeld = s.fwHeld := rfl
@[simp] theorem State.updField_queues (s : State) (i : Nat) (f : FieldSt → FieldSt) : (s.updField i f).queues = s.queues := rfl
@[simp] theorem State.updField_qlog (s : State) (i : Nat) (f : FieldSt → FieldSt) : (s.updField i f).qlog = s.qlog := rfl
@[simp] theorem State.updField_qlogOver (s : State) (i : Nat) (f : FieldSt → FieldSt) : (s.updField i f).qlogOver = s.qlogOver := rfl
@[simp] theorem State.updField_linkLog (s : State) (i : Nat) (f : FieldSt → FieldSt) : (s.updField i f).linkLog = s.linkLog := rfl
@[simp] theorem State.updField_linkLogOver (s : State) (i : Nat) (f : FieldSt → FieldSt) : (s.updField i f).linkLogOver = s.linkLogOver := rfl
@[simp] theorem State.updField_ioFlog (s : State) (i : Nat) (f : FieldSt → FieldSt) : (s.updField i f).ioFlog = s.ioFlog := rfl
@[simp] theorem State.updField_ioFlogOver (s : State) (i : Nat) (f : FieldSt → FieldSt) : (s.updField i f).ioFlogOver = s.ioFlogOver := rfl
@[simp] theorem State.updField_ioCycle (s : State) (i : Nat) (f : FieldSt → FieldSt) : (s.updField i f).ioCycle = s.ioCycle := rfl
@[simp] theorem State.updField_patch (s : State) (i : Nat) (f : FieldSt → FieldSt) : (s.updField i f).patch = s.patch := rfl
@[simp] theorem State.updField_loaded (s : State) (i : Nat) (f : FieldSt → FieldSt) : (s.updField i f).loaded = s.loaded := rfl
@[simp] theorem State.updField_posted (s : State) (i : Nat) (f : FieldSt → FieldSt) : (s.updField i f).posted = s.posted := rfl
@[simp] theorem State.updField_nextPosted (s : State) (i : Nat) (f : FieldSt → FieldSt) : (s.updField i f).nextPosted = s.nextPosted := rfl
@[simp] theorem State.updField_psns (s : State) (i : Nat) (f : FieldSt → FieldSt) : (s.updField i f).psns = s.psns := rfl
@[simp] theorem State.updField_rx (s : State) (i : Nat) (f : FieldSt → FieldSt) : (s.updField i f).rx = s.rx := rfl
@[simp] theorem State.updField_reducs (s : State) (i : Nat) (f : FieldSt → FieldSt) : (s.updField i f).reducs = s.reducs := rfl
@[simp] theorem State.updField_nextReduc (s : State) (i : Nat) (f : FieldSt → FieldSt) : (s.updField i f).nextReduc = s.nextReduc := rfl
@[simp] theorem State.updField_stors (s : State) (i : Nat) (f : FieldSt → FieldSt) : (s.updField i f).stors = s.stors := rfl
@[simp] theorem State.updField_nextStor (s : State) (i : Nat) (f : FieldSt → FieldSt) : (s.updField i f).nextStor = s.nextStor := rfl
@[simp] theorem State.updField_nextField (s : State) (i : Nat) (f : FieldSt → FieldSt) : (s.updField i f).nextField = s.nextField := rfl
@[simp] theorem State.updField_nextPlaced (s : State) (i : Nat) (f : FieldSt → FieldSt) : (s.updField i f).nextPlaced = s.nextPlaced := rfl
@[simp] theorem State.updField_out (s : State) (i : Nat) (f : FieldSt → FieldSt) : (s.updField i f).out = s.out := rfl

/-! ### State.updDie -/

@[simp] theorem State.updDie_mem (s : State) (i : Nat) (f : Die → Die) : (s.updDie i f).mem = s.mem := rfl
@[simp] theorem State.updDie_poison (s : State) (i : Nat) (f : Die → Die) : (s.updDie i f).poison = s.poison := rfl
@[simp] theorem State.updDie_fresh (s : State) (i : Nat) (f : Die → Die) : (s.updDie i f).fresh = s.fresh := rfl
@[simp] theorem State.updDie_cur (s : State) (i : Nat) (f : Die → Die) : (s.updDie i f).cur = s.cur := rfl
@[simp] theorem State.updDie_clk (s : State) (i : Nat) (f : Die → Die) : (s.updDie i f).clk = s.clk := rfl
@[simp] theorem State.updDie_inbox (s : State) (i : Nat) (f : Die → Die) : (s.updDie i f).inbox = s.inbox := rfl
@[simp] theorem State.updDie_swarms (s : State) (i : Nat) (f : Die → Die) : (s.updDie i f).swarms = s.swarms := rfl
@[simp] theorem State.updDie_colonies (s : State) (i : Nat) (f : Die → Die) : (s.updDie i f).colonies = s.colonies := rfl
@[simp] theorem State.updDie_fields (s : State) (i : Nat) (f : Die → Die) : (s.updDie i f).fields = s.fields := rfl
@[simp] theorem State.updDie_ctxs (s : State) (i : Nat) (f : Die → Die) : (s.updDie i f).ctxs = s.ctxs := rfl
@[simp] theorem State.updDie_colls (s : State) (i : Nat) (f : Die → Die) : (s.updDie i f).colls = s.colls := rfl
@[simp] theorem State.updDie_mmas (s : State) (i : Nat) (f : Die → Die) : (s.updDie i f).mmas = s.mmas := rfl
@[simp] theorem State.updDie_dies (s : State) (i : Nat) (f : Die → Die) :
    (s.updDie i f).dies = s.dies.modify i f := rfl
@[simp] theorem State.updDie_ports (s : State) (i : Nat) (f : Die → Die) : (s.updDie i f).ports = s.ports := rfl
@[simp] theorem State.updDie_upd (s : State) (i : Nat) (f : Die → Die) : (s.updDie i f).upd = s.upd := rfl
@[simp] theorem State.updDie_ioDir (s : State) (i : Nat) (f : Die → Die) : (s.updDie i f).ioDir = s.ioDir := rfl
@[simp] theorem State.updDie_links (s : State) (i : Nat) (f : Die → Die) : (s.updDie i f).links = s.links := rfl
@[simp] theorem State.updDie_ioLink (s : State) (i : Nat) (f : Die → Die) : (s.updDie i f).ioLink = s.ioLink := rfl
@[simp] theorem State.updDie_stage (s : State) (i : Nat) (f : Die → Die) : (s.updDie i f).stage = s.stage := rfl
@[simp] theorem State.updDie_stkDead (s : State) (i : Nat) (f : Die → Die) : (s.updDie i f).stkDead = s.stkDead := rfl
@[simp] theorem State.updDie_dieDead (s : State) (i : Nat) (f : Die → Die) : (s.updDie i f).dieDead = s.dieDead := rfl
@[simp] theorem State.updDie_portDead (s : State) (i : Nat) (f : Die → Die) : (s.updDie i f).portDead = s.portDead := rfl
@[simp] theorem State.updDie_stackMap (s : State) (i : Nat) (f : Die → Die) : (s.updDie i f).stackMap = s.stackMap := rfl
@[simp] theorem State.updDie_homeHash (s : State) (i : Nat) (f : Die → Die) : (s.updDie i f).homeHash = s.homeHash := rfl
@[simp] theorem State.updDie_pwrCap (s : State) (i : Nat) (f : Die → Die) : (s.updDie i f).pwrCap = s.pwrCap := rfl
@[simp] theorem State.updDie_pwrHist (s : State) (i : Nat) (f : Die → Die) : (s.updDie i f).pwrHist = s.pwrHist := rfl
@[simp] theorem State.updDie_shareAt (s : State) (i : Nat) (f : Die → Die) : (s.updDie i f).shareAt = s.shareAt := rfl
@[simp] theorem State.updDie_pwrEvents (s : State) (i : Nat) (f : Die → Die) : (s.updDie i f).pwrEvents = s.pwrEvents := rfl
@[simp] theorem State.updDie_pwrMeas (s : State) (i : Nat) (f : Die → Die) : (s.updDie i f).pwrMeas = s.pwrMeas := rfl
@[simp] theorem State.updDie_apertures (s : State) (i : Nat) (f : Die → Die) : (s.updDie i f).apertures = s.apertures := rfl
@[simp] theorem State.updDie_peers (s : State) (i : Nat) (f : Die → Die) : (s.updDie i f).peers = s.peers := rfl
@[simp] theorem State.updDie_svcs (s : State) (i : Nat) (f : Die → Die) : (s.updDie i f).svcs = s.svcs := rfl
@[simp] theorem State.updDie_svcWait (s : State) (i : Nat) (f : Die → Die) : (s.updDie i f).svcWait = s.svcWait := rfl
@[simp] theorem State.updDie_mgmtQ (s : State) (i : Nat) (f : Die → Die) : (s.updDie i f).mgmtQ = s.mgmtQ := rfl
@[simp] theorem State.updDie_fwHeld (s : State) (i : Nat) (f : Die → Die) : (s.updDie i f).fwHeld = s.fwHeld := rfl
@[simp] theorem State.updDie_queues (s : State) (i : Nat) (f : Die → Die) : (s.updDie i f).queues = s.queues := rfl
@[simp] theorem State.updDie_qlog (s : State) (i : Nat) (f : Die → Die) : (s.updDie i f).qlog = s.qlog := rfl
@[simp] theorem State.updDie_qlogOver (s : State) (i : Nat) (f : Die → Die) : (s.updDie i f).qlogOver = s.qlogOver := rfl
@[simp] theorem State.updDie_linkLog (s : State) (i : Nat) (f : Die → Die) : (s.updDie i f).linkLog = s.linkLog := rfl
@[simp] theorem State.updDie_linkLogOver (s : State) (i : Nat) (f : Die → Die) : (s.updDie i f).linkLogOver = s.linkLogOver := rfl
@[simp] theorem State.updDie_ioFlog (s : State) (i : Nat) (f : Die → Die) : (s.updDie i f).ioFlog = s.ioFlog := rfl
@[simp] theorem State.updDie_ioFlogOver (s : State) (i : Nat) (f : Die → Die) : (s.updDie i f).ioFlogOver = s.ioFlogOver := rfl
@[simp] theorem State.updDie_ioCycle (s : State) (i : Nat) (f : Die → Die) : (s.updDie i f).ioCycle = s.ioCycle := rfl
@[simp] theorem State.updDie_patch (s : State) (i : Nat) (f : Die → Die) : (s.updDie i f).patch = s.patch := rfl
@[simp] theorem State.updDie_loaded (s : State) (i : Nat) (f : Die → Die) : (s.updDie i f).loaded = s.loaded := rfl
@[simp] theorem State.updDie_posted (s : State) (i : Nat) (f : Die → Die) : (s.updDie i f).posted = s.posted := rfl
@[simp] theorem State.updDie_nextPosted (s : State) (i : Nat) (f : Die → Die) : (s.updDie i f).nextPosted = s.nextPosted := rfl
@[simp] theorem State.updDie_psns (s : State) (i : Nat) (f : Die → Die) : (s.updDie i f).psns = s.psns := rfl
@[simp] theorem State.updDie_rx (s : State) (i : Nat) (f : Die → Die) : (s.updDie i f).rx = s.rx := rfl
@[simp] theorem State.updDie_reducs (s : State) (i : Nat) (f : Die → Die) : (s.updDie i f).reducs = s.reducs := rfl
@[simp] theorem State.updDie_nextReduc (s : State) (i : Nat) (f : Die → Die) : (s.updDie i f).nextReduc = s.nextReduc := rfl
@[simp] theorem State.updDie_stors (s : State) (i : Nat) (f : Die → Die) : (s.updDie i f).stors = s.stors := rfl
@[simp] theorem State.updDie_nextStor (s : State) (i : Nat) (f : Die → Die) : (s.updDie i f).nextStor = s.nextStor := rfl
@[simp] theorem State.updDie_nextField (s : State) (i : Nat) (f : Die → Die) : (s.updDie i f).nextField = s.nextField := rfl
@[simp] theorem State.updDie_nextPlaced (s : State) (i : Nat) (f : Die → Die) : (s.updDie i f).nextPlaced = s.nextPlaced := rfl
@[simp] theorem State.updDie_out (s : State) (i : Nat) (f : Die → Die) : (s.updDie i f).out = s.out := rfl

/-! ### State.updPort -/

@[simp] theorem State.updPort_mem (s : State) (i : Nat) (f : Port → Port) : (s.updPort i f).mem = s.mem := rfl
@[simp] theorem State.updPort_poison (s : State) (i : Nat) (f : Port → Port) : (s.updPort i f).poison = s.poison := rfl
@[simp] theorem State.updPort_fresh (s : State) (i : Nat) (f : Port → Port) : (s.updPort i f).fresh = s.fresh := rfl
@[simp] theorem State.updPort_cur (s : State) (i : Nat) (f : Port → Port) : (s.updPort i f).cur = s.cur := rfl
@[simp] theorem State.updPort_clk (s : State) (i : Nat) (f : Port → Port) : (s.updPort i f).clk = s.clk := rfl
@[simp] theorem State.updPort_inbox (s : State) (i : Nat) (f : Port → Port) : (s.updPort i f).inbox = s.inbox := rfl
@[simp] theorem State.updPort_swarms (s : State) (i : Nat) (f : Port → Port) : (s.updPort i f).swarms = s.swarms := rfl
@[simp] theorem State.updPort_colonies (s : State) (i : Nat) (f : Port → Port) : (s.updPort i f).colonies = s.colonies := rfl
@[simp] theorem State.updPort_fields (s : State) (i : Nat) (f : Port → Port) : (s.updPort i f).fields = s.fields := rfl
@[simp] theorem State.updPort_ctxs (s : State) (i : Nat) (f : Port → Port) : (s.updPort i f).ctxs = s.ctxs := rfl
@[simp] theorem State.updPort_colls (s : State) (i : Nat) (f : Port → Port) : (s.updPort i f).colls = s.colls := rfl
@[simp] theorem State.updPort_mmas (s : State) (i : Nat) (f : Port → Port) : (s.updPort i f).mmas = s.mmas := rfl
@[simp] theorem State.updPort_dies (s : State) (i : Nat) (f : Port → Port) : (s.updPort i f).dies = s.dies := rfl
@[simp] theorem State.updPort_ports (s : State) (i : Nat) (f : Port → Port) :
    (s.updPort i f).ports = s.ports.modify i f := rfl
@[simp] theorem State.updPort_upd (s : State) (i : Nat) (f : Port → Port) : (s.updPort i f).upd = s.upd := rfl
@[simp] theorem State.updPort_ioDir (s : State) (i : Nat) (f : Port → Port) : (s.updPort i f).ioDir = s.ioDir := rfl
@[simp] theorem State.updPort_links (s : State) (i : Nat) (f : Port → Port) : (s.updPort i f).links = s.links := rfl
@[simp] theorem State.updPort_ioLink (s : State) (i : Nat) (f : Port → Port) : (s.updPort i f).ioLink = s.ioLink := rfl
@[simp] theorem State.updPort_stage (s : State) (i : Nat) (f : Port → Port) : (s.updPort i f).stage = s.stage := rfl
@[simp] theorem State.updPort_stkDead (s : State) (i : Nat) (f : Port → Port) : (s.updPort i f).stkDead = s.stkDead := rfl
@[simp] theorem State.updPort_dieDead (s : State) (i : Nat) (f : Port → Port) : (s.updPort i f).dieDead = s.dieDead := rfl
@[simp] theorem State.updPort_portDead (s : State) (i : Nat) (f : Port → Port) : (s.updPort i f).portDead = s.portDead := rfl
@[simp] theorem State.updPort_stackMap (s : State) (i : Nat) (f : Port → Port) : (s.updPort i f).stackMap = s.stackMap := rfl
@[simp] theorem State.updPort_homeHash (s : State) (i : Nat) (f : Port → Port) : (s.updPort i f).homeHash = s.homeHash := rfl
@[simp] theorem State.updPort_pwrCap (s : State) (i : Nat) (f : Port → Port) : (s.updPort i f).pwrCap = s.pwrCap := rfl
@[simp] theorem State.updPort_pwrHist (s : State) (i : Nat) (f : Port → Port) : (s.updPort i f).pwrHist = s.pwrHist := rfl
@[simp] theorem State.updPort_shareAt (s : State) (i : Nat) (f : Port → Port) : (s.updPort i f).shareAt = s.shareAt := rfl
@[simp] theorem State.updPort_pwrEvents (s : State) (i : Nat) (f : Port → Port) : (s.updPort i f).pwrEvents = s.pwrEvents := rfl
@[simp] theorem State.updPort_pwrMeas (s : State) (i : Nat) (f : Port → Port) : (s.updPort i f).pwrMeas = s.pwrMeas := rfl
@[simp] theorem State.updPort_apertures (s : State) (i : Nat) (f : Port → Port) : (s.updPort i f).apertures = s.apertures := rfl
@[simp] theorem State.updPort_peers (s : State) (i : Nat) (f : Port → Port) : (s.updPort i f).peers = s.peers := rfl
@[simp] theorem State.updPort_svcs (s : State) (i : Nat) (f : Port → Port) : (s.updPort i f).svcs = s.svcs := rfl
@[simp] theorem State.updPort_svcWait (s : State) (i : Nat) (f : Port → Port) : (s.updPort i f).svcWait = s.svcWait := rfl
@[simp] theorem State.updPort_mgmtQ (s : State) (i : Nat) (f : Port → Port) : (s.updPort i f).mgmtQ = s.mgmtQ := rfl
@[simp] theorem State.updPort_fwHeld (s : State) (i : Nat) (f : Port → Port) : (s.updPort i f).fwHeld = s.fwHeld := rfl
@[simp] theorem State.updPort_queues (s : State) (i : Nat) (f : Port → Port) : (s.updPort i f).queues = s.queues := rfl
@[simp] theorem State.updPort_qlog (s : State) (i : Nat) (f : Port → Port) : (s.updPort i f).qlog = s.qlog := rfl
@[simp] theorem State.updPort_qlogOver (s : State) (i : Nat) (f : Port → Port) : (s.updPort i f).qlogOver = s.qlogOver := rfl
@[simp] theorem State.updPort_linkLog (s : State) (i : Nat) (f : Port → Port) : (s.updPort i f).linkLog = s.linkLog := rfl
@[simp] theorem State.updPort_linkLogOver (s : State) (i : Nat) (f : Port → Port) : (s.updPort i f).linkLogOver = s.linkLogOver := rfl
@[simp] theorem State.updPort_ioFlog (s : State) (i : Nat) (f : Port → Port) : (s.updPort i f).ioFlog = s.ioFlog := rfl
@[simp] theorem State.updPort_ioFlogOver (s : State) (i : Nat) (f : Port → Port) : (s.updPort i f).ioFlogOver = s.ioFlogOver := rfl
@[simp] theorem State.updPort_ioCycle (s : State) (i : Nat) (f : Port → Port) : (s.updPort i f).ioCycle = s.ioCycle := rfl
@[simp] theorem State.updPort_patch (s : State) (i : Nat) (f : Port → Port) : (s.updPort i f).patch = s.patch := rfl
@[simp] theorem State.updPort_loaded (s : State) (i : Nat) (f : Port → Port) : (s.updPort i f).loaded = s.loaded := rfl
@[simp] theorem State.updPort_posted (s : State) (i : Nat) (f : Port → Port) : (s.updPort i f).posted = s.posted := rfl
@[simp] theorem State.updPort_nextPosted (s : State) (i : Nat) (f : Port → Port) : (s.updPort i f).nextPosted = s.nextPosted := rfl
@[simp] theorem State.updPort_psns (s : State) (i : Nat) (f : Port → Port) : (s.updPort i f).psns = s.psns := rfl
@[simp] theorem State.updPort_rx (s : State) (i : Nat) (f : Port → Port) : (s.updPort i f).rx = s.rx := rfl
@[simp] theorem State.updPort_reducs (s : State) (i : Nat) (f : Port → Port) : (s.updPort i f).reducs = s.reducs := rfl
@[simp] theorem State.updPort_nextReduc (s : State) (i : Nat) (f : Port → Port) : (s.updPort i f).nextReduc = s.nextReduc := rfl
@[simp] theorem State.updPort_stors (s : State) (i : Nat) (f : Port → Port) : (s.updPort i f).stors = s.stors := rfl
@[simp] theorem State.updPort_nextStor (s : State) (i : Nat) (f : Port → Port) : (s.updPort i f).nextStor = s.nextStor := rfl
@[simp] theorem State.updPort_nextField (s : State) (i : Nat) (f : Port → Port) : (s.updPort i f).nextField = s.nextField := rfl
@[simp] theorem State.updPort_nextPlaced (s : State) (i : Nat) (f : Port → Port) : (s.updPort i f).nextPlaced = s.nextPlaced := rfl
@[simp] theorem State.updPort_out (s : State) (i : Nat) (f : Port → Port) : (s.updPort i f).out = s.out := rfl

/-! ### State.updCore -/

@[simp] theorem State.updCore_mem (s : State) (k : Nat × Nat × Nat) (f : CoreSt → CoreSt) : (s.updCore k f).mem = s.mem := rfl
@[simp] theorem State.updCore_poison (s : State) (k : Nat × Nat × Nat) (f : CoreSt → CoreSt) : (s.updCore k f).poison = s.poison := rfl
@[simp] theorem State.updCore_fresh (s : State) (k : Nat × Nat × Nat) (f : CoreSt → CoreSt) : (s.updCore k f).fresh = s.fresh := rfl
@[simp] theorem State.updCore_cur (s : State) (k : Nat × Nat × Nat) (f : CoreSt → CoreSt) : (s.updCore k f).cur = s.cur := rfl
@[simp] theorem State.updCore_clk (s : State) (k : Nat × Nat × Nat) (f : CoreSt → CoreSt) : (s.updCore k f).clk = s.clk := rfl
@[simp] theorem State.updCore_inbox (s : State) (k : Nat × Nat × Nat) (f : CoreSt → CoreSt) : (s.updCore k f).inbox = s.inbox := rfl
@[simp] theorem State.updCore_swarms (s : State) (k : Nat × Nat × Nat) (f : CoreSt → CoreSt) : (s.updCore k f).swarms = s.swarms := rfl
@[simp] theorem State.updCore_colonies (s : State) (k : Nat × Nat × Nat) (f : CoreSt → CoreSt) : (s.updCore k f).colonies = s.colonies := rfl
@[simp] theorem State.updCore_fields (s : State) (k : Nat × Nat × Nat) (f : CoreSt → CoreSt) : (s.updCore k f).fields = s.fields := rfl
@[simp] theorem State.updCore_ctxs (s : State) (k : Nat × Nat × Nat) (f : CoreSt → CoreSt) : (s.updCore k f).ctxs = s.ctxs := rfl
@[simp] theorem State.updCore_colls (s : State) (k : Nat × Nat × Nat) (f : CoreSt → CoreSt) : (s.updCore k f).colls = s.colls := rfl
@[simp] theorem State.updCore_mmas (s : State) (k : Nat × Nat × Nat) (f : CoreSt → CoreSt) : (s.updCore k f).mmas = s.mmas := rfl
@[simp] theorem State.updCore_ports (s : State) (k : Nat × Nat × Nat) (f : CoreSt → CoreSt) : (s.updCore k f).ports = s.ports := rfl
@[simp] theorem State.updCore_upd (s : State) (k : Nat × Nat × Nat) (f : CoreSt → CoreSt) : (s.updCore k f).upd = s.upd := rfl
@[simp] theorem State.updCore_ioDir (s : State) (k : Nat × Nat × Nat) (f : CoreSt → CoreSt) : (s.updCore k f).ioDir = s.ioDir := rfl
@[simp] theorem State.updCore_links (s : State) (k : Nat × Nat × Nat) (f : CoreSt → CoreSt) : (s.updCore k f).links = s.links := rfl
@[simp] theorem State.updCore_ioLink (s : State) (k : Nat × Nat × Nat) (f : CoreSt → CoreSt) : (s.updCore k f).ioLink = s.ioLink := rfl
@[simp] theorem State.updCore_stage (s : State) (k : Nat × Nat × Nat) (f : CoreSt → CoreSt) : (s.updCore k f).stage = s.stage := rfl
@[simp] theorem State.updCore_stkDead (s : State) (k : Nat × Nat × Nat) (f : CoreSt → CoreSt) : (s.updCore k f).stkDead = s.stkDead := rfl
@[simp] theorem State.updCore_dieDead (s : State) (k : Nat × Nat × Nat) (f : CoreSt → CoreSt) : (s.updCore k f).dieDead = s.dieDead := rfl
@[simp] theorem State.updCore_portDead (s : State) (k : Nat × Nat × Nat) (f : CoreSt → CoreSt) : (s.updCore k f).portDead = s.portDead := rfl
@[simp] theorem State.updCore_stackMap (s : State) (k : Nat × Nat × Nat) (f : CoreSt → CoreSt) : (s.updCore k f).stackMap = s.stackMap := rfl
@[simp] theorem State.updCore_homeHash (s : State) (k : Nat × Nat × Nat) (f : CoreSt → CoreSt) : (s.updCore k f).homeHash = s.homeHash := rfl
@[simp] theorem State.updCore_pwrCap (s : State) (k : Nat × Nat × Nat) (f : CoreSt → CoreSt) : (s.updCore k f).pwrCap = s.pwrCap := rfl
@[simp] theorem State.updCore_pwrHist (s : State) (k : Nat × Nat × Nat) (f : CoreSt → CoreSt) : (s.updCore k f).pwrHist = s.pwrHist := rfl
@[simp] theorem State.updCore_shareAt (s : State) (k : Nat × Nat × Nat) (f : CoreSt → CoreSt) : (s.updCore k f).shareAt = s.shareAt := rfl
@[simp] theorem State.updCore_pwrEvents (s : State) (k : Nat × Nat × Nat) (f : CoreSt → CoreSt) : (s.updCore k f).pwrEvents = s.pwrEvents := rfl
@[simp] theorem State.updCore_pwrMeas (s : State) (k : Nat × Nat × Nat) (f : CoreSt → CoreSt) : (s.updCore k f).pwrMeas = s.pwrMeas := rfl
@[simp] theorem State.updCore_apertures (s : State) (k : Nat × Nat × Nat) (f : CoreSt → CoreSt) : (s.updCore k f).apertures = s.apertures := rfl
@[simp] theorem State.updCore_peers (s : State) (k : Nat × Nat × Nat) (f : CoreSt → CoreSt) : (s.updCore k f).peers = s.peers := rfl
@[simp] theorem State.updCore_svcs (s : State) (k : Nat × Nat × Nat) (f : CoreSt → CoreSt) : (s.updCore k f).svcs = s.svcs := rfl
@[simp] theorem State.updCore_svcWait (s : State) (k : Nat × Nat × Nat) (f : CoreSt → CoreSt) : (s.updCore k f).svcWait = s.svcWait := rfl
@[simp] theorem State.updCore_mgmtQ (s : State) (k : Nat × Nat × Nat) (f : CoreSt → CoreSt) : (s.updCore k f).mgmtQ = s.mgmtQ := rfl
@[simp] theorem State.updCore_fwHeld (s : State) (k : Nat × Nat × Nat) (f : CoreSt → CoreSt) : (s.updCore k f).fwHeld = s.fwHeld := rfl
@[simp] theorem State.updCore_queues (s : State) (k : Nat × Nat × Nat) (f : CoreSt → CoreSt) : (s.updCore k f).queues = s.queues := rfl
@[simp] theorem State.updCore_qlog (s : State) (k : Nat × Nat × Nat) (f : CoreSt → CoreSt) : (s.updCore k f).qlog = s.qlog := rfl
@[simp] theorem State.updCore_qlogOver (s : State) (k : Nat × Nat × Nat) (f : CoreSt → CoreSt) : (s.updCore k f).qlogOver = s.qlogOver := rfl
@[simp] theorem State.updCore_linkLog (s : State) (k : Nat × Nat × Nat) (f : CoreSt → CoreSt) : (s.updCore k f).linkLog = s.linkLog := rfl
@[simp] theorem State.updCore_linkLogOver (s : State) (k : Nat × Nat × Nat) (f : CoreSt → CoreSt) : (s.updCore k f).linkLogOver = s.linkLogOver := rfl
@[simp] theorem State.updCore_ioFlog (s : State) (k : Nat × Nat × Nat) (f : CoreSt → CoreSt) : (s.updCore k f).ioFlog = s.ioFlog := rfl
@[simp] theorem State.updCore_ioFlogOver (s : State) (k : Nat × Nat × Nat) (f : CoreSt → CoreSt) : (s.updCore k f).ioFlogOver = s.ioFlogOver := rfl
@[simp] theorem State.updCore_ioCycle (s : State) (k : Nat × Nat × Nat) (f : CoreSt → CoreSt) : (s.updCore k f).ioCycle = s.ioCycle := rfl
@[simp] theorem State.updCore_patch (s : State) (k : Nat × Nat × Nat) (f : CoreSt → CoreSt) : (s.updCore k f).patch = s.patch := rfl
@[simp] theorem State.updCore_loaded (s : State) (k : Nat × Nat × Nat) (f : CoreSt → CoreSt) : (s.updCore k f).loaded = s.loaded := rfl
@[simp] theorem State.updCore_posted (s : State) (k : Nat × Nat × Nat) (f : CoreSt → CoreSt) : (s.updCore k f).posted = s.posted := rfl
@[simp] theorem State.updCore_nextPosted (s : State) (k : Nat × Nat × Nat) (f : CoreSt → CoreSt) : (s.updCore k f).nextPosted = s.nextPosted := rfl
@[simp] theorem State.updCore_psns (s : State) (k : Nat × Nat × Nat) (f : CoreSt → CoreSt) : (s.updCore k f).psns = s.psns := rfl
@[simp] theorem State.updCore_rx (s : State) (k : Nat × Nat × Nat) (f : CoreSt → CoreSt) : (s.updCore k f).rx = s.rx := rfl
@[simp] theorem State.updCore_reducs (s : State) (k : Nat × Nat × Nat) (f : CoreSt → CoreSt) : (s.updCore k f).reducs = s.reducs := rfl
@[simp] theorem State.updCore_nextReduc (s : State) (k : Nat × Nat × Nat) (f : CoreSt → CoreSt) : (s.updCore k f).nextReduc = s.nextReduc := rfl
@[simp] theorem State.updCore_stors (s : State) (k : Nat × Nat × Nat) (f : CoreSt → CoreSt) : (s.updCore k f).stors = s.stors := rfl
@[simp] theorem State.updCore_nextStor (s : State) (k : Nat × Nat × Nat) (f : CoreSt → CoreSt) : (s.updCore k f).nextStor = s.nextStor := rfl
@[simp] theorem State.updCore_nextField (s : State) (k : Nat × Nat × Nat) (f : CoreSt → CoreSt) : (s.updCore k f).nextField = s.nextField := rfl
@[simp] theorem State.updCore_nextPlaced (s : State) (k : Nat × Nat × Nat) (f : CoreSt → CoreSt) : (s.updCore k f).nextPlaced = s.nextPlaced := rfl
@[simp] theorem State.updCore_out (s : State) (k : Nat × Nat × Nat) (f : CoreSt → CoreSt) : (s.updCore k f).out = s.out := rfl

/-! ### State.updCtx -/

@[simp] theorem State.updCtx_mem (s : State) (h : Nat) (f : Ctx → Ctx) : (s.updCtx h f).mem = s.mem := rfl
@[simp] theorem State.updCtx_poison (s : State) (h : Nat) (f : Ctx → Ctx) : (s.updCtx h f).poison = s.poison := rfl
@[simp] theorem State.updCtx_fresh (s : State) (h : Nat) (f : Ctx → Ctx) : (s.updCtx h f).fresh = s.fresh := rfl
@[simp] theorem State.updCtx_cur (s : State) (h : Nat) (f : Ctx → Ctx) : (s.updCtx h f).cur = s.cur := rfl
@[simp] theorem State.updCtx_clk (s : State) (h : Nat) (f : Ctx → Ctx) : (s.updCtx h f).clk = s.clk := rfl
@[simp] theorem State.updCtx_inbox (s : State) (h : Nat) (f : Ctx → Ctx) : (s.updCtx h f).inbox = s.inbox := rfl
@[simp] theorem State.updCtx_swarms (s : State) (h : Nat) (f : Ctx → Ctx) : (s.updCtx h f).swarms = s.swarms := rfl
@[simp] theorem State.updCtx_colonies (s : State) (h : Nat) (f : Ctx → Ctx) : (s.updCtx h f).colonies = s.colonies := rfl
@[simp] theorem State.updCtx_fields (s : State) (h : Nat) (f : Ctx → Ctx) : (s.updCtx h f).fields = s.fields := rfl
@[simp] theorem State.updCtx_ctxs (s : State) (h : Nat) (f : Ctx → Ctx) :
    (s.updCtx h f).ctxs = s.ctxs.map fun c => if c.handle == h && c.live then f c else c := rfl
@[simp] theorem State.updCtx_colls (s : State) (h : Nat) (f : Ctx → Ctx) : (s.updCtx h f).colls = s.colls := rfl
@[simp] theorem State.updCtx_mmas (s : State) (h : Nat) (f : Ctx → Ctx) : (s.updCtx h f).mmas = s.mmas := rfl
@[simp] theorem State.updCtx_dies (s : State) (h : Nat) (f : Ctx → Ctx) : (s.updCtx h f).dies = s.dies := rfl
@[simp] theorem State.updCtx_ports (s : State) (h : Nat) (f : Ctx → Ctx) : (s.updCtx h f).ports = s.ports := rfl
@[simp] theorem State.updCtx_upd (s : State) (h : Nat) (f : Ctx → Ctx) : (s.updCtx h f).upd = s.upd := rfl
@[simp] theorem State.updCtx_ioDir (s : State) (h : Nat) (f : Ctx → Ctx) : (s.updCtx h f).ioDir = s.ioDir := rfl
@[simp] theorem State.updCtx_links (s : State) (h : Nat) (f : Ctx → Ctx) : (s.updCtx h f).links = s.links := rfl
@[simp] theorem State.updCtx_ioLink (s : State) (h : Nat) (f : Ctx → Ctx) : (s.updCtx h f).ioLink = s.ioLink := rfl
@[simp] theorem State.updCtx_stage (s : State) (h : Nat) (f : Ctx → Ctx) : (s.updCtx h f).stage = s.stage := rfl
@[simp] theorem State.updCtx_stkDead (s : State) (h : Nat) (f : Ctx → Ctx) : (s.updCtx h f).stkDead = s.stkDead := rfl
@[simp] theorem State.updCtx_dieDead (s : State) (h : Nat) (f : Ctx → Ctx) : (s.updCtx h f).dieDead = s.dieDead := rfl
@[simp] theorem State.updCtx_portDead (s : State) (h : Nat) (f : Ctx → Ctx) : (s.updCtx h f).portDead = s.portDead := rfl
@[simp] theorem State.updCtx_stackMap (s : State) (h : Nat) (f : Ctx → Ctx) : (s.updCtx h f).stackMap = s.stackMap := rfl
@[simp] theorem State.updCtx_homeHash (s : State) (h : Nat) (f : Ctx → Ctx) : (s.updCtx h f).homeHash = s.homeHash := rfl
@[simp] theorem State.updCtx_pwrCap (s : State) (h : Nat) (f : Ctx → Ctx) : (s.updCtx h f).pwrCap = s.pwrCap := rfl
@[simp] theorem State.updCtx_pwrHist (s : State) (h : Nat) (f : Ctx → Ctx) : (s.updCtx h f).pwrHist = s.pwrHist := rfl
@[simp] theorem State.updCtx_shareAt (s : State) (h : Nat) (f : Ctx → Ctx) : (s.updCtx h f).shareAt = s.shareAt := rfl
@[simp] theorem State.updCtx_pwrEvents (s : State) (h : Nat) (f : Ctx → Ctx) : (s.updCtx h f).pwrEvents = s.pwrEvents := rfl
@[simp] theorem State.updCtx_pwrMeas (s : State) (h : Nat) (f : Ctx → Ctx) : (s.updCtx h f).pwrMeas = s.pwrMeas := rfl
@[simp] theorem State.updCtx_apertures (s : State) (h : Nat) (f : Ctx → Ctx) : (s.updCtx h f).apertures = s.apertures := rfl
@[simp] theorem State.updCtx_peers (s : State) (h : Nat) (f : Ctx → Ctx) : (s.updCtx h f).peers = s.peers := rfl
@[simp] theorem State.updCtx_svcs (s : State) (h : Nat) (f : Ctx → Ctx) : (s.updCtx h f).svcs = s.svcs := rfl
@[simp] theorem State.updCtx_svcWait (s : State) (h : Nat) (f : Ctx → Ctx) : (s.updCtx h f).svcWait = s.svcWait := rfl
@[simp] theorem State.updCtx_mgmtQ (s : State) (h : Nat) (f : Ctx → Ctx) : (s.updCtx h f).mgmtQ = s.mgmtQ := rfl
@[simp] theorem State.updCtx_fwHeld (s : State) (h : Nat) (f : Ctx → Ctx) : (s.updCtx h f).fwHeld = s.fwHeld := rfl
@[simp] theorem State.updCtx_queues (s : State) (h : Nat) (f : Ctx → Ctx) : (s.updCtx h f).queues = s.queues := rfl
@[simp] theorem State.updCtx_qlog (s : State) (h : Nat) (f : Ctx → Ctx) : (s.updCtx h f).qlog = s.qlog := rfl
@[simp] theorem State.updCtx_qlogOver (s : State) (h : Nat) (f : Ctx → Ctx) : (s.updCtx h f).qlogOver = s.qlogOver := rfl
@[simp] theorem State.updCtx_linkLog (s : State) (h : Nat) (f : Ctx → Ctx) : (s.updCtx h f).linkLog = s.linkLog := rfl
@[simp] theorem State.updCtx_linkLogOver (s : State) (h : Nat) (f : Ctx → Ctx) : (s.updCtx h f).linkLogOver = s.linkLogOver := rfl
@[simp] theorem State.updCtx_ioFlog (s : State) (h : Nat) (f : Ctx → Ctx) : (s.updCtx h f).ioFlog = s.ioFlog := rfl
@[simp] theorem State.updCtx_ioFlogOver (s : State) (h : Nat) (f : Ctx → Ctx) : (s.updCtx h f).ioFlogOver = s.ioFlogOver := rfl
@[simp] theorem State.updCtx_ioCycle (s : State) (h : Nat) (f : Ctx → Ctx) : (s.updCtx h f).ioCycle = s.ioCycle := rfl
@[simp] theorem State.updCtx_patch (s : State) (h : Nat) (f : Ctx → Ctx) : (s.updCtx h f).patch = s.patch := rfl
@[simp] theorem State.updCtx_loaded (s : State) (h : Nat) (f : Ctx → Ctx) : (s.updCtx h f).loaded = s.loaded := rfl
@[simp] theorem State.updCtx_posted (s : State) (h : Nat) (f : Ctx → Ctx) : (s.updCtx h f).posted = s.posted := rfl
@[simp] theorem State.updCtx_nextPosted (s : State) (h : Nat) (f : Ctx → Ctx) : (s.updCtx h f).nextPosted = s.nextPosted := rfl
@[simp] theorem State.updCtx_psns (s : State) (h : Nat) (f : Ctx → Ctx) : (s.updCtx h f).psns = s.psns := rfl
@[simp] theorem State.updCtx_rx (s : State) (h : Nat) (f : Ctx → Ctx) : (s.updCtx h f).rx = s.rx := rfl
@[simp] theorem State.updCtx_reducs (s : State) (h : Nat) (f : Ctx → Ctx) : (s.updCtx h f).reducs = s.reducs := rfl
@[simp] theorem State.updCtx_nextReduc (s : State) (h : Nat) (f : Ctx → Ctx) : (s.updCtx h f).nextReduc = s.nextReduc := rfl
@[simp] theorem State.updCtx_stors (s : State) (h : Nat) (f : Ctx → Ctx) : (s.updCtx h f).stors = s.stors := rfl
@[simp] theorem State.updCtx_nextStor (s : State) (h : Nat) (f : Ctx → Ctx) : (s.updCtx h f).nextStor = s.nextStor := rfl
@[simp] theorem State.updCtx_nextField (s : State) (h : Nat) (f : Ctx → Ctx) : (s.updCtx h f).nextField = s.nextField := rfl
@[simp] theorem State.updCtx_nextPlaced (s : State) (h : Nat) (f : Ctx → Ctx) : (s.updCtx h f).nextPlaced = s.nextPlaced := rfl
@[simp] theorem State.updCtx_out (s : State) (h : Nat) (f : Ctx → Ctx) : (s.updCtx h f).out = s.out := rfl

end Sys2Proof.Machine
end

