-- ==== Sys2Proof/Laws/Levels.lean ====
section
/-! SUPPORT. Levels: what a call, a return and a spill do (R54, R56, R58), and that translation leaves the swarms alone. -/

namespace Sys2Proof.Machine

/-- Only memory, what the home ports hold, the update-only copies and the counter of free values differ, and what a context fault
changes: a walk may meet an uncorrectable error (R215). -/
def HomeOnly (s t : State) : Prop :=
  ∃ m p u f cs xs o, t = { s with mem := m, ports := p, upd := u, fresh := f, colonies := cs, ctxs := xs, out := o }

theorem HomeOnly.refl (s : State) : HomeOnly s s := ⟨_, _, _, _, _, _, _, rfl⟩

theorem HomeOnly.trans {s t u : State} (h : HomeOnly s t) (h' : HomeOnly t u) : HomeOnly s u := by
  obtain ⟨_, _, _, _, _, _, _, rfl⟩ := h
  obtain ⟨_, _, _, _, _, _, _, rfl⟩ := h'
  exact ⟨_, _, _, _, _, _, _, rfl⟩

theorem HomeOnly.swarms {s t : State} (h : HomeOnly s t) : t.swarms = s.swarms := by obtain ⟨_, _, _, _, _, _, _, rfl⟩ := h; rfl
theorem HomeOnly.cur {s t : State} (h : HomeOnly s t) : t.cur = s.cur := by obtain ⟨_, _, _, _, _, _, _, rfl⟩ := h; rfl
theorem HomeOnly.ioCycle {s t : State} (h : HomeOnly s t) : t.ioCycle = s.ioCycle := by
  obtain ⟨_, _, _, _, _, _, _, rfl⟩ := h; rfl
theorem HomeOnly.firm {s t : State} (h : HomeOnly s t) : t.firm = s.firm := by obtain ⟨_, _, _, _, _, _, _, rfl⟩ := h; rfl

/-- A translation changes page tables and held translations, or takes a context fault (R104). -/
theorem translate_homeOnly (s : State) (asid va : Nat) (wr : Bool) : HomeOnly s (s.translate asid va wr).1 := by
  unfold State.translate
  repeat' split
  all_goals exact ⟨_, _, _, _, _, _, _, rfl⟩

theorem combine_homeOnly (pa n fuel : Nat) (s : State) : HomeOnly s (State.combine pa n fuel s) := by
  induction fuel generalizing s with
  | zero => exact .refl s
  | succ k ih =>
    unfold State.combine
    dsimp only
    split
    · exact .refl s
    · split
      · exact .refl s
      · exact .trans ⟨_, _, _, _, _, _, _, rfl⟩ (ih _)

theorem readHome_homeOnly (s : State) (asid va n : Nat) : HomeOnly s (s.readHome asid va n).1 := by
  have h := translate_homeOnly s asid va false
  unfold State.readHome
  split
  · exact .refl s
  · split <;> rename_i heq <;> rw [heq] at h
    · exact h
    · exact h
    · exact h
    · dsimp only at h ⊢
      split
      · exact h
      · exact h.trans (combine_homeOnly ..)

theorem readWords_homeOnly (asid va n : Nat) (s : State) : HomeOnly s (State.readWords asid va n s).1 := by
  induction n generalizing va s with
  | zero => exact .refl s
  | succ k ih =>
    have h := readHome_homeOnly s asid va 8
    unfold State.readWords
    split <;> rename_i heq <;> rw [heq] at h
    · rename_i s1 bs c
      have h2 := ih (va + 8) s1
      split <;> rename_i heq2 <;> rw [heq2] at h2 <;> exact h.trans h2
    · exact h

theorem readRejoin_homeOnly (e : Env) (idx : Nat) : HomeOnly e.s (readRejoin e idx).1 := by
  unfold readRejoin
  dsimp only
  split
  · exact .refl _
  · have h := readWords_homeOnly e.ctx.asid (e.fld.desc.recBase + 8 * idx) 1 e.s
    split <;> rename_i heq <;> rw [heq] at h
    · rename_i s1 w
      split
      · exact h
      · rename_i n hn
        split
        · exact h
        · have h2 := readWords_homeOnly e.ctx.asid (e.fld.desc.recBase + 8 * idx + 8) (2 * (Sys2Proof.fld w 0 2 + 1)) s1
          split <;> rename_i heq2 <;> rw [heq2] at h2 <;> exact h.trans h2
    · exact h

theorem writeRecords_swarms {asid va : Nat} {rs : List (List Byte × Bool)} {s : State} :
    (State.writeRecords asid va rs s).1.swarms = s.swarms := by
  induction rs generalizing va s with
  | nil => rfl
  | cons r rs ih =>
    have h1 := (translate_homeOnly s asid va true).swarms
    unfold State.writeRecords
    split
    · rename_i s1 m heq
      rw [heq] at h1
      split
      · dsimp only
        rw [ih]
        split <;> exact h1
      · exact h1
    · rename_i heq; rw [heq] at h1; exact h1
    · rename_i heq; rw [heq] at h1; exact h1

@[simp] theorem spillFault_swarms (s : State) (i k : Nat) (x : Spill) : (s.spillFault i k x).swarms = s.swarms := by
  cases x with
  | ok => rfl
  | poison => rfl
  | refused c va t => cases c <;> rfl

theorem spillTo_swarms (s : State) (i off : Nat) (lv : Level) : (s.spillTo i off lv).1.swarms = s.swarms := by
  unfold State.spillTo
  split
  · rfl
  · split
    · rfl
    · have h := writeRecords_swarms (asid := s.asidOf i) (va := (by assumption : Swarm).privBase + off)
        (rs := lv.image.zip lv.badRecords) (s := s)
      split <;> rename_i heq <;> rw [heq] at h <;> simpa using h

/-- A level that is spilled is marked so; one that is not leaves the swarms as they are. -/
theorem spillLevel_swarms {s t : State} {i p : Nat} {w : Swarm} {b : Bool} (hw : s.swarms[i]? = some w)
    (h : s.spillLevel i p = (t, b)) : t.swarms = if b then
        s.swarms.set i { w with under := w.under.modify p fun l => { l with spilled := true } } else s.swarms := by
  simp only [State.spillLevel, hw] at h
  split at h
  · cases h; rfl
  · rename_i lv _
    have h1 := spillTo_swarms s i (w.spillOffset p) lv
    split at h <;> rename_i heq
    · rw [heq] at h1
      cases h
      simp only [State.updSwarm_swarms, if_true]
      rw [show _ = s.swarms from h1, modify_eq_set _ hw]
    · rw [h] at h1
      cases b
      · exact h1
      · exact absurd h (heq t)

theorem contents_modify_spilled (l : List Level) (p : Nat) :
    (l.modify p fun x => { x with spilled := true }).map Level.contents = l.map Level.contents := by
  induction l generalizing p with
  | nil => simp
  | cons a r ih => cases p <;> simp [Level.contents, ih]

/-- Levels that fit are not spilled (R58). -/
theorem trim_of_fits {s : State} {i : Nat} {w : Swarm} {d : KDesc} (hw : s.swarms[i]? = some w) (hd : s.descOf i = some d)
    (hf : w.fits d.frame) (n : Nat) : s.trim i n = s := by
  cases n with
  | zero => rfl
  | succ n =>
    have : w.overfull d.frame = false := by
      simp only [Swarm.overfull, Swarm.fits] at hf ⊢
      simp only [List.length_cons, List.map_cons, List.sum_cons, Bool.or_eq_false_iff, decide_eq_false_iff_not]
      omega
    simp [State.trim, hw, hd, this]

/-- Spilling changes no level's contents (R58). -/
theorem trim_swarm {s : State} {i : Nat} {w : Swarm} (hw : s.swarms[i]? = some w) (n : Nat) :
    ∃ under, (s.trim i n).swarms[i]? = some { w with under := under }
      ∧ under.map Level.contents = w.under.map Level.contents := by
  induction n generalizing s w with
  | zero => exact ⟨w.under, hw, rfl⟩
  | succ n ih =>
    simp only [State.trim, hw]
    split
    · rename_i w' d hw' hd
      cases hw'
      split
      · split
        · exact ⟨w.under, hw, rfl⟩
        · rename_i p hp
          have hlt : i < s.swarms.length := by
            rcases Nat.lt_or_ge i s.swarms.length with hl | hl
            · exact hl
            · simp [List.getElem?_eq_none hl] at hw
          split <;> rename_i s1 heq <;> have h1 := spillLevel_swarms hw heq
          · have h2 : s1.swarms[i]? = some { w with under := w.under.modify p fun l => { l with spilled := true } } := by
              simp only [h1, if_true]; exact List.getElem?_set_self hlt
            obtain ⟨u, hu, hc⟩ := ih h2
            exact ⟨u, hu, hc.trans (contents_modify_spilled _ _)⟩
          · exact ⟨w.under, by simpa [h1] using hw, rfl⟩
      · exact ⟨w.under, hw, rfl⟩
    · exact ⟨w.under, hw, rfl⟩

/-- The swarm that an issue leaves, whatever its effects did to it. -/
theorem finishIssue_swarm {e : Env} {c : Ctrl} {s : State} {w : Swarm} {op : Option (OpBody × Option Nat)}
    {pc : Option (BitVec 52)} (hw : s.swarms[e.i]? = some w) :
    (finishIssue e c s op pc).swarms[e.i]? = some (w.issued c e.cycle s.ioCycle op pc) := by
  simp [finishIssue, State.updSwarm, hw]

theorem descOf_env {s : State} {i : Nat} {e : Env} (h : envOf s i = some e) (g : Swarm → Swarm)
    (hg : (g e.w).colony = e.w.colony) : (s.updSwarm i g).descOf i = some e.fld.desc := by
  obtain ⟨hs, hi, hw, hc, hf, _⟩ := envOf_spec h
  simp [State.descOf, State.updSwarm, hw, hg, hc, hf]

/-- An instruction that opens a level or a window and goes on. -/
theorem opened_of_trim {s : State} {e : Env} {c : Ctrl} {n : Nat} {g : Swarm → Swarm} {pc : Option (BitVec 52)}
    (h : envOf s s.cur = some e) (hg : (g e.w).colony = e.w.colony) :
    Opened e ((g e.w).moved e.cycle (pc.getD ((g e.w).pc + 8)))
      (finishIssue e c ((e.s.updSwarm e.i g).trim e.i n) none pc) := by
  obtain ⟨hs, hi, hw, _⟩ := envOf_spec h
  have hw1 : (e.s.updSwarm e.i g).swarms[e.i]? = some (g e.w) := by simp [hs, hi, hw]
  refine ⟨fun hf => ?_, ?_⟩
  · have hd : (e.s.updSwarm e.i g).descOf e.i = some e.fld.desc := by rw [hs, hi]; exact descOf_env h g hg
    rw [trim_of_fits hw1 hd hf, finishIssue_upd h, hs]; rfl
  · obtain ⟨u, hu, hc⟩ := trim_swarm hw1 n
    exact ⟨u, finishIssue_swarm hu, hc⟩

end Sys2Proof.Machine
end

