-- ==== Sys2Proof/Laws/Memory.lean ====
section
/-! SUPPORT. Sparse memories: read after write, and the canonical form that every operation keeps. -/

namespace Sys2Proof.Machine

variable {α : Type} [DecidableEq α]

/-- A canonical list has the default at every key below its bound. -/
theorem spGet_below {d : α} {m : List (Nat × α)} {lo a : Nat} (h : spWfFrom d lo m = true) (ha : a < lo) :
    spGet d m a = d := by
  induction m generalizing lo with
  | nil => rfl
  | cons p r ih =>
    obtain ⟨k, v⟩ := p
    simp only [spWfFrom, Bool.and_eq_true, decide_eq_true_eq] at h
    have hk : k ≠ a := by omega
    simpa [spGet, hk] using ih h.2 (by omega)

theorem spWfFrom_mono {d : α} {m : List (Nat × α)} {lo lo' : Nat} (h : spWfFrom d lo m = true) (hl : lo' ≤ lo) :
    spWfFrom d lo' m = true := by
  cases m with
  | nil => rfl
  | cons p r =>
    simp only [spWfFrom, Bool.and_eq_true, decide_eq_true_eq] at h ⊢
    exact ⟨⟨by omega, h.1.2⟩, h.2⟩

/-- A write keeps the canonical form. -/
theorem spPut_wf {d : α} {m : List (Nat × α)} {lo a : Nat} (x : α) (h : spWfFrom d lo m = true) (ha : lo ≤ a) :
    spWfFrom d lo (spPut d m a x) = true := by
  induction m generalizing lo with
  | nil => by_cases hx : x = d <;> simp [spPut, spWfFrom, hx, ha]
  | cons p r ih =>
    obtain ⟨k, v⟩ := p
    simp only [spWfFrom, Bool.and_eq_true, decide_eq_true_eq] at h
    obtain ⟨⟨hk, hv⟩, hr⟩ := h
    simp only [spPut]
    split
    · split
      · simp [spWfFrom, hk, hv, hr]
      · rename_i hx
        simp [spWfFrom, ha, hx, hv, hr]; omega
    · split
      · rename_i hak
        subst hak
        split
        · exact spWfFrom_mono hr (by omega)
        · rename_i hx
          simp [spWfFrom, hk, hx, hr]
      · simp [spWfFrom, hk, hv, ih hr (by omega)]

/-- Reading after a write: the value written at its key, the old one elsewhere. -/
theorem spGet_spPut {d : α} {m : List (Nat × α)} {lo : Nat} (h : spWfFrom d lo m = true) (a b : Nat) (x : α) :
    spGet d (spPut d m a x) b = if a = b then x else spGet d m b := by
  induction m generalizing lo with
  | nil => by_cases hx : x = d <;> by_cases hab : a = b <;> simp [spPut, spGet, hx, hab]
  | cons p r ih =>
    obtain ⟨k, v⟩ := p
    simp only [spWfFrom, Bool.and_eq_true, decide_eq_true_eq] at h
    obtain ⟨⟨hk, hv⟩, hr⟩ := h
    simp only [spPut]
    split
    · rename_i hak
      split
      · rename_i hx
        by_cases hab : a = b
        · subst hab
          have : k ≠ a := by omega
          simp [spGet, this, hx, spGet_below hr (show a < k + 1 by omega)]
        · simp [hab]
      · by_cases hab : a = b <;> simp [spGet, hab]
    · split
      · rename_i hak
        subst hak
        split
        · rename_i hx
          by_cases hab : a = b
          · subst hab; simp [hx, spGet_below hr (show a < a + 1 by omega)]
          · simp [spGet, hab]
        · by_cases hab : a = b <;> simp [spGet, hab]
      · rename_i h1 h2
        by_cases hkb : k = b
        · have : a ≠ b := by omega
          simp [spGet, hkb, this]
        · simp [spGet, hkb, ih hr]

/-- Dropping entries keeps the canonical form. -/
theorem spFilter_wf {d : α} {m : List (Nat × α)} {lo : Nat} (p : Nat × α → Bool) (h : spWfFrom d lo m = true) :
    spWfFrom d lo (m.filter p) = true := by
  induction m generalizing lo with
  | nil => rfl
  | cons c r ih =>
    obtain ⟨k, v⟩ := c
    simp only [spWfFrom, Bool.and_eq_true, decide_eq_true_eq] at h
    by_cases hp : p (k, v)
    · simp [hp, spWfFrom, h.1.1, h.1.2, ih h.2]
    · simp [hp, spWfFrom_mono (ih h.2) (show lo ≤ k + 1 by omega)]

theorem memPut_wf {m : List Host.Cell} (h : Memory.wf m = true) (a : Nat) (b : Byte) : Memory.wf (memPut m a b) = true :=
  spPut_wf b h (Nat.zero_le a)

theorem memPutBytes_wf {m : List Host.Cell} (h : Memory.wf m = true) (a : Nat) (bs : List Byte) :
    Memory.wf (memPutBytes m a bs) = true := by
  induction bs generalizing m a with
  | nil => exact h
  | cons b r ih => exact ih (memPut_wf h a b) (a + 1)

theorem memFilter_wf {m : List Host.Cell} (h : Memory.wf m = true) (p : Host.Cell → Bool) :
    Memory.wf (m.filter p) = true := spFilter_wf p h

/-- A byte after a write of one byte. -/
theorem memGet_memPut {m : List Host.Cell} (h : Memory.wf m = true) (a b : Nat) (x : Byte) :
    memGet (memPut m a x) b = if a = b then x else memGet m b := spGet_spPut h a b x

/-- A byte after a write of several: the byte written, or the old one outside them. -/
theorem memGet_memPutBytes {m : List Host.Cell} (h : Memory.wf m = true) (a b : Nat) (bs : List Byte) :
    memGet (memPutBytes m a bs) b = if a ≤ b ∧ b < a + bs.length then bs.getD (b - a) 0 else memGet m b := by
  induction bs generalizing m a with
  | nil => simp [memPutBytes]
  | cons x r ih =>
    rw [memPutBytes, ih (memPut_wf h a x), memGet_memPut h]
    by_cases h1 : a + 1 ≤ b ∧ b < a + 1 + r.length
    · have h2 : a ≤ b ∧ b < a + (x :: r).length := by simp only [List.length_cons]; omega
      rw [if_pos h1, if_pos h2, show b - a = (b - (a + 1)) + 1 by omega]; simp
    · rw [if_neg h1]
      by_cases hab : a = b
      · subst hab; simp
      · have h2 : ¬ (a ≤ b ∧ b < a + (x :: r).length) := by simp only [List.length_cons]; omega
        rw [if_neg hab, if_neg h2]

theorem memBytes_length (m : List Host.Cell) (a n : Nat) : (memBytes m a n).length = n := by
  induction n generalizing a with
  | zero => rfl
  | succ n ih => simp [memBytes, ih]

/-- Two canonical memories with the same bytes are the same list. -/
theorem spWf_ext {d : α} {m m' : List (Nat × α)} {lo : Nat} (h : spWfFrom d lo m = true) (h' : spWfFrom d lo m' = true)
    (e : ∀ a, spGet d m a = spGet d m' a) : m = m' := by
  induction m generalizing lo m' with
  | nil =>
    cases m' with
    | nil => rfl
    | cons p r =>
      obtain ⟨k, v⟩ := p
      simp only [spWfFrom, Bool.and_eq_true, decide_eq_true_eq] at h'
      have := e k
      simp [spGet] at this
      exact absurd this.symm h'.1.2
  | cons p r ih =>
    obtain ⟨k, v⟩ := p
    have hw := h
    simp only [spWfFrom, Bool.and_eq_true, decide_eq_true_eq] at h
    cases m' with
    | nil =>
      have := e k
      simp [spGet] at this
      exact absurd this h.1.2
    | cons p' r' =>
      obtain ⟨k', v'⟩ := p'
      have hw' := h'
      simp only [spWfFrom, Bool.and_eq_true, decide_eq_true_eq] at h'
      have hk : k = k' := by
        rcases Nat.lt_trichotomy k k' with hlt | heq | hlt
        · have := e k
          have h1 : spGet d ((k', v') :: r') k = d := by
            have hne : k' ≠ k := by omega
            simp [spGet, hne, spGet_below h'.2 (show k < k' + 1 by omega)]
          rw [h1] at this
          simp [spGet] at this
          exact absurd this h.1.2
        · exact heq
        · have := e k'
          have h1 : spGet d ((k, v) :: r) k' = d := by
            have hne : k ≠ k' := by omega
            simp [spGet, hne, spGet_below h.2 (show k' < k + 1 by omega)]
          rw [h1] at this
          simp [spGet] at this
          exact absurd this.symm h'.1.2
      subst hk
      have hv : v = v' := by have := e k; simpa [spGet] using this
      subst hv
      have hr : r = r' := by
        refine ih h.2 h'.2 fun a => ?_
        by_cases hak : k = a
        · subst hak
          rw [spGet_below h.2 (by omega), spGet_below h'.2 (by omega)]
        · have := e a
          simpa [spGet, hak] using this
      rw [hr]

end Sys2Proof.Machine
end

