-- ==== Sys2Proof/Laws/Results.lean ====
section
/-! SUPPORT. Lemmas about results: the form in which an issue leaves them in flight and in which they land. -/

namespace Sys2Proof.Machine

theorem el64_map (f : Nat → W64) (l : Nat) (h : l < 64) : el64 (laneList.map f) l = f l := by
  simp [el64, laneList, List.getD_eq_getElem?_getD, h]

theorem allLanes_iff (m : W64) : (m != allLanes) = (List.range 64).any fun l => !m.getLsbD l := by
  rw [Bool.eq_iff_iff]
  simp only [bne_iff_ne, ne_eq, List.any_eq_true, List.mem_range, Bool.not_eq_true']
  have hall : ∀ i, allLanes.getLsbD i = decide (i < 64) := fun i => by
    rw [show allLanes = BitVec.allOnes 64 from rfl, BitVec.getLsbD_allOnes]
  constructor
  · intro h
    by_contra hc
    apply h
    apply BitVec.eq_of_getLsbD_eq
    intro i hi
    rw [hall, decide_eq_true hi]
    cases hm : m.getLsbD i with
    | true => rfl
    | false => exact absurd ⟨i, hi, hm⟩ hc
  · rintro ⟨l, hl, h⟩ rfl
    rw [hall, decide_eq_true hl] at h
    cases h

theorem endOp_eq (w : Swarm) (o : Op) : w.endOp o = w.opEnded o := by
  have hm : ∀ (l : List Nat) (n : Nat), l.modify n (· - 1) = l.set n (l.getD n 0 - 1) := by
    intro l n
    rcases Nat.lt_or_ge n l.length with h | h
    · rw [modify_eq_set (x := l[n]) _ (by simp [h])]
      simp [List.getD_eq_getElem?_getD, h]
    · rw [List.modify_eq_self h, List.set_eq_of_length_le h]
  simp only [Swarm.endOp, Swarm.opEnded, Swarm.flag]
  cases o.flag with
  | none => rfl
  | some n => simp only [hm]

theorem landsNext_of {s : State} {sw cycle : Nat} {o : Op} {w : Swarm} (hw : s.swarms[sw]? = some w)
    (h : ∀ p ∈ w.ops, ∀ d, p.due = some d → d ≤ cycle → p.id ≠ o.id → ∃ t, o.due = some t ∧ (t < d ∨ t = d ∧ o.id < p.id)) :
    s.landsNext sw cycle o = true := by
  simp only [State.landsNext, hw, List.all_eq_true, Bool.not_eq_true']
  intro p hp
  unfold Op.landsBefore
  cases hd : p.due with
  | none => rfl
  | some d =>
    by_cases h1 : d ≤ cycle <;> by_cases h2 : p.id = o.id <;> simp [h1, h2]
    obtain ⟨t, ht, hlt⟩ := h p hp d hd h1 h2
    simp [ht]
    omega

theorem onOp_due {s : State} {sw op : Nat} {a : Actor} {o : Op} {w : Swarm} {f : Actor → Op → State → Option State} {t : State}
    (h : Due s sw op a o w) (hf : f a o s = some t) : onOp sw op f s = .next t := by
  obtain ⟨h1, h2, h3, h4, h5⟩ := h
  have ho : s.op? sw op = some o := by simp [State.op?, h1, h2]
  have hd : o.isDue (s.cycleOf a.k.1) = true := by
    unfold Op.isDue
    cases hdd : o.due with
    | none => rfl
    | some d => simp [h4 d hdd]
  have hl : s.landsNext sw (s.cycleOf a.k.1) o = true := landsNext_of h1 h5
  simp [onOp, ho, h3, hd, hl, hf]

theorem finish_eq {s : State} {sw : Nat} {o : Op} {w : Swarm} (h : s.swarms[sw]? = some w) :
    finish sw o s = s.goesOn sw (w.opEnded o) := by
  simp only [finish, State.goesOn, State.updSwarm, modify_eq_set _ h, endOp_eq]

theorem set_getElem? {α : Type} {l : List α} {i : Nat} {x y : α} (h : l[i]? = some x) : (l.set i y)[i]? = some y :=
  List.getElem?_set_self (List.getElem?_eq_some_iff.mp h).1

theorem finish_upd {s : State} {sw : Nat} {o : Op} {w : Swarm} {g : Swarm → Swarm} (h : s.swarms[sw]? = some w) :
    finish sw o (s.updSwarm sw g) = s.goesOn sw ((g w).opEnded o) := by
  rw [finish_eq (w := g w) (by simp [h])]
  simp only [State.goesOn, State.updSwarm, modify_eq_set _ h, List.set_set]

theorem landAll_eq (id : Nat) (vecs : List (W64 × List W32)) (w : Swarm) : Swarm.landAll id 0 vecs w = w.landed id vecs := by
  let slotF (k : Nat) (vs : List (W64 × List W32)) (sl : Slot) : Slot :=
    match sl.busy with
    | none => sl
    | some (i, p) => if i = id ∧ k ≤ p then (match vs[p - k]? with
        | none => sl
        | some (m, d) => ⟨mergeLanes m d sl.data, sl.taint, none, sl.bad⟩) else sl
  let lvF (k : Nat) (vs : List (W64 × List W32)) (lv : Level) : Level :=
    { lv with queue := lv.queue.map (slotF k vs), win := lv.win.map (slotF k vs) }
  have hs : ∀ k m d r sl, slotF (k + 1) r (Slot.land id k m d sl) = slotF k ((m, d) :: r) sl := by
    intro k m d r sl
    simp only [slotF, Slot.land]
    cases hb : sl.busy with
    | none => simp [hb]
    | some b =>
      obtain ⟨i, p⟩ := b
      by_cases h1 : i = id
      · subst h1
        by_cases h2 : p = k
        · subst h2; simp
        · by_cases h3 : k ≤ p
          · have h4 : k + 1 ≤ p := by omega
            have h5 : p - k = (p - (k + 1)) + 1 := by omega
            simp [hb, h2, h3, h4, h5]
          · have h4 : ¬ k + 1 ≤ p := by omega
            simp [hb, h2, h3, h4]
      · simp [hb, h1]
  have hl : ∀ k m d r lv, lvF (k + 1) r (Level.land id k m d lv) = lvF k ((m, d) :: r) lv := by
    intro k m d r lv
    simp only [lvF, Level.land, List.map_map]
    congr 1 <;> · apply List.map_congr_left; intro x _; exact hs _ _ _ _ _
  have key : ∀ vs k w, Swarm.landAll id k vs w = { w with top := lvF k vs w.top, under := w.under.map (lvF k vs) } := by
    intro vs
    induction vs with
    | nil =>
      intro k w
      have h0 : ∀ sl, slotF k [] sl = sl := by
        intro sl; simp only [slotF]
        split
        · rfl
        · split <;> simp
      have h1 : ∀ lv, lvF k [] lv = lv := by
        intro lv; simp only [lvF]; rw [List.map_congr_left (fun x _ => h0 x), List.map_congr_left (fun x _ => h0 x)]; simp
      rw [Swarm.landAll, h1, List.map_congr_left (fun x _ => h1 x)]; simp
    | cons v r ih =>
      intro k w
      obtain ⟨m, d⟩ := v
      rw [Swarm.landAll, ih]
      simp only [hl, List.map_map]
      congr 1
      apply List.map_congr_left; intro x _; exact hl _ _ _ _ _
  rw [key]
  have h0 : ∀ sl, slotF 0 vecs sl = Slot.landed id vecs sl := by
    intro sl
    simp only [slotF, Slot.landed, Nat.zero_le, and_true, Nat.sub_zero]
    rfl
  have h1 : ∀ lv, lvF 0 vecs lv = Level.landed id vecs lv := by
    intro lv; simp only [lvF, Level.landed]; rw [funext h0]
  simp only [Swarm.landed, h1]
  rw [List.map_congr_left (fun x _ => h1 x)]

theorem maskBit_eq (e : Env) (k : KReg) (l : Nat) (h : l < 64) : (e.mask k).getLsbD l = e.maskBit k l := by
  simp only [Env.mask, Level.mask, Env.maskBit]
  by_cases hk : k.val = 0
  · simp only [hk, if_true, decide_true, Bool.true_or]
    rw [show allLanes = BitVec.allOnes 64 from rfl, BitVec.getLsbD_allOnes, decide_eq_true h]
  · simp [hk]

theorem pre_vecs {e : Env} {vs : List (Operand × Bool)} (hv : ∀ p ∈ vs, e.operandOk p.1 p.2) :
    e.pre [] (vs.map fun p => .vec p.1 p.2) = none := by
  simpa using pre_none (e := e) (named := []) (read := []) (vs := vs) ⟨by simp, by simp, by simp⟩ hv

/-- Pushes over slots without an uncorrectable error read none (R44). -/
theorem pushAllReads_false {l : List Slot} {ps : List Push} (h : ∀ sl ∈ l.take ps.length, sl.bad = false) :
    Level.pushAllReads l ps = false := by
  induction l generalizing ps with
  | nil => cases ps <;> rfl
  | cons a r ih =>
    cases ps with
    | nil => rfl
    | cons p ps =>
      simp only [List.length_cons, List.take_succ_cons, List.mem_cons, forall_eq_or_imp] at h
      simp [Level.pushAllReads, h.1, ih h.2]

theorem pushes_state {s : State} {e : Env} {c : Ctrl} {m : W64} {t : Bool} {vs : List (List W32)} {lat : Option Nat}
    (h : envOf s s.cur = some e) (hb : ∀ sl ∈ e.w.top.queue.reverse.take vs.length, sl.bad = false) :
    ∃ s' op, pushes e m t vs lat = .go s' op none ∧ finishIssue e c s' op none = pushedState s e c lat m t vs := by
  have hr : Level.pushAllReads e.w.top.queue.reverse (vs.map fun v => (⟨m, t, v⟩ : Push)) = false :=
    pushAllReads_false (by simpa using hb)
  refine ⟨_, _, by simp only [pushes, pushEntries, hr, Bool.false_eq_true, if_false]; rfl, ?_⟩
  rw [finishIssue_upd h, Env.issued_top]
  simp only [pushedState, List.map_map]
  rfl

theorem el_zipWith (f : W32 → W32 → W32) (A B : List W32) (l : Nat) (h1 : l < A.length) (h2 : l < B.length) :
    el (List.zipWith f A B) l = f (el A l) (el B l) := by
  simp [el, List.getD_eq_getElem?_getD, h1, h2]

theorem el64_zipWith (f : W64 → W64 → W64) (A B : List W64) (l : Nat) (h1 : l < A.length) (h2 : l < B.length) :
    el64 (List.zipWith f A B) l = f (el64 A l) (el64 B l) := by
  simp [el64, List.getD_eq_getElem?_getD, h1, h2]

theorem lanes_length (f : Nat → W32) : (lanes f).length = 64 := by simp [lanes, laneList]

theorem read_length (e : Env) (j : Nat) (o : Operand) : (e.read j o).length = 64 := by
  cases o <;> simp only [Env.read, lanes_length]
  all_goals
    split
    · simp [splat, lanes_length]
    · simp only [Env.slotVal, Env.freeVec]; split <;> simp [lanes_length]

theorem read64_length (e : Env) (j : Nat) (o : Operand) : (e.read64 j o).length = 64 := by
  cases o <;> simp [Env.read64, laneList]

theorem scalarBin_eq {s : State} {e : Env} {c : Ctrl} {d a b : SReg} {f : W64 → W64 → W64} (h : Issues s e c {} false)
    (ho : e.scalarsOk [d.val, a.val, b.val] [a.val, b.val]) : scalarBin c d a b f s = .next (s.issuedTo (e.launched c (some 2)
        (.result [] [(d.val, f (e.scalar 0 a.val) (e.scalar 1 b.val))] none none))) := by
  have hp := pre_none (vs := []) ho (by simp)
  simp only [List.map_nil, List.append_nil, List.map_cons] at hp
  refine (issue_go h (by simp only [hp, orTrap_none, scalarResult]; rfl)).trans ?_
  rw [finishIssue_self h.1, Env.issued_op]; rfl

theorem scalarImm_eq {s : State} {e : Env} {c : Ctrl} {d a : SReg} {v : W64} {f : W64 → W64 → W64} (h : Issues s e c {} false)
    (ho : e.scalarsOk [d.val, a.val] [a.val]) : scalarImm c d a v f s = .next (s.issuedTo (e.launched c (some 2)
        (.result [] [(d.val, f (e.scalar 0 a.val) v)] none none))) := by
  have hp := pre_none (vs := []) ho (by simp)
  simp only [List.map_nil, List.append_nil, List.map_cons] at hp
  refine (issue_go h (by simp only [hp, orTrap_none, scalarResult]; rfl)).trans ?_
  rw [finishIssue_self h.1, Env.issued_op]; rfl

theorem num_mod {n : Nat} (t : IntT) (x : BitVec n) : numOf t x % (2 ^ n : Nat) = x.toNat := by
  cases t <;> simp only [numOf]
  · rw [BitVec.toInt_eq_toNat_bmod, Int.bmod_emod]; exact Int.emod_eq_of_lt (by omega) (by exact_mod_cast x.isLt)
  · exact Int.emod_eq_of_lt (by omega) (by exact_mod_cast x.isLt)
  · rw [BitVec.toInt_eq_toNat_bmod, Int.bmod_emod]; exact Int.emod_eq_of_lt (by omega) (by exact_mod_cast x.isLt)
  · exact Int.emod_eq_of_lt (by omega) (by exact_mod_cast x.isLt)

/-- An instruction that pushes leaves `pushedState`. -/
theorem issue_pushes {s : State} {e : Env} {c : Ctrl} {n : Need} {f : Env → Act} {m : W64} {t : Bool} {vs : List (List W32)}
    {lat : Option Nat} (h : Runs s e c n false) (hn : n.pushes = vs.length) (hf : f e = pushes e m t vs lat) :
    issue c n false f s = .next (pushedState s e c lat m t vs) := by
  obtain ⟨h, hb⟩ := h
  obtain ⟨s', op, h1, h2⟩ := pushes_state (c := c) (m := m) (t := t) (vs := vs) (lat := lat) h.1 (hn ▸ hb)
  exact (issue_go h (s' := s') (op := op) (pc := none) (hf.trans h1)).trans (by rw [h2])

/-- The halves of a wide element. -/
theorem hi_lo (x : W64) : hi32 x ++ lo32 x = x := by
  apply BitVec.eq_of_getLsbD_eq
  intro i hi
  rw [BitVec.getLsbD_append]
  simp only [hi32, lo32, BitVec.getLsbD_setWidth, BitVec.getLsbD_ushiftRight]
  by_cases h : i < 32
  · simp [h]
  · simp only [h, decide_false, Bool.false_and, if_false]
    have : i - 32 < 32 := by omega
    simp [this, show 32 + (i - 32) = i by omega]

end Sys2Proof.Machine
end

