-- ==== Sys2Proof/Laws/Traps.lean ====
section
/-! SUPPORT. Lemmas about calls, traps and the conditions of issue. -/

namespace Sys2Proof.Machine

theorem callee_eq (lv : Level) (n : Nat) (r : BitVec 52) (h : n ≤ lv.queue.length) : lv.callee n r = lv.opened n r := by
  simp only [Level.callee, Level.opened, Level.depth]
  congr 1
  apply List.ext_getElem?
  intro j
  rw [List.getElem?_append, List.getElem?_map, List.getElem?_map, List.getElem?_take]
  by_cases hj : j < lv.queue.length <;> by_cases hn : j < n <;> simp [hj, hn, List.getElem?_replicate, h] <;> omega

theorem foldr_push (l : List Slot) (lv : Level) (h : l.length ≤ lv.queue.length) :
    l.foldr (fun sl lv => lv.pushNow sl) lv =
      { lv with
        queue := l ++ lv.queue.take (lv.queue.length - l.length)
        arms := if lv.fork && l.length != 0 then lv.arms.modify lv.cur fun a => { a with count := min 127 (a.count + l.length) } else lv.arms } := by
  induction l with
  | nil => simp
  | cons a r ih =>
    have h' : r.length ≤ lv.queue.length := by simp at h; omega
    rw [List.foldr_cons, ih h']
    simp only [Level.pushNow, Level.countPush]
    have hq : (r ++ lv.queue.take (lv.queue.length - r.length)).dropLast = r ++ lv.queue.take (lv.queue.length - (r.length + 1)) := by
      have hne : lv.queue.take (lv.queue.length - r.length) ≠ [] := by
        intro hh
        have := congrArg List.length hh
        simp at this h; omega
      rw [List.dropLast_append_of_ne_nil hne]
      rw [List.dropLast_eq_take, List.take_take]
      congr 2
      simp; omega
    rw [hq]
    by_cases hf : lv.fork = true
    · simp only [hf, Bool.true_and, if_true, List.length_cons, List.cons_append]
      congr 1
      apply List.ext_getElem?
      intro j
      rcases Nat.eq_zero_or_pos r.length with h0 | h0
      · simp [h0]
      · have h1 : r.length ≠ 0 := by omega
        simp only [bne_iff_ne, ne_eq, h1, not_false_eq_true, if_true, Nat.add_eq_zero_iff, Nat.one_ne_zero, and_false]
        simp only [List.getElem?_modify]
        split
        · cases lv.arms[j]? with
          | none => rfl
          | some a => simp; omega
        · simp
    · simp [hf]

theorem dropTokens_eq (i : Nat) (t : Tile) : Tile.dropTokens [i] t = if t.token = some i then { t with token := none } else t := by
  unfold Tile.dropTokens
  cases h : t.token with
  | none => simp
  | some k => by_cases hk : k = i <;> simp [hk]

theorem set_modify {α : Type} (l : List α) (i : Nat) (x : α) (f : α → α) : (l.set i x).modify i f = l.set i (f x) := by
  rcases Nat.lt_or_ge i l.length with h | h
  · rw [modify_eq_set _ (List.getElem?_set_self h), List.set_set]
  · rw [List.set_eq_of_length_le h, List.modify_eq_self h, List.set_eq_of_length_le h]

theorem takeTrap_free {s : State} {i : Nat} {w : Swarm} {t : Trap} {r : BitVec 52} (h : HandlerFree s i w) :
    takeTrap i t r s = ({ s with swarms := s.swarms.set i (w.takeTrap t r) } : State).tryEnter i := by
  obtain ⟨hw, h1, h2, h3⟩ := h
  have h4 : (decide (s.tvecOf i = 0) || decide (w.depth ≥ 1024)) = false := by
    simp only [Swarm.depth, Bool.or_eq_false_iff, decide_eq_false_iff_not]; exact ⟨h2, by simp; omega⟩
  simp only [takeTrap, hw, h1, h4]
  simp only [State.updSwarm, modify_eq_set _ hw]
  rfl

theorem rec0_fields (t : Trap) : t.rec0.extractLsb' 56 8 = BitVec.ofNat 8 t.code ∧ t.rec0.extractLsb' 48 8 = BitVec.ofNat 8 t.cause
    ∧ t.rec0.extractLsb' 40 8 = 0 ∧ t.rec0.extractLsb' 34 6 = BitVec.ofNat 6 t.lane
    ∧ t.rec0.extractLsb' 33 1 = BitVec.ofBool t.deferred ∧ t.rec0.extractLsb' 0 33 = 0 := by
  simp only [Trap.rec0]
  refine ⟨?_, ?_, ?_, ?_, ?_, ?_⟩ <;>
  · apply BitVec.eq_of_getLsbD_eq
    intro i hi
    rw [BitVec.getLsbD_extractLsb']
    simp only [BitVec.getLsbD_append, hi, decide_true, Bool.true_and]
    repeat' split
    all_goals first | omega | skip
    all_goals first | rfl | (congr 1; omega)

theorem enter_eq (w : Swarm) (t : Trap) (r tv : BitVec 52) : (w.takeTrap t r).enterHandler tv = w.inHandler t r tv := by
  simp only [Swarm.takeTrap, Swarm.enterHandler, Swarm.inHandler, TrapState.taken, Level.depth, Swarm.depth]
  rw [callee_eq _ _ _ (Nat.le_refl _)]
  rfl

theorem inHandler_fits {w : Swarm} {frame : Nat} (t : Trap) (r tv : BitVec 52)
    (h2 : (w.under.filter fun l => !l.spilled).length ≤ 2)
    (h3 : ((w.top :: w.under.filter fun l => !l.spilled).map fun l => l.win.length).sum ≤ frame) :
    (w.inHandler t r tv).fits frame := by
  simp only [Swarm.fits, Swarm.inHandler, Level.opened]
  simp only [List.map_cons, List.sum_cons] at h3
  by_cases hsp : w.top.spilled = true
  · simp only [List.filter_cons, hsp, Bool.not_true]
    simp; omega
  · simp only [List.filter_cons, hsp]
    simp; omega

theorem issue_obeys {post : State → State} {s t : State} {c : Ctrl} {n : Need} {rep : Bool} {f : Env → Act}
    (h : issueWith post c n rep f s = .next t) : ∃ e, envOf s s.cur = some e ∧ e.w.wait = none
      ∧ (∀ n, e.w.lastIssue = some n → n + max c.dist.val 1 ≤ e.cycle)
      ∧ (∀ n < 12, c.wait.val.testBit n = true → e.w.flag n = 0)
      ∧ (∀ n : Fin 12, c.setf = some n → e.w.flag n.val < 63) := by
  obtain ⟨e, he, hr, _⟩ := issueWith_cases h
  simp only [Env.ready, Bool.and_eq_true, Env.distOk, Env.waitOk, Env.setfOk, Option.isNone_iff_eq_none, List.all_eq_true, List.mem_range, Bool.or_eq_true, beq_iff_eq, Bool.not_eq_eq_eq_not, Bool.not_true] at hr
  obtain ⟨⟨⟨⟨⟨⟨⟨⟨⟨⟨⟨⟨⟨h1, _⟩, _⟩, h3⟩, h4⟩, h5⟩, _⟩, _⟩, _⟩, _⟩, _⟩, _⟩, _⟩, _⟩ := hr
  refine ⟨e, he, h1, ?_, ?_, ?_⟩
  · intro n hn
    rw [hn] at h3
    simpa using h3
  · intro n hn hb
    rcases h4 n hn with h | h
    · rw [hb] at h; cases h
    · exact h.1
  · intro n hn
    rw [hn] at h5
    simp only [decide_eq_true_eq] at h5
    omega

theorem firstFault_none {l : List FaultRec} (h : firstFault l = none) : l = [] := by
  cases l with
  | nil => rfl
  | cons f r =>
    simp only [firstFault] at h
    split at h
    · cases h
    · split at h <;> cases h

theorem firstFault_spec {l : List FaultRec} {f : FaultRec} (h : firstFault l = some f) :
    f ∈ l ∧ ∀ g ∈ l, f.order < g.order ∨ (f.order = g.order ∧ f.cause ≤ g.cause) := by
  induction l generalizing f with
  | nil => cases h
  | cons a r ih =>
    simp only [firstFault] at h
    split at h
    · rename_i hn
      have := firstFault_none hn
      subst this
      cases h
      simp
    · rename_i g hg
      obtain ⟨hm, hl⟩ := ih hg
      split at h
      · rename_i hb
        cases h
        refine ⟨by simp [hm], ?_⟩
        intro x hx
        simp only [List.mem_cons] at hx
        rcases hx with rfl | hx
        · simp only [faultBefore, Bool.or_eq_true, decide_eq_true_eq, Bool.and_eq_true, beq_iff_eq] at hb
          omega
        · exact hl x hx
      · rename_i hb
        cases h
        refine ⟨by simp, ?_⟩
        intro x hx
        simp only [List.mem_cons] at hx
        rcases hx with rfl | hx
        · omega
        · have := hl x hx
          simp only [faultBefore, Bool.or_eq_true, decide_eq_true_eq, Bool.and_eq_true, beq_iff_eq] at hb
          omega

theorem issue_reports {post : State → State} {s t : State} {c : Ctrl} {n : Need} {rep : Bool} {f : Env → Act} {e : Env}
    (h : issueWith post c n rep f s = .next t) (he : envOf s s.cur = some e) (hi : e.w.trap.intrap = false)
    (hd : rep = true ∨ e.w.faultsFull = true ∨ ∃ f ∈ e.w.faults, ∃ n, f.flag = some n ∧ c.wait.val.testBit n.val = true)
    (hf : e.w.faults ≠ []) :
    ∃ f ∈ e.w.faults, (∀ g ∈ e.w.faults, f.order < g.order ∨ (f.order = g.order ∧ f.cause ≤ g.cause))
      ∧ t = takeTrap s.cur ⟨10, f.cause, lowLane f.lanes, f.lanes, BitVec.ofNat 64 f.va, some f.pc, true⟩ e.w.pc
          { s with swarms := s.swarms.set s.cur { e.w with
              faults := e.w.faults.erase f
              faultsFull := e.w.faultsFull && !(e.w.faults.erase f).isEmpty } } := by
  obtain ⟨e', he', hr, hc⟩ := issueWith_cases h
  rw [he] at he'; cases he'
  have hdue : e.reportDue c rep = true := by
    simp only [Env.reportDue, hi, Bool.not_false, Bool.true_and, Bool.and_eq_true, Bool.not_eq_true', List.isEmpty_eq_false_iff, hf, ne_eq, not_false_eq_true, true_and, Bool.or_eq_true]
    rcases hd with h1 | h1 | ⟨x, hx, m, hm, hb⟩
    · exact .inl (.inl h1)
    · exact .inl (.inr h1)
    · refine .inr ?_
      rw [List.any_eq_true]
      exact ⟨x, hx, by rw [hm]; exact hb⟩
  rcases hc with ⟨_, ht⟩ | ⟨h0, _⟩ | ⟨h0, _⟩ | ⟨h0, _⟩
  · obtain ⟨hs, hi', hw, _⟩ := envOf_spec he
    unfold reportFault at ht
    split at ht
    · rename_i hn
      exact absurd (firstFault_none hn) hf
    · rename_i f hff
      obtain ⟨hm, hl⟩ := firstFault_spec hff
      refine ⟨f, hm, hl, ?_⟩
      rw [ht, hs, hi', show s.updSwarm s.cur (fun w => w.dropFault f) = { s with swarms := s.swarms.set s.cur (e.w.dropFault f) } by
        simp only [State.updSwarm, modify_eq_set _ hw]]
      rfl
  all_goals (rw [hdue] at h0; cases h0)

end Sys2Proof.Machine
end

