-- ==== Sys2Proof/Tests/Slice0.lean ====
section
/-! SUPPORT. Tests: an ill-formed term for each check of WellFormed, words written out from the encodings of the spec, a
small device, a witness for the hypotheses of each statement, and single steps with the results that the spec gives. -/

namespace Sys2Proof.Machine.Tests

set_option maxRecDepth 100000
set_option Elab.async false

/-! ### Well-formedness: each check refuses a term -/

/-- The control field of an unannotated instruction (R10). -/
def cc : Ctrl := ⟨0, 0, none⟩

theorem test_wf_kcmp_un : wellFormed (.kcmp cc .un (.int .s32) 0 1 (.age 0) (.age 1)) = false := by decide
theorem test_wf_kcmp_k0 : wellFormed (.kcmp cc .eq (.int .s32) 0 0 (.age 0) (.age 1)) = false := by decide
theorem test_wf_kand_k0 : wellFormed (.kand cc 0 1 2) = false := by decide
theorem test_wf_kor_k0 : wellFormed (.kor cc 0 1 2) = false := by decide
theorem test_wf_kxor_k0 : wellFormed (.kxor cc 0 1 2) = false := by decide
theorem test_wf_kandn_k0 : wellFormed (.kandn cc 0 1 2) = false := by decide
theorem test_wf_knot_k0 : wellFormed (.knot cc 0 1) = false := by decide
theorem test_wf_kmov_k0 : wellFormed (.kmov cc 0 1) = false := by decide
theorem test_wf_kwr_k0 : wellFormed (.kwr cc 0 1) = false := by decide
theorem test_wf_vshl_32 : wellFormed (.vshl cc 0 .s32 (.age 0) (.imm 32)) = false := by decide
theorem test_wf_vshr_64 : wellFormed (.vshr cc 0 .n64 (.age 0) (.imm 64)) = false := by decide
theorem test_wf_vsra_32 : wellFormed (.vsra cc 0 .n32 (.age 0) (.imm 32)) = false := by decide
theorem test_wf_vsra_63 : wellFormed (.vsra cc 0 .s64 (.age 0) (.imm 63)) = true := by decide
theorem test_wf_cvt_p0 : wellFormed (.cvt cc 0 .rne .sat (.age 0) (.b8 false false 0) .f32) = false := by decide
theorem test_wf_cvt_src_p0 : wellFormed (.cvt cc 0 .rne .sat (.age 0) .f32 (.b8 false false 0)) = false := by decide
theorem test_wf_cvt_same : wellFormed (.cvt cc 0 .rne .sat (.age 0) .f32 .f32) = false := by decide
theorem test_wf_pack4_dst : wellFormed (.pack4 cc 0 .rne .sat (.age 0) .f32 .s8) = false := by decide
theorem test_wf_pack4_src : wellFormed (.pack4 cc 0 .rne .sat (.age 0) .s8 .s64) = false := by decide
theorem test_wf_pack4_run : wellFormed (.pack4 cc 0 .rne .sat (.age 61) .s8 .f32) = false := by decide
theorem test_wf_pack4_special : wellFormed (.pack4 cc 0 .rne .sat .lane .s8 .f32) = false := by decide
theorem test_wf_unpack4_src : wellFormed (.unpack4 cc 0 .rne .sat (.age 0) .f32 .s16) = false := by decide
theorem test_wf_unpack4_dst : wellFormed (.unpack4 cc 0 .rne .sat (.age 0) .n64 .n8) = false := by decide
theorem test_wf_cas_run : wellFormed (.atomCas cc 0 true 0 1 (.age 0) (.age 61)) = false := by decide
theorem test_wf_dcas_addr : wellFormed (.atom2Dcas cc 0 false 0 1 (.age 63) (.age 0)) = false := by decide
theorem test_wf_dcas_data : wellFormed (.atom2Dcas cc 0 true 0 1 (.age 0) (.frame 313)) = false := by decide
theorem test_wf_amove_addr : wellFormed (.atom2Amove cc 0 false 0 1 (.frame 319) (.age 0)) = false := by decide
theorem test_wf_amove_data : wellFormed (.atom2Amove cc 0 true 0 1 (.age 0) (.age 63)) = false := by decide
theorem test_wf_cand_k0 : wellFormed (.rsvCand cc 1 0 64) = false := by decide
theorem test_wf_wave_k0 : wellFormed (.rsvWave cc 0) = false := by decide
theorem test_wf_wavenb_k0 : wellFormed (.rsvWaveNb cc 0) = false := by decide
theorem test_wf_tile_next_0 : wellFormed (.tileNext cc 1 0) = false := by decide
theorem test_wf_swr_read_only : wellFormed (.swr cc .resumes 1) = false := by decide

/-! ### Words of the spec: the examples that its entries and tables give, with the instruction each stands for -/

theorem test_words_control :
    decode 0xF000F00000000000 = .ok (.nop ⟨15, 0, none⟩)
    ∧ decode 0x0000F01000000000 = .ok (.exit cc)
    ∧ decode 0x0002F01000000000 = .ok (.exit ⟨0, 2, none⟩)
    ∧ decode 0x0000F02000000000 = .ok (.yield cc)
    ∧ decode 0x0000F0300000002A = .ok (.trap cc 0x2A)
    ∧ decode 0x0000F040003FFFFE = .ok (.br cc (-2))
    ∧ decode 0x2000F052007FFFFE = .ok (.brc ⟨2, 0, none⟩ .nz 1 (-2))
    ∧ decode 0x0000F08000400005 = .ok (.call cc 1 5)
    ∧ decode 0x0000F09000007002 = .ok (.calli cc 7 2)
    ∧ decode 0x0000F0A000000001 = .ok (.ret cc 1)
    ∧ decode 0x0000F0B000000140 = .ok (.enter cc 320)
    ∧ decode 0x0000F0C000000001 = .ok (.arm cc 1)
    ∧ decode 0x0000F0D000030000 = .ok (.rejoin cc 3)
    ∧ decode 0x0001F0E000000000 = .ok (.iret ⟨0, 1, none⟩) := by decide
theorem test_words_scalar :
    decode 0x0000F20000200801 = .ok (.sadd cc 2 2 1)
    ∧ decode 0x0000F20040301005 = .ok (.ssub cc 3 4 5)
    ∧ decode 0x0000F21000401FFF = .ok (.saddi cc 1 1 (-1))
    ∧ decode 0x0001F21005014008 = .ok (.saddi ⟨0, 1, none⟩ 20 20 8)
    ∧ decode 0x0000F2200400000A = .ok (.sset cc 1 10)
    ∧ decode 0x0000F230140000C0 = .ok (.ssethi cc 5 0xC0) := by decide
theorem test_words_mask :
    decode 0x0000F401400081C0 = .ok (.kcmp cc .lt (.int .s32) 0 1 (.frame 0) .zero)
    ∧ decode 0x0000F40224400040 = .ok (.kcmp cc .ne (.int .n32) 1 2 (.age 0) (.frame 0))
    ∧ decode 0x0000F41210400000 = .ok (.knot cc 2 1)
    ∧ decode 0x0000F42000C00001 = .ok (.krd cc 3 1)
    ∧ decode 0x0000F43000005003 = .ok (.kwr cc 3 5)
    ∧ decode 0x0000F44000C0000F = .ok (.kpop cc 3 15)
    ∧ decode 0x0000F50001040000 = .ok (.save cc 0 1 (.age 0)) := by decide
theorem test_words_vector_integer :
    decode 0x0000F51000040000 = .ok (.vadd cc 0 .s32 false (.age 1) (.op (.age 0)))
    ∧ decode 0x1001F52000000001 = .ok (.vadd ⟨1, 1, none⟩ 0 .s32 false (.age 0) (.imm 1))
    ∧ decode 0x0000F5201003FFFF = .ok (.vadd cc 0 .s64 false (.age 0) (.imm (-1)))
    ∧ decode 0x0000F510C8000200 = .ok (.vsub cc 0 .n32 true (.age 0) (.op (.age 1)))
    ∧ decode 0x0000F530C8080000 = .ok (.vandn cc 0 .n32 (.age 2) (.op (.age 0)))
    ∧ decode 0x0000F5600F040002 = .ok (.vshl cc 0 .n32 .lane (.imm 2))
    ∧ decode 0x0000F5608000001F = .ok (.vsra cc 0 .s32 (.age 0) (.imm 31))
    ∧ decode 0x0000F58040000000 = .ok (.vmax cc 0 .s32 (.age 0) (.imm 0))
    ∧ decode 0x0000F59048040000 = .ok (.vmulhi cc 0 .n32 (.age 1) (.op (.age 0))) := by decide
theorem test_words_across_lanes :
    decode 0x0000F5B120000000 = .ok (.vred cc 1 .add .f32 (.age 0))
    ∧ decode 0x0000F5C120000000 = .ok (.vscan cc 1 .add .f32 (.age 0))
    ∧ decode 0x0000F5D000040000 = .ok (.vshuf cc 0 .s32 (.age 1) (.age 0))
    ∧ decode 0x0000F5E202280009 = .ok (.vbcast cc 2 false (.frame 5) 9)
    ∧ decode 0x0000F5F010000007 = .ok (.vpushs cc 0 true 7) := by decide
theorem test_words_float :
    decode 0x0000F70030040000 = .ok (.fadd cc 0 .bf16x2 .rne (.age 1) (.age 0))
    ∧ decode 0x0000F70070040000 = .ok (.fadd cc 0 .bf16x2 .rtz (.age 1) (.age 0))
    ∧ decode 0x0000F700F0040000 = .ok (.fadd cc 0 .bf16x2 .rup (.age 1) (.age 0))
    ∧ decode 0x0000F74020040000 = .ok (.fmin cc 0 .f32 (.age 1) (.age 0))
    ∧ decode 0x0000F73020080200 = .ok (.ffma cc 0 .f32 .rne (.age 2) (.age 1) (.age 0))
    ∧ decode 0x0000F76018000000 = .ok (.ffn cc 0 .exp2 (.age 0)) := by decide
theorem test_words_conversion :
    decode 0x0000F90100000008 = .ok (.cvt cc 1 .rne .sat (.age 0) .s8 .f32)
    ∧ decode 0x0000F90130000008 = .ok (.cvt cc 1 .rne .ovtrap (.age 0) .s8 .f32)
    ∧ decode 0x0000F90050029608 = .ok (.cvt cc 0 .rtz .ovinf (.age 0) (.b8 true false 4) .f32)
    ∧ decode 0x0000F91000009608 = .ok (.pack4 cc 0 .rne .sat (.age 0) (.b8 false false 4) .f32)
    ∧ decode 0x0000F9200000104B = .ok (.unpack4 cc 0 .rne .sat (.age 0) .f32 (.b8 false false 4)) := by decide
theorem test_words_memory :
    decode 0x40000A004000000F = .ok (.vld ⟨4, 0, some 0⟩ 0 .w32 0 (.age 0) 15)
    ∧ decode 0x0000FA00100B8209 = .ok (.vld cc 0 .n8 2 .lane 9)
    ∧ decode 0x0000FA405013800F = .ok (.vldc cc 0 .w64 4 .zero 15)
    ∧ decode 0x40001A1040040400 = .ok (.vst ⟨4, 0, some 1⟩ 0 .w32 1 (.age 2) (.age 0))
    ∧ decode 0x0000FA5141003000 = .ok (.cld cc .w64 16 12)
    ∧ decode 0x0000FA6100200000 = .ok (.cst cc .w32 2 0)
    ∧ decode 0x0000FA7000000803 = .ok (.cinv cc 2 3)
    ∧ decode 0x0000FA8000000803 = .ok (.bulkpf cc 2 3) := by decide
theorem test_words_atomic :
    decode 0x00000B9170138000 = .ok (.atomCas ⟨0, 0, some 0⟩ 1 false 7 4 .zero (.age 0))
    ∧ decode 0x0000FAA060180800 = .ok (.atom2Dcas cc 0 false 6 6 (.age 4) (.age 0))
    ∧ decode 0x0000FAC000100200 = .ok (.red cc 0 .add false 4 (.age 1) (.age 0)) := by decide
theorem test_words_comb :
    decode 0x0000FA2080080000 = .ok (.vldComb cc 0 .take 2 (.age 0))
    ∧ decode 0x0000FA30801F81C0 = .ok (.vstComb cc 0 .fill 7 .zero .zero)
    ∧ decode 0x0000FC0000009000 = .ok (.barInit cc 9)
    ∧ decode 0x0000FC1100000000 = .ok (.barArriveWait cc 0)
    ∧ decode 0x0000FC2000000003 = .ok (.barWait cc 3)
    ∧ decode 0x0000FC3000000003 = .ok (.barInval cc 3)
    ∧ decode 0x0000FC400000C000 = .ok (.ringDef cc 0 12)
    ∧ decode 0x0000FC5000011001 = .ok (.tlwait cc (.copy 1) 17)
    ∧ decode 0x0000FC5000005300 = .ok (.tlwait cc .launch 5)
    ∧ decode 0x0000FC6000C00200 = .ok (.tlrd cc 3 (.coll 0)) := by decide
theorem test_words_sync :
    decode 0x0000FC7000004000 = .ok (.bind cc 4)
    ∧ decode 0x0000FC8000004000 = .ok (.unbind cc 4)
    ∧ decode 0x0000FC9400004000 = .ok (.acq cc .dev 4)
    ∧ decode 0x0000FCA20000D000 = .ok (.rel cc .cluster 13)
    ∧ decode 0x0000FCB500000000 = .ok (.fence cc .sys)
    ∧ decode 0x0000FCB100000000 = .ok (.fence cc .colony) := by decide
theorem test_words_reserve :
    decode 0x0000FCC001804000 = .ok (.rsvOpen cc 6 4)
    ∧ decode 0x0000FCC102800000 = .ok (.rsvClose cc 10)
    ∧ decode 0x0000FCC201400041 = .ok (.rsvCand cc 5 1 4)
    ∧ decode 0x0000FCD300100000 = .ok (.claim cc 3 4 (.age 0))
    ∧ decode 0x0000FCE000000002 = .ok (.rsvWave cc 2)
    ∧ decode 0x0000FCE100000003 = .ok (.rsvWaveNb cc 3)
    ∧ decode 0x0000FCF000000000 = .ok (.rsvDone cc) := by decide
theorem test_words_matrix :
    decode 0x0000FD0100000000 = .ok (.mma cc 1 false 0 (.age 0))
    ∧ decode 0x0000FD0118000000 = .ok (.mma cc 1 true 1 (.age 0))
    ∧ decode 0x0000FD2004000000 = .ok (.macq cc 16 0)
    ∧ decode 0x0000FD3000000001 = .ok (.mrel cc 1)
    ∧ decode 0x0000FD3100000000 = .ok (.mrelFree cc 0)
    ∧ decode 0x1000FD4200000007 = .ok (.mrd ⟨1, 0, none⟩ 2 false 0 7)
    ∧ decode 0x1000FD5010000007 = .ok (.mwr ⟨1, 0, none⟩ 0 true 0 (.age 0) 7)
    ∧ decode 0x0000FD5100000007 = .ok (.mwr cc 1 false 0 (.age 0) 7)
    ∧ decode 0x0000FD6000002000 = .ok (.tcfg cc 2)
    ∧ decode 0x0000FD7000005000 = .ok (.ucfg cc 5) := by decide
theorem test_words_work :
    decode 0x0000FD8000000384 = .ok (.copy cc 0 14)
    ∧ decode 0x0000FD8000010484 = .ok (.copy cc 1 18)
    ∧ decode 0x0000FDA005000001 = .ok (.tileNext cc 20 1)
    ∧ decode 0x0000FDB00200A002 = .ok (.taskPush cc 8 10 2)
    ∧ decode 0x0000FDB103000005 = .ok (.taskPop cc 12 5)
    ∧ decode 0x0000FDC00500B000 = .ok (.launch cc 20 11)
    ∧ decode 0x0000FDC10500B000 = .ok (.launchWait cc 20 11)
    ∧ decode 0x0000FDD00500B000 = .ok (.lwait cc 20 11) := by decide
theorem test_words_special :
    decode 0x0000FE0003800000 = .ok (.getid cc 14 .swarm)
    ∧ decode 0x0000FE0001400009 = .ok (.getid cc 5 .vdie)
    ∧ decode 0x0000FE1000500C04 = .ok (.getidHop cc 5 3 4)
    ∧ decode 0x0000FE2000C00001 = .ok (.srd cc 3 .resumes)
    ∧ decode 0x00000E2005000010 = .ok (.srd ⟨0, 0, some 0⟩ 20 .tresume)
    ∧ decode 0x0000FE3000007000 = .ok (.swr cc .starve 7)
    ∧ decode 0x20000E3000014010 = .ok (.swr ⟨2, 0, some 0⟩ .tresume 20) := by decide
/-- Table 20.12: words that are no instruction, with their cause. -/
theorem test_words_illegal :
    decode 0x0000FE7000000000 = .error 1
    ∧ decode 0x0000C52000000001 = .error 4
    ∧ decode 0x0000F52020000001 = .error 2
    ∧ decode 0x0000F52006400001 = .error 3
    ∧ decode 0x0000FC1200000000 = .error 3 := by decide

/-! ### A small device -/

/-- A coherent, writable page that the home ports hold: VA 0x30000 in frame 0x50000. -/
def page : MapRec := ⟨1, 3, 0x50000, true, true, false, false, true⟩

/-- One core on one die, the program of `withFetchWord` with the word `w`, and the coherent page. -/
def lab : State :=
  { State.reset.probe 0 with
    dies := [{ Die.reset with clusters := [{ Cluster.reset with cores := [CoreSt.reset] }] }]
    ports := List.replicate 8 { Port.reset with maps := [page] } }

/-- The lab with its swarm changed. -/
def labSw (f : Swarm → Swarm) : State := lab.updSwarm 0 f

/-- The lab with scalars from s0 up. -/
def labSc (xs : List W64) : State := labSw fun w => { w with scalars := startScalars 1024 xs }

/-- The environment of the swarm whose turn it is. -/
def envAt (s : State) : Env :=
  (envOf s s.cur).getD ⟨s, 0, Swarm.start probeField 0 0 0 0, probeColony, probeField, probeCtx, probeSpan, (0, 0, 0)⟩

/-- It is ready, and owes no report. -/
def goes (s : State) (c : Ctrl) (n : Need) (rep : Bool) : Bool :=
  match envOf s s.cur with
  | none => false
  | some e => e.ready c n && !e.reportDue c rep

theorem issues_at {s : State} {c : Ctrl} {n : Need} {rep : Bool} (h : goes s c n rep = true) :
    Issues s (envAt s) c n rep := by
  unfold goes at h
  split at h
  · cases h
  · rename_i e he
    simp only [Bool.and_eq_true, Bool.not_eq_true'] at h
    have : envAt s = e := by simp [envAt, he]
    rw [this]
    exact ⟨he, h⟩

/-- The operand is there. -/
def stands (e : Env) (o : Operand) (wide : Bool) : Bool :=
  (match o with
    | .age n => decide (n.val + wide.toNat < e.w.top.queue.length)
    | .frame n => decide (n.val + wide.toNat < e.w.top.win.length)
    | _ => true) && (!e.ctx.check || !e.rdBusy (.vec o wide)) && !e.rdBad (.vec o wide)

theorem operand_at {e : Env} {o : Operand} {wide : Bool} (h : stands e o wide = true) : e.operandOk o wide := by
  unfold stands at h
  simp only [Bool.and_eq_true, Bool.or_eq_true, Bool.not_eq_true'] at h
  obtain ⟨⟨h1, h2⟩, h3⟩ := h
  refine ⟨?_, fun hc => by simpa [hc] using h2, h3⟩
  cases o <;> simp_all

theorem scalars_at {e : Env} {named read : List Nat}
    (h : (named.all (fun n => decide (n < e.w.scalars.length)) && (!e.ctx.check || read.all fun n => !e.w.sBusy n)
      && read.all fun n => !e.w.badScalars.contains n) = true) :
    e.scalarsOk named read := by
  simp only [Bool.and_eq_true, Bool.or_eq_true, Bool.not_eq_true', List.all_eq_true, decide_eq_true_eq] at h
  obtain ⟨⟨h1, h2⟩, h3⟩ := h
  exact ⟨h1, fun hc => by simpa [hc] using h2, fun n hn => by simpa using h3 n hn⟩

/-- An operation in flight in swarm 0, numbered 0. -/
def opOf (b : OpBody) : Op := ⟨0, 0, some 0, false, none, 0, b⟩

/-- The lab with that operation in flight, flag 0 counting it. -/
def labOp (b : OpBody) : State := labSw fun w => { w with ops := [opOf b], flags := 1 :: List.replicate 11 0, nextOp := 1 }

/-- The one actor of the lab. -/
def act : Actor := ⟨0, 0, (0, 0, 0), 1, 1⟩

/-- The swarm of the lab. -/
def sw0 (s : State) : Swarm := s.swarms.getD 0 (Swarm.start probeField 0 0 0 0)

/-- Operation 0 of swarm 0, alone in flight, stands with body `b` in `s`, and may perform as far as its latency goes. -/
def flying (s : State) (b : OpBody) : Bool :=
  decide (s.swarms[0]? = some (sw0 s)) && decide ((sw0 s).ops = [opOf b]) && decide (s.actorOf 0 = some act)

theorem due_at {s : State} {b : OpBody} (h : flying s b = true) : Due s 0 0 act (opOf b) (sw0 s) := by
  simp only [flying, Bool.and_eq_true, decide_eq_true_eq] at h
  obtain ⟨⟨h1, h2⟩, h3⟩ := h
  refine ⟨h1, by simp [h2, opOf], h3, fun d hd => by simp [opOf] at hd, fun p hp d hd => ?_⟩
  simp [h2] at hp
  simp [hp, opOf] at hd

/-- It issues, and what its pushes overwrite holds no uncorrectable error. -/
theorem runs_at {s : State} {c : Ctrl} {n : Need} {rep : Bool} (h : goes s c n rep = true)
    (hb : ((envAt s).w.top.queue.reverse.take n.pushes).all (fun sl => !sl.bad) = true) : Runs s (envAt s) c n rep :=
  ⟨issues_at h, fun sl hs => by simpa using List.all_eq_true.mp hb sl hs⟩

/-! ### Witnesses: control flow and traps -/

theorem wit_PlainControl : Issues lab (envAt lab) cc {} false ∧ (envAt lab).scalarsOk [1023] [1023]
    ∧ (envAt lab).w.top.fork = false :=
  ⟨issues_at (by decide +kernel), scalars_at (by decide +kernel), by decide +kernel⟩

/-- A level with its window closed, and one whose fork stands at arm 2. -/
def labShut : State := labSw fun w => { w with top := { w.top with wopen := false, win := [] } }
def labFork : State := labSw fun w => { w with top := { w.top with fork := true, cur := 2 } }

theorem wit_PlainControl_enter : Issues labShut (envAt labShut) cc {} false ∧ (envAt labShut).w.top.wopen = false
    ∧ 64 ≤ (envAt labShut).fld.desc.frame ∧ labShut.privHeld labShut.cur = false :=
  ⟨issues_at (by decide +kernel), by decide +kernel, by decide +kernel, by decide +kernel⟩

theorem wit_PlainControl_arm : Issues labFork (envAt labFork) cc {} false ∧ (envAt labFork).w.top.fork = true
    ∧ (3 : Fin 4).val = (envAt labFork).w.top.cur + 1 := ⟨issues_at (by decide +kernel), by decide +kernel, by decide +kernel⟩

theorem wit_CallOpensLevel : Issues lab (envAt lab) cc { drained := true } true ∧ (envAt lab).w.depth < 1024
    ∧ (63 : Fin 64).val ≤ (envAt lab).w.top.queue.length ∧ (envAt lab).scalarsOk [0] [0]
    ∧ ((envAt lab).scalar 0 0).toNat % 8 = 0 ∧ lab.privHeld lab.cur = false :=
  ⟨issues_at (by decide +kernel), by decide +kernel, by decide +kernel, scalars_at (by decide +kernel), by decide +kernel,
    by decide +kernel⟩

/-- A callee's level above the entry level. -/
def labCallee : State := labSw fun w => { w with top := w.top.callee 1 0x40, under := [w.top] }

theorem wit_RetReturns : Issues labCallee (envAt labCallee) cc { drained := true } true
    ∧ (envAt labCallee).w.under = [Level.entry 64 64] ∧ (Level.entry 64 64).spilled = false
    ∧ (envAt labCallee).w.depth ≠ (envAt labCallee).w.hdepth ∧ 64 ≤ (envAt labCallee).w.top.queue.length
    ∧ 64 ≤ (Level.entry 64 64).queue.length ∧ (envAt labCallee).w.top.fork = false
    ∧ (∀ sl ∈ (envAt labCallee).w.top.queue.take 64, sl.bad = false) ∧ labCallee.privHeld labCallee.cur = false :=
  ⟨issues_at (by decide +kernel), by decide +kernel, by decide +kernel, by decide +kernel, by decide +kernel,
    by decide +kernel, by decide +kernel, by decide +kernel, by decide +kernel⟩

/-- The callee's level, and the entry level, with an open fork. -/
def labOpen : State := labSw fun w =>
  { w with top := { w.top.callee 1 0x40 with fork := true, cur := 1 }, under := [w.top] }

theorem wit_RejoinMerges_open : Issues labOpen (envAt labOpen) cc { drained := true } true
    ∧ (envAt labOpen).w.top.fork = true ∧ (envAt labOpen).w.under ≠ [] ∧ (envAt labOpen).w.depth ≠ (envAt labOpen).w.hdepth
    ∧ (63 : Fin 4096).val ≤ (envAt labOpen).w.top.queue.length
    ∧ Issues labFork (envAt labFork) cc { flagsZero := true } true ∧ (envAt labFork).w.top.fork = true
    ∧ (envAt labFork).w.trap.intrap = false :=
  ⟨issues_at (by decide +kernel), by decide +kernel, by decide +kernel, by decide +kernel, by decide +kernel,
    issues_at (by decide +kernel), by decide +kernel, by decide +kernel⟩

theorem wit_ExitEndsSwarm : Issues lab (envAt lab) cc { flagsZero := true } true ∧ (envAt lab).w.trap.intrap = false
    ∧ (envAt lab).w.top.fork = false ∧ ∀ l ∈ (envAt lab).w.lanes, l.item = none :=
  ⟨issues_at (by decide +kernel), by decide +kernel, by decide +kernel, by decide +kernel⟩

/-- A trap handler at its entry level. -/
def labHandler : State := labSw fun w => w.inHandler ⟨21, 0, 0, 0, 1, none, false⟩ 0x48 0x4000

theorem wit_IretReturns : Issues labHandler (envAt labHandler) cc { drained := true } false
    ∧ (envAt labHandler).w.trap.intrap = true ∧ (envAt labHandler).w.depth = (envAt labHandler).w.hdepth
    ∧ (envAt labHandler).w.top.fork = false ∧ (∀ n ∈ (envAt labHandler).w.flags, n = 0)
    ∧ (envAt labHandler).w.under = [Level.entry 64 64] ∧ (Level.entry 64 64).spilled = false
    ∧ (envAt labHandler).w.starved = none ∧ (∀ n ∈ (envAt labHandler).w.fell, 12 ≤ n)
    ∧ labHandler.privHeld labHandler.cur = false :=
  ⟨issues_at (by decide +kernel), by decide +kernel, by decide +kernel, by decide +kernel, by decide +kernel,
    by decide +kernel, by decide +kernel, by decide +kernel, by decide +kernel, by decide +kernel⟩

/-- Table 15.2's record rj_ad at the base of a record pool that stands in the coherent page, and the arms it asks for. -/
def labRejoin : State :=
  let s := labSw fun w => { w with
    top := { w.top with fork := true, cur := 1, arms := [⟨true, 2⟩, ⟨true, 3⟩, ⟨false, 0⟩, ⟨false, 0⟩] } }
  { s with
    fields := [{ probeField with desc := { probeDesc with recBase := 0x30000 } }]
    mem := [(0x50000, 0x0000000000000131), (0x50008, 0x42), (0x50010, 0x40306), (0x50018, 0x83), (0x50020, 0x10002)].foldl
      (fun m e => memPutBytes m e.1 (leBytes 8 e.2)) s.mem }

/-- What the record says. -/
def rejoinArms : List RecArm := (readRejoin (envAt labRejoin) 0).2.elim [] Prod.snd

theorem wit_RejoinMerges : Issues labRejoin (envAt labRejoin) cc {} false
    ∧ (readRejoin (envAt labRejoin) (0 : Fin 16384).val).2 = some (3, rejoinArms) ∧ rejoinArms.length = 2
    ∧ (envAt labRejoin).w.top.fork = true
    ∧ (∀ k < 4, (envAt labRejoin).w.top.arms.getD k ⟨false, 0⟩ = match rejoinArms[k]? with
      | some a => ⟨true, a.count⟩
      | none => ⟨false, ((envAt labRejoin).w.top.arms.getD k ⟨false, 0⟩).count⟩)
    ∧ (∀ a ∈ rejoinArms, ∀ x ∈ a.src, x ≠ 0xFF → x < (envAt labRejoin).w.top.queue.length)
    ∧ (envAt labRejoin).ctx.check = false ∧ (envAt labRejoin).w.top.canPush 3 = true
    ∧ (∀ sl ∈ (envAt labRejoin).w.top.queue, sl.bad = false) ∧ rejoinPageHeld (envAt labRejoin) 0 = false :=
  ⟨issues_at (by decide +kernel), by decide +kernel, by decide +kernel, by decide +kernel, by decide +kernel,
    by decide +kernel, by decide +kernel, by decide +kernel, by decide +kernel, by decide +kernel⟩

/-- The state that a step reaches, if it is a next state. -/
def next? (o : Host.Outcome State Fault Refusal) : Option State :=
  match o with
  | .next s => some s
  | _ => none

theorem wit_IssueObeysControlField : (parts (.nop cc)).isSome = true ∧ (next? (exec (.nop cc) lab)).isSome = true :=
  ⟨by decide, by decide +kernel⟩

/-- A swarm with a fault recorded by a load of flag 0. -/
def labFault : State := labSw fun w => { w with faults := [⟨0x40, 1, 3, 0x30000, some 0, 0⟩] }

theorem wit_DeferredReportIsTaken : (next? (exec (.exit cc) labFault)).isSome = true
    ∧ (envOf labFault labFault.cur).isSome = true ∧ (envAt labFault).w.trap.intrap = false ∧ reports (.exit cc) = true
    ∧ (envAt labFault).w.faults ≠ [] :=
  ⟨by decide +kernel, by decide +kernel, by decide +kernel, by decide, by decide +kernel⟩
theorem wit_DeferredReportIsTaken_full : (next? (exec (.nop cc) (labSw fun w => { w with
      faults := [⟨0x40, 1, 3, 0x30000, some 0, 0⟩], faultsFull := true }))).isSome = true := by decide +kernel
theorem wit_DeferredReportIsTaken_flag : (next? (exec (.nop ⟨0, 1, none⟩) labFault)).isSome = true
    ∧ ∃ f ∈ (envAt labFault).w.faults, ∃ n, f.flag = some n ∧ (1 : Fin 4096).val.testBit n.val = true :=
  ⟨by decide +kernel, ⟨0x40, 1, 3, 0x30000, some 0, 0⟩, by decide +kernel, 0, rfl, by decide⟩

theorem wit_TrapEntersHandler : HandlerReady lab 0 (sw0 lab) 64 ∧ Issues lab (envAt lab) cc {} false := by
  refine ⟨⟨⟨?_, ?_, ?_, ?_⟩, ?_, ?_, ?_, ?_, ?_⟩, issues_at ?_⟩ <;> decide +kernel

/-- A load of flag 0 is in flight; no handler is named. -/
def labLoad : State := labOp (.load .w32 false 1 [0x30000] 0 false)
def labNoVec : State := { lab with ctxs := [{ probeCtx with tvec := 0 }] }

theorem wit_TrapEntersHandler_waits : HandlerFree labLoad 0 (sw0 labLoad) ∧ (sw0 labLoad).drained = false := by
  refine ⟨⟨?_, ?_, ?_, ?_⟩, ?_⟩ <;> decide +kernel

theorem wit_TrapWithoutHandler : labNoVec.swarms[0]? = some (sw0 labNoVec) ∧ labNoVec.tvecOf 0 = 0 := by
  constructor <;> decide +kernel
theorem wit_TrapWithoutHandler_inside : labHandler.swarms[0]? = some (sw0 labHandler)
    ∧ (sw0 labHandler).trap.intrap = true := by constructor <;> decide +kernel

/-! ### Witnesses: operands and computing instructions -/

/-- Under SR.CHECK, with age 5 still to be written. -/
def labBusy : State :=
  { labSw fun w => { w with top := { w.top with queue := w.top.queue.set 5 ⟨splat 0, false, some (0, 0), false⟩ } } with
    ctxs := [{ probeCtx with check := true }] }
/-- A queue of eight entries. -/
def labShort : State := labSw fun w => { w with top := { w.top with queue := w.top.queue.take 8 } }
/-- Age 5 holds an uncorrectable error. -/
def labBad : State := labSw fun w => { w with top := { w.top with queue := w.top.queue.set 5 ⟨splat 0, false, none, true⟩ } }

theorem wit_OperandTraps : vintShape (.vadd cc 0 .n32 false (.age 63) (.op (.frame 63)))
      = some (cc, 0, .n32, .age 63, .op (.frame 63))
    ∧ vintShape (.vmul cc 0 .s32 .lane (.op .zero)) = some (cc, 0, .s32, .lane, .op .zero)
    ∧ Runs lab (envAt lab) cc { pushes := 1 } false ∧ (envAt lab).operandOk (.age 63) false
    ∧ (envAt lab).operandOk (.frame 63) false :=
  ⟨rfl, rfl, runs_at (by decide +kernel) (by decide +kernel), operand_at (by decide +kernel), operand_at (by decide +kernel)⟩
theorem wit_OperandTraps_age : Issues labShort (envAt labShort) cc { pushes := 1 } false
    ∧ (envAt labShort).w.top.queue.length ≤ (8 : Fin 64).val ∧ (envAt labShort).ageBad (.vec (.age 7) false) = false :=
  ⟨issues_at (by decide +kernel), by decide +kernel, by decide +kernel⟩
theorem wit_OperandTraps_frame : Issues lab (envAt lab) cc { pushes := 1 } false
    ∧ (envAt lab).w.top.win.length ≤ (64 : Fin 320).val ∧ (envAt lab).ageBad (.vec (.age 63) false) = false
    ∧ (envAt lab).ageBad (.vec (.frame 64) false) = false ∧ (envAt lab).frameBad (.vec (.frame 63) false) = false :=
  ⟨issues_at (by decide +kernel), by decide +kernel, by decide +kernel, by decide +kernel, by decide +kernel⟩
theorem wit_OperandTraps_stall : Issues labBusy (envAt labBusy) cc { pushes := 1 } false
    ∧ (envAt labBusy).ctx.check = true ∧ (envAt labBusy).rdBusy (.vec (.age 5) false) = true
    ∧ (envAt labBusy).rdBusy (.vec (.age 4) false) = false
    ∧ (envAt labBusy).ageBad (.vec (.age 5) false) = false ∧ (envAt labBusy).frameBad (.vec (.age 5) false) = false :=
  ⟨issues_at (by decide +kernel), by decide +kernel, by decide +kernel, by decide +kernel, by decide +kernel,
    by decide +kernel⟩
theorem wit_OperandTraps_bad : Issues labBad (envAt labBad) cc { pushes := 1 } false
    ∧ (envAt labBad).rdBad (.vec (.age 5) false) = true ∧ (envAt labBad).ctx.check = false
    ∧ (envAt labBad).ageBad (.vec (.age 5) false) = false ∧ (envAt labBad).frameBad (.vec (.age 5) false) = false :=
  ⟨issues_at (by decide +kernel), by decide +kernel, by decide +kernel, by decide +kernel, by decide +kernel⟩

theorem wit_OperandForms : (envAt lab).w.top.queue[(63 : Fin 64).val]? = some Slot.zero
    ∧ (envAt lab).w.top.win[(63 : Fin 320).val]? = some Slot.zero := by constructor <;> decide +kernel
theorem wit_PushMovesQueue : (Level.entry 8 0).queue.getLast? = some Slot.zero
    ∧ ({ Level.entry 8 0 with fork := true } : Level).arms[0]? = some ⟨false, 0⟩ := by constructor <;> decide +kernel

theorem wit_ScalarResults : scalarForm (.sadd cc 1 2 3) ≠ none ∧ scalarImmForm (.saddi cc 1 2 5) ≠ none
    ∧ Issues lab (envAt lab) cc {} false ∧ (envAt lab).scalarsOk [1023, 2, 3] [2, 3] :=
  ⟨by simp [scalarForm], by simp [scalarImmForm], issues_at (by decide +kernel), scalars_at (by decide +kernel)⟩
theorem wit_MaskForms : Issues lab (envAt lab) cc {} false ∧ maskForm (.kand cc 1 2 15) ≠ none
    ∧ (envAt lab).scalarsOk [3] [3] := ⟨issues_at (by decide +kernel), by simp [maskForm], scalars_at (by decide +kernel)⟩
theorem wit_KcmpResults : Issues lab (envAt lab) cc {} false ∧ (envAt lab).operandOk (.age 62) (intWide .s64)
    ∧ (envAt lab).operandOk .lane (intWide .s64) ∧ (envAt lab).operandOk (.frame 63) false :=
  ⟨issues_at (by decide +kernel), operand_at (by decide +kernel), operand_at (by decide +kernel), operand_at (by decide +kernel)⟩
theorem wit_SaveComplete : Issues lab (envAt lab) cc {} false ∧ (envAt lab).operandOk (.age 0) false
    ∧ (envAt lab).w.top.win[(63 : Fin 320).val]? = some Slot.zero ∧ Slot.zero.bad = false
    ∧ ∀ l < 64, (envAt lab).maskBit 0 l = true :=
  ⟨issues_at (by decide +kernel), operand_at (by decide +kernel), by decide +kernel, by decide +kernel,
    by decide +kernel⟩

theorem wit_VectorIntegerResults : vintShape (.vmulhi cc 1 .s64 (.age 0) (.op (.age 62))) ≠ none
    ∧ vintResult (.vmulhi cc 1 .s64 (.age 0) (.op (.age 62))) ≠ none
    ∧ wellFormed (.vmulhi cc 1 .s64 (.age 0) (.op (.age 62))) = true
    ∧ Runs lab (envAt lab) cc { pushes := wOf (intWide .s64) } false ∧ (envAt lab).operandOk (.age 0) true
    ∧ (envAt lab).operandOk (.age 62) true :=
  ⟨by simp [vintShape], by simp [vintResult], by decide, runs_at (by decide +kernel) (by decide +kernel), operand_at (by decide +kernel),
    operand_at (by decide +kernel)⟩
theorem wit_VectorIntegerResults_shift_imm : wellFormed (.vshl cc 0 .n32 (.age 0) (.imm 31)) = true
    ∧ Runs lab (envAt lab) cc { pushes := wOf (intWide .n32) } false :=
  ⟨by decide, runs_at (by decide +kernel) (by decide +kernel)⟩

/-- Results on their way: a scalar; an entry and a mask. -/
def labScalar : State := labOp (.result [] [(3, 7)] none none)
def labVector : State := labOp (.result [(allLanes, splat 9)] [] (some (1, 5)) none)

theorem wit_ResultsLand : Due labScalar 0 0 act (opOf (.result [] [(3, 7)] none none)) (sw0 labScalar) :=
  due_at (by decide +kernel)
theorem wit_ResultsLand_vector :
    Due labVector 0 0 act (opOf (.result [(allLanes, splat 9)] [] (some (1, 5)) none)) (sw0 labVector) :=
  due_at (by decide +kernel)

theorem wit_ReductionResults : Runs lab (envAt lab) cc { pushes := wOf (redWide (.int .n64)) } false
    ∧ (envAt lab).operandOk (.age 62) (redWide (.int .n64)) ∧ (envAt lab).maskBit 0 63 = true :=
  ⟨runs_at (by decide +kernel) (by decide +kernel), operand_at (by decide +kernel), by decide +kernel⟩
theorem wit_PermuteResults : Runs lab (envAt lab) cc { pushes := wOf true } false ∧ (envAt lab).operandOk (.frame 62) true
    ∧ (envAt lab).operandOk (.age 63) false ∧ (envAt lab).scalarsOk [7] [7] :=
  ⟨runs_at (by decide +kernel) (by decide +kernel), operand_at (by decide +kernel), operand_at (by decide +kernel), scalars_at (by decide +kernel)⟩
theorem wit_FloatResults : Runs lab (envAt lab) cc { pushes := 1 } false ∧ floatForm (.fadd cc 0 .f32 .rne (.age 0) .zero) ≠ none
    ∧ (envAt lab).operandOk (.age 0) false ∧ (envAt lab).operandOk .zero false ∧ (envAt lab).operandOk (.frame 0) false :=
  ⟨runs_at (by decide +kernel) (by decide +kernel), by simp [floatForm], operand_at (by decide +kernel), operand_at (by decide +kernel),
    operand_at (by decide +kernel)⟩
theorem wit_FfnResults : Runs lab (envAt lab) cc { pushes := 1 } false ∧ (envAt lab).operandOk (.age 0) false
    ∧ fmtF32.decode 0xFFC00001 = .nan := ⟨runs_at (by decide +kernel) (by decide +kernel), operand_at (by decide +kernel), by decide +kernel⟩

theorem wit_FfnResults_finite : fmtF32.decode 0x3FC00000 = .fin false 12582912 (-23)
    ∧ IsWhole false (2 * 12582912) (-23) (2 * 1 + 1) ∧ fmtF32.decode 0xC0000000 = .fin true (2 ^ 23) (-22)
    ∧ IsWhole true (2 ^ 23) (-22) (-2) ∧ fmtF32.decode 0x43000000 = .fin false (2 ^ 23) (-16)
    ∧ (128 : Int) * 2 ^ (-(-16 : Int)).toNat ≤ (2 ^ 23 : Nat) * 2 ^ (-16 : Int).toNat :=
  ⟨by decide +kernel, by unfold IsWhole; decide +kernel, by decide +kernel, by unfold IsWhole; decide +kernel, by decide +kernel,
    by decide +kernel⟩

/-- Age 0 holds 128.0 in lane 0, which s8 does not hold. -/
def labBig : State := labSw fun w => { w with
  top := { w.top with queue := w.top.queue.set 0 ⟨lanes fun l => if l = 0 then 0x43000000 else 0, false, none, false⟩ } }

theorem wit_ConversionResults : Runs lab (envAt lab) cc { pushes := wOf (TDesc.wide .s64) } false
    ∧ (envAt lab).operandOk (.age 0) (TDesc.wide .f32)
    ∧ ∀ l < 64, (envAt lab).cvtBad 0 (fun l => [cvtPlaced .s64 .f32 .rne .ovtrap (el ((envAt lab).read 0 (.age 0)) l).toNat]) l
        = false := ⟨runs_at (by decide +kernel) (by decide +kernel), operand_at (by decide +kernel), by decide +kernel⟩
theorem wit_ConversionResults_overflow : Runs labBig (envAt labBig) cc { pushes := wOf (TDesc.wide .s8) } false
    ∧ (envAt labBig).cvtBad 0 (fun l => [cvtPlaced .s8 .f32 .rne .ovtrap (el ((envAt labBig).read 0 (.age 0)) l).toNat]) 0
        = true := ⟨runs_at (by decide +kernel) (by decide +kernel), by decide +kernel⟩
theorem wit_ConversionResults_pack : Runs lab (envAt lab) cc { pushes := 1 } false
    ∧ (∀ j < 4, (envAt lab).operandOk (opShift (.age 60) j) false)
    ∧ ∀ j < 4, ∀ l < 64, (cvtPlaced .s8 .f32 .rne .sat (el ((envAt lab).read j (opShift (.age 60) j)) l).toNat).isSome = true := by
  refine ⟨runs_at (by decide +kernel) (by decide +kernel), fun j hj => operand_at ?_, by decide +kernel⟩
  have h : ∀ j < 4, stands (envAt lab) (opShift (.age 60) j) false = true := by decide +kernel
  exact h j hj
theorem wit_ConversionResults_unpack : Runs lab (envAt lab) cc { pushes := 4 } false ∧ (envAt lab).operandOk (.age 0) false
    ∧ ∀ j < 4, ∀ l < 64,
      (cvtPlaced .f32 .s8 .rne .sat ((el ((envAt lab).read 0 (.age 0)) l).toNat / 2 ^ (8 * j) % 256)).isSome = true :=
  ⟨runs_at (by decide +kernel) (by decide +kernel), operand_at (by decide +kernel), by decide +kernel⟩

/-! ### Witnesses: global memory -/

/-- s1 holds the coherent page, s2 a length, s3 a region's length; age 0 holds the byte offset of each lane's word. -/
def labMem : State := labSw fun w => { w with
  scalars := startScalars 1024 [0, 0x30000, 0x30000, 0x40]
  top := { w.top with queue := w.top.queue.set 0 ⟨lanes fun l => BitVec.ofNat 32 (8 * l), false, none, false⟩ } }

theorem wit_MemoryAccessIssues : Runs labMem (envAt labMem) cc { pushes := wOf (mtWide .w64), access := true } false
    ∧ (envAt labMem).operandOk (.age 0) false ∧ (envAt labMem).scalarsOk [1] [1]
    ∧ (envAt labMem).vasOk 0 ((envAt labMem).laneVa 1 (.age 0)) (mtBytes .w64) :=
  ⟨runs_at (by decide +kernel) (by decide +kernel), operand_at (by decide +kernel), scalars_at (by decide +kernel),
    by unfold Env.vasOk; decide +kernel⟩
theorem wit_MemoryAccessIssues_scalar : Issues labMem (envAt labMem) cc { access := true } false
    ∧ (envAt labMem).scalarsOk [1023, 1] [1023, 1] ∧ ((envAt labMem).scalar 0 (1 : SReg).val).toNat < 2 ^ 52
    ∧ ((envAt labMem).scalar 1 (1 : SReg).val).toNat % mtBytes .w64 = 0 :=
  ⟨issues_at (by decide +kernel), scalars_at (by decide +kernel), by decide +kernel, by decide +kernel⟩
theorem wit_MemoryAccessIssues_range : Issues labMem (envAt labMem) cc {} false ∧ (envAt labMem).scalarsOk [1, 3] [1, 3]
    ∧ ((envAt labMem).scalar 0 (1 : SReg).val).toNat + ((envAt labMem).scalar 1 (3 : SReg).val).toNat ≤ 2 ^ 52
    ∧ ((envAt labMem).scalar 1 (3 : SReg).val).toNat ≤ 2 ^ 30 :=
  ⟨issues_at (by decide +kernel), scalars_at (by decide +kernel), by decide +kernel, by decide +kernel⟩

/-- The same in a restartable colony. -/
def labRst (s : State) : State := { s with colonies := s.colonies.map fun c => { c with rst := true } }

theorem wit_AtomicIssues : atomForm (.atomCas cc 0 true 7 1 (.age 0) (.age 1)) = some (cc, 0, .cas, true, 7, 1, .age 0, .age 1)
    ∧ Runs labMem (envAt labMem) cc { pushes := 2, access := true } false ∧ (envAt labMem).operandOk (.age 1) true
    ∧ (envAt labMem).operandOk (opShift (.age 1) 2) true ∧ (envAt labMem).col.rst = false
    ∧ (envAt labMem).vasOk 0 ((envAt labMem).laneVa 1 (.age 0)) (4 * wOf true) :=
  ⟨rfl, runs_at (by decide +kernel) (by decide +kernel), operand_at (by decide +kernel), operand_at (by decide +kernel), by decide +kernel,
    by unfold Env.vasOk; decide +kernel⟩
theorem wit_AtomicIssues_restartable : Runs (labRst labMem) (envAt (labRst labMem)) cc { pushes := 1, access := true } false
    ∧ (envAt (labRst labMem)).col.rst = true
    ∧ (envAt (labRst labMem)).vasOk 0 ((envAt (labRst labMem)).laneVa 1 (.age 0)) (4 * wOf false) :=
  ⟨runs_at (by decide +kernel) (by decide +kernel), by decide +kernel, by unfold Env.vasOk; decide +kernel⟩
theorem wit_AtomicIssues_restartable_more : Issues (labRst labMem) (envAt (labRst labMem)) cc { access := true } false
    ∧ Runs (labRst labMem) (envAt (labRst labMem)) cc { pushes := 2 * wOf true, access := true } false :=
  ⟨issues_at (by decide +kernel), runs_at (by decide +kernel) (by decide +kernel)⟩
theorem wit_AtomicIssues_red : redForm (.red cc 0 .xor false 1 (.age 0) (.age 1)) = some (cc, 0, .xor, false, 1, .age 0, .age 1)
    ∧ Issues labMem (envAt labMem) cc { access := true } false := ⟨rfl, issues_at (by decide +kernel)⟩
theorem wit_AtomicIssues_two : Runs labMem (envAt labMem) cc { pushes := 2 * wOf true, access := true } false
    ∧ (envAt labMem).operandOk (opShift (.age 0) 1) false
    ∧ (∀ j < 4, (envAt labMem).operandOk (opShift (.age 2) (j * wOf true)) true)
    ∧ (envAt labMem).vasOk 0 (fun l => (((envAt labMem).scalar 100 1).toNat
        + (el ((envAt labMem).read 1 (opShift (.age 0) 1)) l).toNat) % 2 ^ 64) (4 * wOf true) := by
  refine ⟨runs_at (by decide +kernel) (by decide +kernel), operand_at (by decide +kernel), fun j hj => operand_at ?_,
    by unfold Env.vasOk; decide +kernel⟩
  have h : ∀ j < 4, stands (envAt labMem) (opShift (.age 2) (j * wOf true)) true = true := by decide +kernel
  exact h j hj

/-- s1 holds 2^52, and s1 holds an odd address. -/
def labHigh : State := labSc [0, 0x10000000000000]
def labOdd : State := labSc [0, 0x30002]

theorem wit_BadAddressTraps : memShape (.vld cc 0 .w32 1 .zero 15) = some (cc, 0, 1, .zero, 4, 1, [])
    ∧ Runs labHigh (envAt labHigh) cc { pushes := 1, access := true } false ∧ (envAt labHigh).operandOk .zero false
    ∧ (envAt labHigh).scalarsOk [1] [1] ∧ (envAt labHigh).maskBit 0 0 = true
    ∧ 2 ^ 52 ≤ (envAt labHigh).laneVa 1 .zero 0 :=
  ⟨rfl, runs_at (by decide +kernel) (by decide +kernel), operand_at (by decide +kernel), scalars_at (by decide +kernel), by decide +kernel,
    by decide +kernel⟩
theorem wit_BadAddressTraps_aligned : Runs labOdd (envAt labOdd) cc { pushes := 1, access := true } false
    ∧ (∀ l < 64, (envAt labOdd).maskBit 0 l = true → (envAt labOdd).laneVa 1 .zero l < 2 ^ 52)
    ∧ (envAt labOdd).laneVa 1 .zero 0 % 4 ≠ 0 := ⟨runs_at (by decide +kernel) (by decide +kernel), by decide +kernel, by decide +kernel⟩

/-- A place in the coherent page, for the lanes of a mask. -/
def vas64 : List Nat := (List.range 64).map fun l => 0x30000 + 8 * l

/-- The coherent page holds the word at `va`, and can be written; no link holds the access. -/
def coherent (s : State) (va z : Nat) : Bool :=
  decide (s.heldMap act.asid va = some page) && decide (((s.core act.k).line? act.asid va).isNone)
    && !s.holds act.asid va false && !s.holds act.asid va true
    && !s.poisoned (page.paOf va) z && !isSelfReg (page.paOf va) && !isPeerPa (page.paOf va)
    && !s.synonym (page.paOf va)

theorem coherent_at {s : State} {va z : Nat} (h : coherent s va z = true) :
    s.coherentAt act va z page ∧ s.writableAt act va z page := by
  simp only [coherent, Bool.and_eq_true, decide_eq_true_eq, Bool.not_eq_true', Option.isNone_iff_eq_none] at h
  obtain ⟨⟨⟨⟨⟨⟨⟨h1, h2⟩, h7⟩, h8⟩, h3⟩, h4⟩, h5⟩, h6⟩ := h
  exact ⟨⟨h1, h7, rfl, rfl, h2, h3, h4, h5, h6⟩, ⟨h1, h8, rfl, rfl, rfl, rfl, by decide, h3, h4, h5, h6⟩⟩

/-- Every lane's place is coherent. -/
theorem lanes_coherent {s : State} {z : Nat} (h : ((List.range 64).all fun l => coherent s (vas64.getD l 0) z) = true) :
    ∀ l < 64, allLanes.getLsbD l = true → ∃ mr, s.coherentAt act (vas64.getD l 0) z mr ∧ s.writableAt act (vas64.getD l 0) z mr :=
  fun l hl _ => ⟨page, coherent_at (List.all_eq_true.mp h l (List.mem_range.mpr hl))⟩

def labLd : State := labOp (.load .w64 false allLanes vas64 0 false)
def labCld : State := labOp (.cload .w64 0x3FFF8 1023)

theorem wit_LoadResults : Due labLd 0 0 act (opOf (.load .w64 false allLanes vas64 0 false)) (sw0 labLd)
    ∧ labLd.mayPerform 0 (opOf (.load .w64 false allLanes vas64 0 false)) = true ∧ labLd.upd = []
    ∧ labLd.restartable act.j = false
    ∧ ∀ l < 64, allLanes.getLsbD l = true → ∃ mr, labLd.coherentAt act (vas64.getD l 0) 8 mr
        ∧ labLd.writableAt act (vas64.getD l 0) 8 mr :=
  ⟨due_at (by decide +kernel), by decide +kernel, rfl, by decide +kernel, lanes_coherent (by decide +kernel)⟩
theorem wit_LoadResults_scalar : Due labCld 0 0 act (opOf (.cload .w64 0x3FFF8 1023)) (sw0 labCld)
    ∧ labCld.coherentAt act 0x3FFF8 (mtBytes .w64) page :=
  ⟨due_at (by decide +kernel), (coherent_at (by decide +kernel)).1⟩

def labSt : State := labOp (.store .w64 allLanes vas64 (laneList.map fun l => BitVec.ofNat 64 l) false)
def labCst : State := labOp (.cstore .w64 0x3FFF8 7)

theorem wit_StoreResults :
    Due labSt 0 0 act (opOf (.store .w64 allLanes vas64 (laneList.map fun l => BitVec.ofNat 64 l) false)) (sw0 labSt)
    ∧ labSt.mayPerform 0 (opOf (.store .w64 allLanes vas64 (laneList.map fun l => BitVec.ofNat 64 l) false)) = true
    ∧ Memory.wf labSt.mem = true
    ∧ ∀ l < 64, allLanes.getLsbD l = true → ∃ mr, labSt.coherentAt act (vas64.getD l 0) 8 mr
        ∧ labSt.writableAt act (vas64.getD l 0) 8 mr :=
  ⟨due_at (by decide +kernel), by decide +kernel, by decide +kernel, lanes_coherent (by decide +kernel)⟩
theorem wit_StoreResults_scalar : Due labCst 0 0 act (opOf (.cstore .w64 0x3FFF8 7)) (sw0 labCst)
    ∧ labCst.writableAt act 0x3FFF8 (mtBytes .w64) page :=
  ⟨due_at (by decide +kernel), (coherent_at (by decide +kernel)).2⟩

/-- Values of the atomics below, and the lanes that perform them. -/
def vals64 : List W64 := List.replicate 64 5
def ends64 : W64 := 0x8000000000000001
def labAtom : State := labOp (.atom .cas false ends64 vas64 vals64 vals64 8 false)
def labRed : State := labOp (.red .add false ends64 vas64 vals64 false)
def labRedF : State := labOp (.red .addF32 false allLanes vas64 vals64 false)

/-- No place becomes an unsupported synonym as the lanes write (R106). -/
def noSynonyms (s : State) (aop : AtomOp) (exps : List W64) : Bool :=
  (List.range 65).all fun n => (List.range 64).all fun l => !ends64.getLsbD l
    || !({ s with mem := (atomRun aop false (fun l => page.paOf (vas64.getD l 0)) vals64 exps
      ((activeLanes ends64).take n) s.mem).1 } : State).synonym (page.paOf (vas64.getD l 0))

theorem noSynonyms_at {s : State} {aop : AtomOp} {exps : List W64} (h : noSynonyms s aop exps = true) :
    ∀ n ≤ 64, ∀ l < 64, ends64.getLsbD l = true →
      ({ s with mem := (atomRun aop false (fun l => page.paOf (vas64.getD l 0)) vals64 exps
        ((activeLanes ends64).take n) s.mem).1 } : State).synonym (page.paOf (vas64.getD l 0)) = false := by
  intro n hn l hl he
  have h1 := List.all_eq_true.mp (List.all_eq_true.mp h n (List.mem_range.mpr (by omega))) l (List.mem_range.mpr hl)
  simpa [he] using h1

/-- The lanes' places are coherent. -/
theorem ends_coherent {s : State} {z : Nat} (h : ((List.range 64).all fun l => coherent s (vas64.getD l 0) z) = true) :
    ∀ l < 64, ends64.getLsbD l = true → ∃ mr, s.coherentAt act (vas64.getD l 0) z mr ∧ s.writableAt act (vas64.getD l 0) z mr :=
  fun l hl _ => ⟨page, coherent_at (List.all_eq_true.mp h l (List.mem_range.mpr hl))⟩

theorem wit_AtomicResults : Due labAtom 0 0 act (opOf (.atom .cas false ends64 vas64 vals64 vals64 8 false)) (sw0 labAtom)
    ∧ labAtom.mayPerform 0 (opOf (.atom .cas false ends64 vas64 vals64 vals64 8 false)) = true ∧ labAtom.upd = []
    ∧ (∀ l < 64, (el64 vals64 l).toNat < 2 ^ 32) ∧ noSynonyms labAtom .cas vals64 = true
    ∧ ∀ l < 64, ends64.getLsbD l = true → ∃ mr, labAtom.coherentAt act (vas64.getD l 0) 4 mr
        ∧ labAtom.writableAt act (vas64.getD l 0) 4 mr :=
  ⟨due_at (by decide +kernel), by decide +kernel, rfl, by decide +kernel, by decide +kernel, ends_coherent (by decide +kernel)⟩
theorem wit_AtomicResults_red : Due labRed 0 0 act (opOf (.red .add false ends64 vas64 vals64 false)) (sw0 labRed)
    ∧ labRed.mayPerform 0 (opOf (.red .add false ends64 vas64 vals64 false)) = true ∧ labRed.upd = []
    ∧ noSynonyms labRed .add [] = true
    ∧ ∀ l < 64, ends64.getLsbD l = true → ∃ mr, labRed.coherentAt act (vas64.getD l 0) 4 mr
        ∧ labRed.writableAt act (vas64.getD l 0) 4 mr :=
  ⟨due_at (by decide +kernel), by decide +kernel, rfl, by decide +kernel, ends_coherent (by decide +kernel)⟩
theorem wit_AtomicResults_gather :
    Due labRedF 0 0 act (opOf (.red .addF32 false allLanes vas64 vals64 false)) (sw0 labRedF)
    ∧ labRedF.mayPerform 0 (opOf (.red .addF32 false allLanes vas64 vals64 false)) = true :=
  ⟨due_at (by decide +kernel), by decide +kernel⟩

/-! ### Witnesses: synchronisation, waits, the comb, barriers -/

/-- s1 to s3: an object in the coherent page, a region and its length; s5 an object whose page is not resident. -/
def labSync : State := labSc [0, 0x30000, 0x30000, 0x1000000000, 0, 0x7FF0000]

theorem wit_SyncIssues : Issues labSync (envAt labSync) cc { access := true } false ∧ (envAt labSync).col.rst = false
    ∧ (envAt labSync).scalarsOk [1, 2, 3] [1, 2, 3] ∧ ((envAt labSync).scalar 0 1).toNat % 64 = 0
    ∧ ((envAt labSync).scalar 1 2).toNat + ((envAt labSync).scalar 2 3).toNat ≤ 2 ^ 52
    ∧ ((envAt labSync).scalar 2 3).toNat = 2 ^ 36 :=
  ⟨issues_at (by decide +kernel), by decide +kernel, scalars_at (by decide +kernel), by decide +kernel, by decide +kernel,
    by decide +kernel⟩
theorem wit_SyncIssues_restartable : Issues (labRst labSync) (envAt (labRst labSync)) cc { access := true } false
    ∧ Issues (labRst labSync) (envAt (labRst labSync)) cc { access := true } true
    ∧ (envAt (labRst labSync)).col.rst = true ∧ (envAt (labRst labSync)).scalarsOk [1, 2, 3] [1, 2, 3]
    ∧ ((envAt (labRst labSync)).scalar 2 3).toNat = 2 ^ 36 ∧ 1 < scopeCode .dev :=
  ⟨issues_at (by decide +kernel), issues_at (by decide +kernel), by decide +kernel, scalars_at (by decide +kernel),
    by decide +kernel, by decide⟩
theorem wit_SyncIssues_fence : Issues labSync (envAt labSync) cc { access := true } true := issues_at (by decide +kernel)
theorem wit_SyncIssues_acq : Issues labSync (envAt labSync) cc { access := true } true
    ∧ (envAt labSync).scalarsOk [1, 2] [1, 2] ∧ labSync.heldMap (envAt labSync).ctx.asid 0x30000 = some page
    ∧ labSync.poisoned (page.paOf 0x30000) 64 = false ∧ labSync.upd = []
    ∧ labSync.holds (envAt labSync).ctx.asid 0x30000 false = false
    ∧ legalWait (objClass ((envAt labSync).seen 0x30000 (labSync.physRead (page.paOf 0x30000) 64)))
        (objTarget (envAt labSync) ((envAt labSync).seen 0x30000 (labSync.physRead (page.paOf 0x30000) 64))) false = true :=
  ⟨issues_at (by decide +kernel), scalars_at (by decide +kernel), by decide +kernel, by decide +kernel, rfl, by decide +kernel,
    by decide +kernel⟩
theorem wit_SyncIssues_nonres : ((envAt labSync).scalar 0 5).toNat = 0x7FF0000
    ∧ labSync.heldMap (envAt labSync).ctx.asid 0x7FF0000 = none
    ∧ labSync.walkAny (envAt labSync).ctx.asid 0x7FF0000 = .nonres
    ∧ labSync.holds (envAt labSync).ctx.asid 0x7FF0000 false = false := by refine ⟨?_, ?_, ?_, ?_⟩ <;> decide +kernel

def labBind : State := labOp (.bind 0x30000 (some (0x30000, 64)))
def labUnbind : State := labOp (.bind 0x30000 none)
def labRel : State := labOp (.rel .sys 0x30000)
def labFence : State := labOp (.fence .dev)
def labCinv : State := labOp (.cinv 0x30000 64)
def labPf : State := labOp (.bulkpf 0x30000 0)

theorem wit_SyncPerforms_bind : Due labBind 0 0 act (opOf (.bind 0x30000 (some (0x30000, 64)))) (sw0 labBind)
    ∧ Due labUnbind 0 0 act (opOf (.bind 0x30000 none)) (sw0 labUnbind)
    ∧ labBind.mayPerform 0 (opOf (.bind 0x30000 (some (0x30000, 64)))) = true
    ∧ labBind.writableAt act 0x30000 64 page ∧ labBind.upd = [] ∧ Memory.wf labBind.mem = true
    ∧ (act.asid, 0x30000) ∉ labBind.clk.rels :=
  ⟨due_at (by decide +kernel), due_at (by decide +kernel), by decide +kernel, (coherent_at (by decide +kernel)).2, rfl,
    by decide +kernel, by decide +kernel⟩
theorem wit_SyncPerforms_rel : Due labRel 0 0 act (opOf (.rel .sys 0x30000)) (sw0 labRel)
    ∧ labRel.mayPerform 0 (opOf (.rel .sys 0x30000)) = true ∧ labRel.cleanL1 act.k act.asid ∧ scopeCode .sys = 5
    ∧ (∀ p ∈ labRel.posted, p.swarm ≠ 0) ∧ (labRel.fieldOf act.j).isSome = true ∧ labRel.restartable act.j = false :=
  ⟨due_at (by decide +kernel), by decide +kernel, by unfold State.cleanL1; decide +kernel, by decide, by decide +kernel,
    by decide +kernel, by decide +kernel⟩
/-- The same REL, at colony scope in a restartable colony. -/
def labRelRst : State := labRst (labOp (.rel .colony 0x30000))
theorem wit_SyncPerforms_restartable : Due labRelRst 0 0 act (opOf (.rel .colony 0x30000)) (sw0 labRelRst)
    ∧ labRelRst.mayPerform 0 (opOf (.rel .colony 0x30000)) = true ∧ labRelRst.writableAt act 0x30000 64 page
    ∧ labRelRst.cleanL1 act.k act.asid ∧ (labRelRst.fieldOf act.j).isSome = true
    ∧ ∃ col, labRelRst.colonies[act.j]? = some col ∧ col.rst = true ∧ col.bufferFull 0x30000 = false :=
  ⟨due_at (by decide +kernel), by decide +kernel, (coherent_at (by decide +kernel)).2, by unfold State.cleanL1; decide +kernel,
    by decide +kernel, { probeColony with rst := true }, by decide +kernel, by decide +kernel, by decide +kernel⟩
theorem wit_SyncPerforms_fence : Due labFence 0 0 act (opOf (.fence .dev)) (sw0 labFence)
    ∧ labFence.mayPerform 0 (opOf (.fence .dev)) = true ∧ labFence.cleanL1 act.k act.asid ∧ scopeCode .dev ≠ 5 :=
  ⟨due_at (by decide +kernel), by decide +kernel, by unfold State.cleanL1; decide +kernel, by decide⟩
theorem wit_SyncPerforms_ranges : Due labCinv 0 0 act (opOf (.cinv 0x30000 64)) (sw0 labCinv)
    ∧ Due labPf 0 0 act (opOf (.bulkpf 0x30000 0)) (sw0 labPf)
    ∧ labCinv.mayPerform 0 (opOf (.cinv 0x30000 64)) = true :=
  ⟨due_at (by decide +kernel), due_at (by decide +kernel), by decide +kernel⟩

/-- A swarm blocked on barrier 0 of an epoch that has been completed (GEN 1), and on one that has been invalidated. -/
def labWait : State :=
  { labSw fun w => { w with ops := [opOf .waiting], nextOp := 1, wait := some ⟨.barGen 0 0, 0, 9, 0, []⟩ } with
    colonies := [{ probeColony with bars := probeColony.bars.set 0 { Bar.clear with valid := true, m := 1, gen := 1 } }] }
def labInval : State := { labWait with colonies := [probeColony] }

theorem wit_WaitsEndWhenReleased : (envOf labWait 0).isSome = true
    ∧ (envAt labWait).w.wait = some ⟨.barGen 0 0, 0, 9, 0, []⟩ ∧ (envAt labWait).invalidated (.barGen 0 0) = none
    ∧ (envAt labWait).col.stop = none ∧ (labWait.tryWait 0).isSome = true := by
  refine ⟨?_, ?_, ?_, ?_, ?_⟩ <;> decide +kernel
theorem wit_WaitsEndWhenReleased_invalid : (envOf labInval 0).isSome = true
    ∧ (envAt labInval).w.wait = some ⟨.barGen 0 0, 0, 9, 0, []⟩
    ∧ (envAt labInval).col.stop = none
    ∧ (envAt labInval).invalidated (.barGen 0 0) = some (0, true) := by refine ⟨?_, ?_, ?_, ?_⟩ <;> decide +kernel

theorem wit_CombAccesses : Runs lab (envAt lab) cc { pushes := 1, access := true } true
    ∧ (envAt lab).operandOk .lane false ∧ (envAt lab).operandOk .zero false ∧ (envAt lab).scalarsOk [0] [0]
    ∧ (envAt lab).combOk 0 0 .zero ∧ (envAt lab).combLegal 0 0 .zero ∧ (envAt lab).combFree .zero :=
  ⟨runs_at (by decide +kernel) (by decide +kernel), operand_at (by decide +kernel), operand_at (by decide +kernel),
    scalars_at (by decide +kernel), by
      unfold Env.combOk
      have h : ∀ l < 64, (envAt lab).laneVa 0 .zero l < (envAt lab).fld.desc.combSize ∧ (envAt lab).laneVa 0 .zero l % 4 = 0
          ∧ (envAt lab).col.ringAt ((envAt lab).laneVa 0 .zero l) = none := by decide +kernel
      exact fun l hl _ => ⟨(h l hl).1, (h l hl).2.1, fun n r hr => by rw [(h l hl).2.2] at hr; cases hr⟩,
    by unfold Env.combLegal; decide +kernel, by
      have h : (envAt lab).w.ops = [] := by decide +kernel
      simp [Env.combFree, h]⟩
theorem wit_CombAccesses_any : Runs lab (envAt lab) cc { pushes := 1, access := true } false
    ∧ Issues lab (envAt lab) cc { access := true } false ∧ Issues lab (envAt lab) cc { access := true } true
    ∧ (envAt lab).col.combPoison = [] ∧ spWfFrom 0 0 (envAt lab).col.comb = true :=
  ⟨runs_at (by decide +kernel) (by decide +kernel), issues_at (by decide +kernel), issues_at (by decide +kernel), by decide +kernel,
    by decide +kernel⟩

/-- s1 describes barrier 31 of one swarm and 255 engine arrivals; barrier 31 is valid with no token held, or with one. -/
def labBar (tok : List (Nat × Nat)) : State :=
  { labSc [0, 0xFF00011F] with
    colonies := [{ probeColony with
      bars := probeColony.bars.set 31 { Bar.clear with valid := true, m := 1, e := 1, tokens := tok } }] }

theorem wit_BarrierForms_init : Issues (labBar []) (envAt (labBar [])) cc {} false ∧ (envAt (labBar [])).scalarsOk [1] [1]
    ∧ ((envAt (labBar [])).scalar 0 1).toNat = 255 * 2 ^ 24 + 1 * 2 ^ 8 + 31
    ∧ 1 ≤ (envAt (labBar [])).fld.desc.swarms ∧ 31 < (envAt (labBar [])).col.bars.length ∧ (envAt (labBar [])).barFree 31 :=
  ⟨issues_at (by decide +kernel), scalars_at (by decide +kernel), by decide +kernel, by decide +kernel, by decide +kernel,
    by unfold Env.barFree; decide +kernel⟩
theorem wit_BarrierForms_arrive : Issues (labBar []) (envAt (labBar [])) cc { quiet := true } true
    ∧ ((envAt (labBar [])).col.bar 31).valid = true ∧ ((envAt (labBar [])).col.bar 31).token? (envAt (labBar [])).w.idx = none
    ∧ (envAt (labBar [])).col.ringOf 31 = none ∧ (envAt (labBar [])).barWaitOk 31 :=
  ⟨issues_at (by decide +kernel), by decide +kernel, by decide +kernel, by decide +kernel,
    .inl (by decide +kernel)⟩
theorem wit_BarrierForms_token : Issues (labBar [(0, 0)]) (envAt (labBar [(0, 0)])) cc { quiet := true } false
    ∧ ((envAt (labBar [(0, 0)])).col.bar 31).valid = true
    ∧ ((envAt (labBar [(0, 0)])).col.bar 31).token? (envAt (labBar [(0, 0)])).w.idx = some 0
    ∧ (envAt (labBar [(0, 0)])).barWaitOk 31 :=
  ⟨issues_at (by decide +kernel), by decide +kernel, by decide +kernel, .inl (by decide +kernel)⟩
theorem wit_BarrierForms_invalid : Issues lab (envAt lab) cc { quiet := true } false
    ∧ ((envAt lab).col.bar 0).valid = false ∧ ((envAt lab).col.bar 0).token? (envAt lab).w.idx = none :=
  ⟨issues_at (by decide +kernel), by decide +kernel, by decide +kernel⟩

/-! ### Witnesses: rings, reserving loops, the matrix unit, copies -/

/-- s1, s2: ring of two slots of 16 bytes at comb 0, one stage, barrier 31 (Table 7.6). -/
def labRing : State := labSc [0, 0x00F8100010000000, 0]
def ring0 : Ring := ⟨0x00F8100010000000, 0, [0, 0, 0, 0, 0, 0, 0, 0]⟩

theorem wit_RingsAndTimelines : Issues labRing (envAt labRing) cc {} false ∧ (envAt labRing).scalarsOk [1, 2] [1, 2]
    ∧ ring0 = ⟨(envAt labRing).scalar 0 1, (envAt labRing).scalar 1 2, [0, 0, 0, 0, 0, 0, 0, 0]⟩
    ∧ ringChecks (envAt labRing) 7 ring0 = none ∧ (envAt labRing).col.rings.getD 7 none = none :=
  ⟨issues_at (by decide +kernel), scalars_at (by decide +kernel), by decide +kernel, by decide +kernel, by decide +kernel⟩
theorem wit_RingsAndTimelines_wait : Issues lab (envAt lab) cc {} true ∧ (envAt lab).scalarsOk [1023] [1023] :=
  ⟨issues_at (by decide +kernel), scalars_at (by decide +kernel)⟩

/-- s1, s2: a loop of 2^32 - 2 items with a quota of 16384; the loop when it stands open. -/
def labLoop (open_ : Bool) : State :=
  { labSc [0, 0xFFFFFFFE, 16384] with
    colonies := [{ probeColony with rsv := if open_ then some ⟨10, 0, 16384⟩ else none }] }
/-- Lane 0 holds item 0. -/
def labCand : State := (labLoop true).updSwarm 0 fun w => { w with lanes := w.lanes.set 0 ⟨some 0, false, []⟩ }
/-- The same inside a wave. -/
def labWave : State := labCand.updSwarm 0 fun w => { w with wave := true, lanes := w.lanes.set 0 ⟨some 0, true, []⟩ }

theorem wit_ReservingLoopForms_open : Issues (labLoop false) (envAt (labLoop false)) cc {} false
    ∧ (envAt (labLoop false)).scalarsOk [3, 1, 2] [1, 2] ∧ ((envAt (labLoop false)).scalar 0 1).toNat = 0xFFFFFFFE
    ∧ ((envAt (labLoop false)).scalar 1 2).toNat = 16384 :=
  ⟨issues_at (by decide +kernel), scalars_at (by decide +kernel), by decide +kernel, by decide +kernel⟩
theorem wit_ReservingLoopForms_cand : Runs (labLoop true) (envAt (labLoop true)) cc { pushes := 1 } false
    ∧ (envAt (labLoop true)).col.rsv = some ⟨10, 0, 16384⟩ ∧ (envAt (labLoop true)).w.wave = false
    ∧ (envAt (labLoop true)).w.lanes.length = 64 :=
  ⟨runs_at (by decide +kernel) (by decide +kernel), by decide +kernel, by decide +kernel, by decide +kernel⟩
theorem wit_ReservingLoopForms_claim : Issues labCand (envAt labCand) cc {} false ∧ (envAt labCand).operandOk .zero false
    ∧ (envAt labCand).scalarsOk [0] [0] ∧ (envAt labCand).col.rsv = some ⟨10, 0, 16384⟩
    ∧ (∀ l < 64, ((envAt labCand).w.lanes.getD l RLane.free).pending = true →
      (envAt labCand).laneVa 0 .zero l < 2 ^ 52 ∧ ((envAt labCand).w.lanes.getD l RLane.free).claims.length < 8)
    ∧ ((envAt labCand).w.lanes.getD 0 RLane.free).pending = true
    ∧ labCand.claimsUsed (envAt labCand).w.colony + 64 ≤ 16384 :=
  ⟨issues_at (by decide +kernel), operand_at (by decide +kernel), scalars_at (by decide +kernel), by decide +kernel,
    by decide +kernel, by decide +kernel, by decide +kernel⟩
theorem wit_ReservingLoopForms_wave : Issues labCand (envAt labCand) cc {} true ∧ (envAt labCand).fld.cls ≤ 1
    ∧ Issues labCand (envAt labCand) cc {} false ∧ labCand.lowBlocked (envAt labCand).w.colony labCand.cur = false
    ∧ (envAt labCand).w.acqFree none ∧ (envAt labCand).w.lanes.length = 64
    ∧ ∀ l < 64, ∀ l' < 64, ((envAt labCand).w.lanes.getD l RLane.free).pending = true →
        ((envAt labCand).w.lanes.getD l' RLane.free).pending = true → l = l' :=
  ⟨issues_at (by decide +kernel), by decide +kernel, issues_at (by decide +kernel), by decide +kernel, by
      have h : (envAt labCand).w.ops = [] := by decide +kernel
      simp [Swarm.acqFree, h], by decide +kernel, by decide +kernel⟩
/-- Lane 0 holds an item whose turn another swarm's claim bars. -/
def labLow : State :=
  { labCand with swarms := labCand.swarms.map (fun w => { w with lanes := w.lanes.set 0 ⟨some 1, false, [7]⟩ })
      ++ labCand.swarms.map fun w => { w with idx := 1, wave := true, lanes := w.lanes.set 0 ⟨some 0, true, [7]⟩ } }
theorem wit_ReservingLoopForms_low : Issues labLow (envAt labLow) cc {} false ∧ (envAt labLow).w.wave = false
    ∧ labLow.lowBlocked (envAt labLow).w.colony labLow.cur = true :=
  ⟨issues_at (by decide +kernel), by decide +kernel, by decide +kernel⟩
theorem wit_ReservingLoopForms_done : Issues labWave (envAt labWave) cc { access := true, quiet := true } true
    ∧ (envAt labWave).w.wave = true ∧ labWave.cleanL1 (envAt labWave).core (envAt labWave).ctx.asid
    ∧ (envAt labWave).col.rsv = some ⟨10, 0, 16384⟩ :=
  ⟨issues_at (by decide +kernel), by decide +kernel, by unfold State.cleanL1; decide +kernel, by decide +kernel⟩

/-- The configuration words of the convolution example, and tile 0 owned by the colony with the swarm's token. -/
def tcfgEx : List W64 := [0x0000020000100208, 0, 0xC]
def ucfgEx : List W64 := [0x0100000000000000, 0x0000000400080001, 0x0000000802020000, 1]
def labTile : State :=
  { labSw fun w => { w with
      tcfg := tcfgEx, ucfg := ucfgEx, scalars := startScalars 1024 ([0] ++ tcfgEx ++ ucfgEx)
      top := { w.top with queue := w.top.queue.set 0 ⟨splat 0x400, false, none, false⟩ } } with
    dies := [{ Die.reset with clusters := [{ Cluster.reset with
      cores := [{ CoreSt.reset with tiles := [⟨some 0, some 0, [], []⟩, ⟨none, none, [], []⟩] }] }] }] }

theorem wit_TileForms : Issues labTile (envAt labTile) cc {} false ∧ (envAt labTile).scalarsOk [9] []
    ∧ (envAt labTile).holdsToken 0 ∧ (envAt labTile).tileStill 0 ∧ ((envAt labTile).tileOf 1).owner = none
    ∧ Issues labTile (envAt labTile) cc { tile := some 0 } false
    ∧ Runs labTile (envAt labTile) cc { pushes := 1, tile := some 0 } false
    ∧ (envAt labTile).operandOk (.age 0) false ∧ spWfFrom 0 0 ((envAt labTile).tileOf 0).elems = true
    ∧ ((envAt labTile).tileOf 0).bad = [] := by
  refine ⟨issues_at (by decide +kernel), scalars_at (by decide +kernel), by unfold Env.holdsToken; decide +kernel, ?_,
    by decide +kernel, issues_at (by decide +kernel), runs_at (by decide +kernel) (by decide +kernel),
    operand_at (by decide +kernel), by decide +kernel, by decide +kernel⟩
  have h : (envAt labTile).w.ops = [] := by decide +kernel
  intro o ho
  rw [h] at ho
  cases ho
theorem wit_TileForms_config : (envAt labTile).scalarsOk [1, 2, 3] [1, 2, 3] ∧ (envAt labTile).scalarsOk [4, 5, 6, 7] [4, 5, 6, 7]
    ∧ tileCfgBad [(envAt labTile).scalar 0 1, (envAt labTile).scalar 1 2, (envAt labTile).scalar 2 3] = false
    ∧ unfCfgBad [(envAt labTile).scalar 0 4, (envAt labTile).scalar 1 5, (envAt labTile).scalar 2 6, (envAt labTile).scalar 3 7]
      = false :=
  ⟨scalars_at (by decide +kernel), scalars_at (by decide +kernel), by decide +kernel, by decide +kernel⟩

theorem wit_MatrixOperationsIssue : Issues labTile (envAt labTile) cc {} false ∧ (envAt labTile).operandOk (.age 0) false
    ∧ ((envAt labTile).tileOf 0).owner = some (envAt labTile).w.colony ∧ ((envAt labTile).tileOf 0).token = some labTile.cur
    ∧ (tileCfg (envAt labTile).w.tcfg).m ≠ 0 ∧ (∃ x ∈ (envAt labTile).w.ucfg, x ≠ 0)
    ∧ (envAt labTile).votes ((envAt labTile).mask 0) (.age 0) 0x400
    ∧ mmaRangeTrap (envAt labTile) (tileCfg (envAt labTile).w.tcfg) (unfCfg (envAt labTile).w.ucfg) 0x400 0 0 = none := by
  refine ⟨issues_at (by decide +kernel), operand_at (by decide +kernel), by decide +kernel, by decide +kernel,
    by decide +kernel, ?_, by unfold Env.votes; decide +kernel, by decide +kernel⟩
  have h : (envAt labTile).w.ucfg = ucfgEx := by decide +kernel
  rw [h]
  exact ⟨1, by decide, by decide⟩

/-- The arrival of the lab's swarm at an operation of one part, and at one of two parts. -/
def arrival (rb : Nat) : CoopArr :=
  let e := envAt labTile
  ⟨0, rb, 0, 0, 0, 0, false, allLanes, e.w.tcfg, e.w.ucfg, 0x400, e.col.rings⟩

theorem wit_MatrixOperationsIssue_coop : (∀ b ∈ (envAt labTile).col.coop, b.swarm ≠ labTile.cur)
    ∧ (tileCfg (envAt labTile).w.tcfg).rb * (tileCfg (envAt labTile).w.tcfg).cb = 1
    ∧ coopGroup ((envAt labTile).col.coop ++ [arrival 1]) 0 = some [arrival 1]
    ∧ coopGroup ((envAt labTile).col.coop ++ [arrival 2]) 0 = none := by refine ⟨?_, ?_, ?_, ?_⟩ <;> decide +kernel

/-- That operation, accepted. -/
def onePart : MmaPart := ⟨0, 0, 0, 0, 0, 0, 0, false, allLanes, tcfgEx, ucfgEx, [], 0x400⟩
def labMma : State := { labTile with mmas := [⟨0, 1, [onePart], false, 0, 0, false⟩] }

theorem wit_MmaPerforms : labMma.mmas.find? (fun m => m.uses 0) = some ⟨0, 1, [onePart], false, 0, 0, false⟩
    ∧ 0 ≤ labMma.cycleOf 0 ∧ labMma.colonies[0]? = some probeColony ∧ labMma.engineTurn = true
    ∧ probeColony.combPoison = [] ∧ (labMma.core (0, 0, 0)).tiles[onePart.tile]? = some ⟨some 0, some 0, [], []⟩
    ∧ (∃ d cl, labMma.dies[onePart.die]? = some d ∧ d.clusters[onePart.clus]? = some cl ∧ onePart.core < cl.cores.length)
    ∧ (tileCfg onePart.tcfg).n ≤ 160 := by
  refine ⟨?_, ?_, ?_, ?_, ?_, ?_, ⟨_, _, rfl, rfl, ?_⟩, ?_⟩ <;> decide +kernel

/-- Record rc_in of the convolution example (`copy npart=1, ctx=0, bar=0`), or one of every swarm, in a pool in the coherent
page; a slice of 64 bytes from s1 up; S swarms. -/
def labCopy (rec_ S : Nat) (cs : List Coll) : State :=
  { labSc [0, 0x30000, 0, 64, 0] with
    fields := [{ probeField with desc := { probeDesc with recBase := 0x30000, swarms := S } }]
    mem := memPutBytes lab.mem 0x50000 (leBytes 8 rec_)
    colls := cs }
def sliceEx : Slice := ⟨0, 0, [0x30000, 0, 64, 0], []⟩
/-- The collective that another swarm's slice has opened. -/
def collEx : Coll := ⟨0, 0, 0, 0x01000200, 0, 0, [{ sliceEx with swarm := 1 }], 0, .open_, 0⟩

theorem wit_CopySlicesJoin : Issues (labCopy 0x09000200 1 []) (envAt (labCopy 0x09000200 1 [])) cc { access := true } false
    ∧ copyQueued (envAt (labCopy 0x09000200 1 [])) < 64
    ∧ (envAt (labCopy 0x09000200 1 [])).scalarsOk (regsFrom 1 4) (regsFrom 1 4)
    ∧ (labCopy 0x09000200 1 []).heldMap 1 0x30000 = some page ∧ (labCopy 0x09000200 1 []).poisoned (page.paOf 0x30000) 8 = false
    ∧ leNat ((labCopy 0x09000200 1 []).physRead (page.paOf 0x30000) 8) = 0x09000200
    ∧ copyRecBad (envAt (labCopy 0x09000200 1 [])) 0x09000200 = false
    ∧ copyArgsBad (copyRec 0x09000200) (copyArgs sliceEx.args) = false
    ∧ copyBadVa (copyRec 0x09000200) (copyArgs sliceEx.args) = none
    ∧ copyCombOor (envAt (labCopy 0x09000200 1 [])) (copyRec 0x09000200) (copyArgs sliceEx.args) = none
    ∧ (labCopy 0x09000200 1 []).cleanL1 (0, 0, 0) 1
    ∧ (envAt (labCopy 0x09000200 1 [])).joins (copyRec 0x09000200).ctx = none
    ∧ (labCopy 0x09000200 1 []).holds 1 0x30000 false = false := by
  refine ⟨issues_at (by decide +kernel), by decide +kernel, scalars_at (by decide +kernel), ?_, ?_, ?_, ?_, ?_, ?_, ?_,
    by unfold State.cleanL1; decide +kernel, by decide +kernel, by decide +kernel⟩ <;> decide +kernel
theorem wit_CopySlicesJoin_joins : Issues (labCopy 0x01000200 2 [collEx]) (envAt (labCopy 0x01000200 2 [collEx])) cc { access := true } false
    ∧ (envAt (labCopy 0x01000200 2 [collEx])).joins (copyRec 0x01000200).ctx = some collEx ∧ collEx.recIdx = 0
    ∧ collEx.rec_ = BitVec.ofNat 64 0x01000200 ∧ copyStageBad (envAt (labCopy 0x01000200 2 [collEx])) collEx = false
    ∧ (envAt (labCopy 0x01000200 2 [collEx])).fld.desc.swarms ≤ collEx.slices.length + 1 :=
  ⟨issues_at (by decide +kernel), by decide +kernel, by decide +kernel, by decide +kernel, by decide +kernel, by decide +kernel⟩

/-- A collective that waits for an engine, and one that runs. -/
def collRun (st : CollState) : Coll := ⟨0, 0, 0, 0x09000200, 0, 0, [sliceEx], 1, st, 0⟩

theorem wit_CopyCollectivesRun_start :
    (labCopy 0 1 [collRun .queued]).colls.find? (fun x => x.state == .queued && (labCopy 0 1 [collRun .queued]).collOn 0 0 x)
      = some (collRun .queued)
    ∧ (labCopy 0 1 [collRun .queued]).colls.countP
        (fun y => y.state == .running && (labCopy 0 1 [collRun .queued]).collOn 0 0 y) < 4 := by constructor <;> decide +kernel
/-- It runs, in a colony that declares no ring. -/
def colNoRing : Colony := { probeColony with rings := [] }
def labRun : State := { labCopy 0 1 [collRun .running] with colonies := [colNoRing] }

theorem wit_CopyCollectivesRun : labRun.colls.find?
      (fun x => x.colony == 0 && x.ctx == 0 && x.num == 1 && x.state == .running) = some (collRun .running)
    ∧ labRun.colonies[0]? = some colNoRing ∧ colNoRing.rst = false ∧ spWfFrom 0 0 colNoRing.comb = true
    ∧ labRun.engineTurn = true ∧ 0 < colNoRing.copyDone.length ∧ (copyRec 0x09000200).toGlobal = false ∧ (copyRec 0x09000200).mode = 0
    ∧ ∀ i < 64, labRun.heldMap 1 (0x30000 + i) = some page ∧ labRun.poisoned (page.paOf (0x30000 + i)) 1 = false
        ∧ isSelfReg (page.paOf (0x30000 + i)) = false ∧ isPeerPa (page.paOf (0x30000 + i)) = false
        ∧ labRun.synonym (page.paOf (0x30000 + i)) = false ∧ labRun.holds 1 (0x30000 + i) false = false := by
  refine ⟨?_, ?_, ?_, ?_, ?_, ?_, ?_, ?_, ?_⟩ <;> decide +kernel

/-! ### Witnesses: tiles of a field, task queues, launches, special registers -/

/-- s1 names the coherent page, s3 a page that is not resident; the launch queue is full or not. -/
def labWork (q : List Nat) : State :=
  { labSc [0, 0x30000, 1, 0x7FF0000] with colonies := [{ probeColony with launchQ := q }] }

theorem wit_WorkForms : Issues (labWork []) (envAt (labWork [])) cc {} false ∧ (envAt (labWork [])).col.rst = false
    ∧ (envAt (labWork [])).scalarsOk (regsFrom 1019 5) [] ∧ (envAt (labWork [])).col.tileReplay = []
    ∧ min (4095 : Fin 4096).val ((envAt (labWork [])).fld.tx * (envAt (labWork [])).fld.ty * (envAt (labWork [])).fld.tz
        - (envAt (labWork [])).fld.nextTile) ≠ 0 :=
  ⟨issues_at (by decide +kernel), by decide +kernel, scalars_at (by decide +kernel), by decide +kernel, by decide +kernel⟩
theorem wit_WorkForms_none_left :
    min (1 : Fin 4096).val (1 * 1 * 1 - ({ probeField with nextTile := 1 } : FieldSt).nextTile) = 0 := by decide
theorem wit_WorkForms_restartable : Issues (labRst (labWork [])) (envAt (labRst (labWork []))) cc { access := true } false
    ∧ (envAt (labRst (labWork []))).col.rst = true :=
  ⟨issues_at (by decide +kernel), by decide +kernel⟩
theorem wit_WorkForms_restartable_pop : (envAt (labRst (labWork []))).scalarsOk (regsFrom 1021 3) []
    ∧ (envAt (labRst (labWork []))).scalarsOk [5, 1, 2] [1, 2] := ⟨scalars_at (by decide +kernel), scalars_at (by decide +kernel)⟩
theorem wit_WorkForms_launch : Issues (labWork []) (envAt (labWork [])) cc { access := true, quiet := true } true
    ∧ (envAt (labWork [])).scalarsOk [5, 1] [1] ∧ (labWork []).cleanL1 (envAt (labWork [])).core (envAt (labWork [])).ctx.asid
    ∧ ((envAt (labWork [])).scalar 0 1).toNat % 64 = 0 ∧ (envAt (labWork [])).col.launchQ.length < 4
    ∧ 4 ≤ (envAt (labWork [0, 64, 128, 192])).col.launchQ.length :=
  ⟨issues_at (by decide +kernel), scalars_at (by decide +kernel), by unfold State.cleanL1; decide +kernel, by decide +kernel,
    by decide +kernel, by decide +kernel⟩
theorem wit_WorkForms_join : Issues (labWork []) (envAt (labWork [])) cc { access := true } true
    ∧ (envAt (labWork [])).scalarsOk [5, 1, 2] [1, 2] ∧ (labWork []).heldMap (envAt (labWork [])).ctx.asid 0x30000 = some page
    ∧ (labWork []).poisoned (page.paOf 0x30000) 64 = false
    ∧ legalWait 0 .other false = true
    ∧ (labWork []).heldMap (envAt (labWork [])).ctx.asid 0x7FF0000 = none
    ∧ (labWork []).walkAny (envAt (labWork [])).ctx.asid 0x7FF0000 = .nonres
    ∧ (labWork []).holds (envAt (labWork [])).ctx.asid 0x30000 false = false
    ∧ (labWork []).holds (envAt (labWork [])).ctx.asid 0x7FF0000 false = false :=
  ⟨issues_at (by decide +kernel), scalars_at (by decide +kernel), by decide +kernel, by decide +kernel, by decide,
    by decide +kernel, by decide +kernel, by decide +kernel, by decide +kernel⟩

/-- A port with room for pairs of the context, and a push and a pop on their way. -/
def portQ (ts : List TaskPair) : Port := { Port.reset with tasks := ts, quotas := [(1, 8)] }
def labTask (b : OpBody) (ts : List TaskPair) : State := { labOp b with ports := List.replicate 8 (portQ ts) }

theorem wit_TaskQueuesPerform : Due (labTask (.taskPush 7 5 6 1) []) 0 0 act (opOf (.taskPush 7 5 6 1))
      (sw0 (labTask (.taskPush 7 5 6 1) []))
    ∧ (labTask (.taskPush 7 5 6 1) []).mayPerform 0 (opOf (.taskPush 7 5 6 1)) = true
    ∧ (labTask (.taskPush 7 5 6 1) []).ports[7]? = some (portQ []) ∧ (portQ []).tasks.length < 262144
    ∧ (portQ []).tasks.countP (fun t => t.asid == act.asid) < spGet 0 (portQ []).quotas act.asid
    ∧ spGet 0 Port.reset.quotas act.asid ≤ Port.reset.tasks.countP (fun t => t.asid == act.asid)
    ∧ 7 ∉ (labTask (.taskPush 7 5 6 1) []).clk.popped :=
  ⟨due_at (by decide +kernel), by decide +kernel, by decide +kernel, by decide +kernel, by decide +kernel, by decide +kernel,
    by decide +kernel⟩
theorem wit_TaskQueuesPerform_pop : Due (labTask (.taskPop 7 1) [⟨1, 5, 6⟩]) 0 0 act (opOf (.taskPop 7 1))
      (sw0 (labTask (.taskPop 7 1) [⟨1, 5, 6⟩]))
    ∧ (labTask (.taskPop 7 1) [⟨1, 5, 6⟩]).mayPerform 0 (opOf (.taskPop 7 1)) = true
    ∧ ((portQ [⟨1, 5, 6⟩]).tasks.filter fun t => t.asid == act.asid)[0]? = some ⟨1, 5, 6⟩
    ∧ (portQ []).tasks.filter (fun t => t.asid == act.asid) = [] :=
  ⟨due_at (by decide +kernel), by decide +kernel, by decide +kernel, by decide +kernel⟩

def labSwr (r : SpReg) (v : W64) : State := labOp (.result [] [] none (some (r, v)))

theorem wit_SpecialRegisters : Issues lab (envAt lab) cc {} false ∧ (envAt lab).scalarsOk [1023, 0, 1] [0, 1]
    ∧ SpReg.copyst.writable = true
    ∧ Due (labSwr .starve 30) 0 0 act (opOf (.result [] [] none (some (.starve, 30)))) (sw0 (labSwr .starve 30)) :=
  ⟨issues_at (by decide +kernel), scalars_at (by decide +kernel), by decide, due_at (by decide +kernel)⟩

/-! ### Witnesses: scheduling -/

/-- A launch record at 0x30000 for the descriptor at VA 0: one colony, CONC, device scope, one tile (Table 13.1). -/
def recWords (good : Bool) : List Nat := if good then [0, 0x0000000110000000, 1, 1, 1] else []
/-- The context with save ranges. -/
def saveCtx : Ctx := { probeCtx with saveBase := 2 ^ 41, saveSize := 2 ^ 30 }
/-- It stands first in the colony's queue; the loaded descriptor's comb takes `comb` bytes; the swarm waits on a full launch
queue, so that its colony may lend. -/
def labRec (good : Bool) (comb : Nat) : State :=
  let d := { probeDesc with combSize := comb }
  { labSw fun w => { w with wait := some ⟨.launch 0x30040 1, 0, 0, 0, []⟩, ops := [opOf .waiting], nextOp := 1 } with
    mem := memPutBytes lab.mem 0x50000 ((recWords good).flatMap (leBytes 8))
    loaded := [⟨1, 0, d⟩]
    ctxs := [saveCtx]
    fields := [{ probeField with desc := d }]
    colonies := [{ probeColony with launchQ := [0x30000] }] }

/-- The verdict's kind. -/
def kindOf (v : Except Unread Verdict) : Nat × List Nat :=
  match v with
  | .ok (.reject st) => (0, [st])
  | .ok (.accept _ n _ b _ _) => (1, [n, b])
  | .ok (.hold js) => (2, js)
  | .error .poison => (3, [])
  | .error _ => (4, [])

theorem wit_ColonyLifeCycle_record : (labRec true 0).colonies[0]? = some { probeColony with launchQ := [0x30000] }
    ∧ (labRec true 0).ctx? ((labRec true 0).colCtx 0) = some saveCtx ∧ saveCtx.fault = none ∧ probeColony.alive = true
    ∧ 0 ∉ (labRec true 0).clk.launched
    ∧ kindOf ((labRec false 0).newResvs.examined saveCtx 0x30000 (some 0)) = (0, [5])
    ∧ kindOf ((labRec true 0).newResvs.examined saveCtx 0x30000 (some 0)) = (1, [1, 2 ^ 40 + 2 ^ 16])
    ∧ kindOf ((labRec true (2 ^ 24)).newResvs.examined saveCtx 0x30000 (some 0)) = (2, [0]) ∧ probeColony.lent = false
    ∧ kindOf (({ labRec true 0 with poison := [0x5000] } : State).newResvs.examined saveCtx 0x30000 (some 0)) = (3, []) := by
  refine ⟨?_, ?_, ?_, ?_, ?_, ?_, ?_, ?_, ?_, ?_⟩ <;> decide +kernel

/-- The colony waits for its first placement; no swarm of it has started. -/
def labWaiting : State := { lab with colonies := [{ probeColony with status := .waiting, place := none }], swarms := [] }

theorem wit_ColonyLifeCycle_place : labWaiting.waitingAt 0 0 = some 0 ∧ probeField.live = true
    ∧ labWaiting.mayAdmit 0 (labWaiting.colonies.getD 0 probeColony) 0 = true
    ∧ labWaiting.itsTurn 0 1 (labWaiting.colonies.getD 0 probeColony) = true
    ∧ labWaiting.mayPlace 0 (labWaiting.colonies.getD 0 probeColony) probeField probeCtx ⟨0, 0, [0]⟩ = true
    ∧ labWaiting.mayPlace 0 (labWaiting.colonies.getD 0 probeColony) probeField probeCtx ⟨0, 0, [11]⟩ = true
    ∧ labWaiting.swarmsOf 0 = [] := by refine ⟨?_, ?_, ?_, ?_, ?_, ?_, ?_⟩ <;> decide +kernel

/-- The lab with a save area in the coherent page. -/
def labSave : State := { lab with
  swarms := lab.swarms.map fun w => { w with privBase := 0x30000, privSize := 2 ^ 16, wait := some ⟨.launch 0x30040 1, 0, 0, 0, []⟩
                                             ops := [opOf .waiting], nextOp := 1 }
  colonies := [{ probeColony with lent := true }] }

/-- The same state in a later clock. -/
def laterClock (s : State) : State := { s with clk := Clock.reset }

theorem wit_ColonyLifeCycle_lend : (labSave.colonies.getD 0 probeColony).place = some probeSpan
    ∧ (labSave.colonies.getD 0 probeColony).lent = true ∧ labSave.lendable 0 = true
    ∧ (labSave.colonies.getD 0 probeColony).stop = none ∧ (labSave.colonies.getD 0 probeColony).status = .running
    ∧ labSave.mayPreempt 0 = true ∧ (laterClock (labSave.stopColony .lending 0)).savable 0 probeCtx probeSpan :=
  ⟨by decide +kernel, by decide +kernel, by decide +kernel, by decide +kernel, by decide +kernel, by decide +kernel,
    by decide +kernel, by decide +kernel, by decide +kernel⟩
/-- A result of its swarm is still on its way. -/
def labLate : State := { labSave with
  swarms := labSave.swarms.map fun w => { w with
    ops := w.ops ++ [⟨1, 0, none, false, none, 0, .result [] [(3, 7)] none none⟩], nextOp := 2 } }
theorem wit_ColonyLifeCycle_drains : labLate.lendable 0 = true ∧ (labLate.stopColony .lending 0).mayPreempt 0 = false
    ∧ labLate.mayPreempt 0 = false := by refine ⟨?_, ?_, ?_⟩ <;> decide +kernel
theorem wit_ColonyLifeCycle_lends_no_more : ({ lab with colonies := [{ probeColony with lent := true }] } : State).lendable 0 = false
    ∧ probeColony.status = .running := by constructor <;> decide +kernel

/-- A colony of another context waits for cores of the cluster, and a period has ended. -/
def shareIt (s : State) : State := { s with
  dies := s.dies.map fun d => { d with cycle := 2 ^ 23 }
  colonies := s.colonies ++ [{ probeColony with field := 1, status := .waiting, place := none }]
  fields := [probeField, { probeField with id := 2, ctx := 2 }]
  ctxs := [probeCtx, { probeCtx with handle := 2, asid := 2 }] }

theorem wit_ColonyLifeCycle_rotate : (shareIt labLate).rotates 0 = true ∧ (shareIt labLate).mayPreempt 0 = false
    ∧ (shareIt labSave).rotates 0 = true ∧ (shareIt labSave).mayPreempt 0 = true
    ∧ (laterClock (((shareIt labSave).rotated 0).stopColony .rotation 0)).savable 0 probeCtx probeSpan :=
  ⟨by decide +kernel, by decide +kernel, by decide +kernel, by decide +kernel, by decide +kernel, by decide +kernel,
    by decide +kernel⟩

/-- Its swarm has ended. -/
def labEnded : State := labSw fun w => { w with ended := true }

theorem wit_ColonyLifeCycle_retire : probeColony.place = some probeSpan ∧ probeColony.status = .running
    ∧ labEnded.allEnded 0 = true ∧ labEnded.enginesDone 0 probeColony = true ∧ probeColony.sbuf = []
    ∧ ∀ k ∈ probeSpan.coreKeys, labEnded.cleanL1 k 1 :=
  ⟨by decide +kernel, by decide +kernel, by decide +kernel, by decide +kernel, by decide +kernel,
    by unfold State.cleanL1; decide +kernel⟩

/-- The colony has been saved, not lent. -/
def labSaved : State := { lab with colonies := [{ probeColony with status := .saved, place := none }] }

theorem wit_ColonyLifeCycle_resume : (labSaved.colonies.getD 0 probeColony).status = .saved
    ∧ labSaved.raisedFirst 0 probeField.ctx = true ∧ labSaved.yields 0 (labSaved.colonies.getD 0 probeColony) = false
    ∧ ((labSaved.readSave 0 probeCtx).colonies[0]?).isSome = true
    ∧ labSaved.mayResume 0 (labSaved.colonies.getD 0 probeColony) probeField probeCtx ⟨0, 0, [0]⟩ = true := by
  refine ⟨?_, ?_, ?_, ?_, ?_⟩ <;> decide +kernel

/-- A blocked swarm whose timer has just reached its limit. -/
def labStarve (level : Nat) : State :=
  labSw fun w => { w with ops := [opOf .waiting], nextOp := 1, wait := some ⟨.barGen 0 0, 0, 2 ^ 20, 0, []⟩, starveLevel := level }

theorem wit_PriorityAndStarvation : (envOf (labStarve 0) 0).isSome = true
    ∧ (envAt (labStarve 0)).w.wait = some ⟨.barGen 0 0, 0, 2 ^ 20, 0, []⟩ ∧ 2 ^ (envAt (labStarve 0)).w.starveLog2 ≤ 2 ^ 20
    ∧ (envAt (labStarve 0)).w.starveLevel = 0 ∧ (envAt (labStarve 1)).w.starveLevel = 1
    ∧ (envAt (labStarve 1)).col.stop = none
    ∧ (envAt (labStarve 1)).w.ops.find? (fun o => o.id == 0) = some (opOf .waiting) := by
  refine ⟨?_, ?_, ?_, ?_, ?_, ?_, ?_⟩ <;> decide +kernel
theorem wit_PriorityAndStarvation_throttle : (shareIt lab).throttleDue (coreKey 0) 3 = true
    ∧ (shareIt lab).quarterOf (coreKey 0) 0 = [0] := by constructor <;> decide +kernel
theorem wit_PriorityAndStarvation_top : 4096 ≤ (sw0 (labSw fun w => { w with readyCount := 4096 })).readyCount
    ∧ (labSw fun w => { w with readyCount := 4096 }).first 0 (sw0 (labSw fun w => { w with readyCount := 4096 })) = true := by
  constructor <;> decide +kernel
theorem wit_PriorityAndStarvation_hold : (envAt (labSw fun w => { w with hold := some 0 })).w.hold = some 0
    ∧ 0 ≤ (envAt (labSw fun w => { w with hold := some 0 })).cycle := by constructor <;> decide +kernel

/-! ### Witnesses: errors, power, links -/

/-- A bound line of the page with one dirty byte, and without. -/
def lineOf (dirty : W64) : L1Line := ⟨1, 0xC00, true, List.replicate 64 7, BitVec.allOnes 64, dirty, [], 0⟩
def labLine (dirty : W64) : State := lab.updCore (0, 0, 0) fun k => { k with l1 := [lineOf dirty] }

theorem wit_ErrorsAndEvictions_clean :
    ((labLine 0).core (coreKey 0)).l1.find? (fun l => l.asid == 1 && l.line == 0xC00) = some (lineOf 0) := by
  have h : ((labLine 0).core (coreKey 0)).l1 = [lineOf 0] := by decide +kernel
  rw [h]
  rfl
theorem wit_ErrorsAndEvictions :
    ((labLine 1).core (coreKey 0)).l1.find? (fun l => l.asid == 1 && l.line == 0xC00) = some (lineOf 1)
    ∧ (lineOf 1).dirty ≠ 0 ∧ Memory.wf (labLine 1).mem = true ∧ (labLine 1).heldMap 1 (0xC00 * 64) = some page
    ∧ page.w = true ∧ page.dset = true ∧ (labLine 1).holds 1 (0xC00 * 64) true = false := by
  have h : ((labLine 1).core (coreKey 0)).l1 = [lineOf 1] := by decide +kernel
  rw [h]
  exact ⟨rfl, by decide, by decide +kernel, by decide +kernel, rfl, rfl, by decide +kernel⟩
/-- A core of another cluster shares the line. -/
def labShared : State := { lab with ports := lab.ports.map fun p => { p with
  dir := [⟨1, 0xC00, .shared, [0], false, none, [((0, 0, 0), 0)]⟩] } }
theorem wit_ErrorsAndEvictions_coherent :
    (labShared.core (coreKey 0)).l1.find? (fun l => l.asid == 1 && l.line == 0xC00) = none
    ∧ labShared.coherentFiller (coreKey 0) 1 0xC00 = some 0 := by
  have h : (labShared.core (coreKey 0)).l1 = [] := by decide +kernel
  rw [h]
  exact ⟨rfl, by decide +kernel⟩
theorem wit_ErrorsAndEvictions_marks : lab.swarms[0]? = some (sw0 lab)
    ∧ ((lab.core (coreKey 0)).tiles[1]?).isSome = true := by constructor <;> decide +kernel
theorem wit_ErrorsAndEvictions_colony : lab.colonies[0]? = some probeColony ∧ probeColony.status = .running
    ∧ probeColony.rst = false ∧ ({ probeColony with rst := true, rstCount := 2 } : Colony).rstCount < 3
    ∧ 3 ≤ ({ probeColony with rst := true, rstCount := 3 } : Colony).rstCount ∧ lab.fields[probeColony.field]? = some probeField := by
  refine ⟨?_, ?_, ?_, ?_, ?_, ?_⟩ <;> decide +kernel

theorem wit_PowerEvents : Die.reset.up = true ∧ Die.reset.trans = none ∧ Die.reset.req < 8
    ∧ lab.dies[0]? = some (lab.dies.getD 0 Die.reset) ∧ ((lab.dies.getD 0 Die.reset).clusters[0]?).isSome = true
    ∧ lab.stage = 3 ∧ Die.reset.lim < 7 ∧ ({ Die.reset with lim := 7 } : Die).up = true ∧ Die.reset.unparked = true
    ∧ Die.reset.dead = false ∧ [0].Nodup := by
  refine ⟨?_, ?_, ?_, ?_, ?_, ?_, ?_, ?_, ?_, ?_, ?_⟩ <;> decide +kernel
/-- The I/O die's clock stands at `n`. -/
def labTime (n : Nat) : State := { lab with ioCycle := n }
theorem wit_PowerEvents_times : (labTime 1000).shareAt + 1000 ≤ (labTime 1000).ioCycle
    ∧ 2500 ≤ 50 * max (labTime 1000).pwrCap 0
    ∧ Cluster.reset.checked < (labTime (2 ^ 36)).ioCycle / 2 ^ 36
    ∧ ({ Die.reset with withheld := some 0 } : Die).withheld = some 0 ∧ 0 + 100000 ≤ (labTime 100000).ioCycle
    ∧ ({ Die.reset with light := some 0 } : Die).light = some 0 ∧ 0 + 1000000 ≤ (labTime 1000000).ioCycle := by
  refine ⟨?_, ?_, ?_, ?_, ?_, ?_, ?_⟩ <;> decide +kernel
/-- A die on its way to P7, long enough, or one that then parks. -/
def dieTo (req : Nat) : Die := { Die.reset with trans := some 7, busy := true, req := req, elapsed := 2 ^ 20 }
def labTo : State := { lab with dies := lab.dies.set 0 { dieTo 8 with trans := none, busy := false, cur := 7 } }
/-- A die that parks, with nothing on it. -/
def labPark : State :=
  { lab with dies := [{ Die.reset with parking := true, req := 8 }], colonies := [], swarms := [], links := [⟨2, false, 0, 0, 0, none⟩] }

theorem wit_PowerEvents_transition : (dieTo 7).trans = some 7 ∧ slewTime (dieTo 7).cur 7 + 500 ≤ (dieTo 7).elapsed
    ∧ (dieTo 7).req ≠ 8 ∧ (dieTo 8).req = 8 ∧ labTo.parkCheck 0 = none
    ∧ (({ labTo with dies := labTo.dies ++ [Die.reset], colonies := [], swarms := [] } : State).parkCheck 0).isSome = true := by
  refine ⟨?_, ?_, ?_, ?_, ?_, ?_⟩ <;> decide +kernel
theorem wit_PowerEvents_park : (labPark.dies.getD 0 Die.reset).parking = true ∧ labPark.runningOn 0 = []
    ∧ labPark.dieFree 0 = true := by refine ⟨?_, ?_, ?_⟩ <;> decide +kernel

/-- Links in their states, with a request to die 0 in flight since cycle 0. -/
def labLink (st doze at_ : Nat) : State :=
  { labOp (.store .w64 allLanes vas64 vals64 false) with links := List.replicate 12 ⟨st, doze == 1, 0, at_, 0, none⟩ }

theorem wit_LinksAndBringUp : (∀ st ∈ [1, 2, 3], (labLink st 0 9).link? 0 = some ⟨st, false, 0, 9, 0, none⟩)
    ∧ (labLink 2 1 4000).link? 11 = some ⟨2, true, 0, 4000, 0, none⟩ ∧ (labLink 2 0 0).asks 11 = false := by
  refine ⟨?_, ?_, ?_⟩ <;> decide +kernel
/-- Every link is SILENT with a request that has been unanswered since reference cycle 0. -/
def labAsked (at_ : Nat) : State :=
  { lab with links := List.replicate 12 ⟨3, false, 0, at_, 0, some 0⟩, dies := lab.dies ++ List.replicate 3 Die.reset }
theorem wit_LinksAndBringUp_dead : ((List.range 12).any fun n => (labLink 2 0 9).deadTimer n == some 0) = true
    ∧ (labAsked 500000).deadTimer 3 = some 500000 ∧ (labAsked 500000).deadTimer 4 = some 500000
    ∧ ({ Die.reset with waking := true, req := 7 } : Die).waking = true := by
  refine ⟨?_, ?_, ?_, ?_⟩ <;> decide +kernel
theorem wit_LinksAndBringUp_stages : State.reset.stage = 0 ∧ ({ State.reset with stage := 2 } : State).portDead = 0
    ∧ State.reset.ioLink.state = 0
    ∧ (List.range 8).countP (0 : Nat).testBit ≤ 4 ∧ (List.range 8).countP (0x0F : Nat).testBit ≤ 4
    ∧ ¬ (List.range 8).countP (0x1F : Nat).testBit ≤ 4 := by refine ⟨?_, ?_, ?_, ?_, ?_, ?_⟩ <;> decide +kernel
theorem wit_LinksAndBringUp_hash :
    hashOk (State.reset.homeHash.set (0 : Fin 3).val (BitVec.ofNat 64 ((0x249249249 : W64).toNat % 2 ^ 36))) = true
    ∧ ∀ c ∈ State.reset.ctxs, c.live = false := by constructor <;> decide +kernel
/-! ### Witnesses: commands -/

/-- A command at the management port. -/
def mg (opc sub ctx w4 w5 w6 w7 : Nat) : Cmd := ⟨.mgmt, opc, sub, ctx, 7, 0, 0, 4, 0, w4, w5, w6, w7⟩

/-- Queue pair `qid` of context 1 in the coherent page, with one command submitted. -/
def pairOf (qid : Nat) : Queue := ⟨qid, 4, 0x30000, 0x31000, 1, 1, 1, 0, 0, 0, true, [], 0, none⟩
def pairCmd (qid opc sub ctx w4 w5 w6 w7 : Nat) : Cmd := { mg opc sub ctx w4 w5 w6 w7 with src := .queue qid }
def labPair (m : Cmd) (qid : Nat) : State :=
  { lab with queues := [pairOf qid], mem := memPutBytes lab.mem 0x50000 ((cmdWords m).flatMap (leBytes 8)) }

/-- `Served`, as a check. -/
def serves (m : Cmd) (opc sub : Nat) (root reduced : Bool) (s : State) : Bool :=
  m.opc == opc && m.sub == sub && s.serves reduced && s.submitted m && !s.behind m && (!root || rootSource m.src) && m.resv == 0
    && decide (3 ≤ m.scope) && decide (m.scope ≤ 5)

theorem served_at {m : Cmd} {opc sub : Nat} {root reduced : Bool} {s : State} (h : serves m opc sub root reduced s = true) :
    Served m opc sub root reduced s := by
  simp only [serves, Bool.and_eq_true, Bool.or_eq_true, Bool.not_eq_true', beq_iff_eq, decide_eq_true_eq] at h
  obtain ⟨⟨⟨⟨⟨⟨⟨⟨h1, h2⟩, h3⟩, h4⟩, h9⟩, h5⟩, h6⟩, h7⟩, h8⟩ := h
  exact ⟨h1, h2, h3, h4, h9, fun hr => by simpa [hr] using h5, h6, h7, h8⟩

/-- The coherent page of the lab, as an access from outside finds it. -/
def plain (s : State) (va : Nat) : Bool :=
  decide (s.heldMap 1 va = some page) && s.upd.isEmpty && !s.synonym (page.paOf va) && !s.holds 1 va false
    && !s.holds 1 va true

theorem plain_at {s : State} {va : Nat} (h : plain s va = true) (h1 : isSelfReg (page.paOf va) = false)
    (h2 : isPeerPa (page.paOf va) = false) : s.plainAt 1 va page := by
  simp only [plain, Bool.and_eq_true, decide_eq_true_eq, List.isEmpty_iff, Bool.not_eq_true'] at h
  obtain ⟨⟨⟨⟨h3, h4⟩, h5⟩, h6⟩, h7⟩ := h
  exact ⟨h3, fun w => by cases w <;> assumption, by decide, h4, h1, h2, h5⟩

/-- A pair that owes one completion, its index at the end of the ring. -/
def owing : Queue := { pairOf 5 with cidx := 15, chead := 1, pend := [⟨7, 1, none, 0⟩], nextSlot := 1 }

theorem wit_CommandsOfContexts_complete :
    (⟨.queue 5, 0, 7, 0, 0, 4, 1⟩ : CmdRef).sigva = 0 ∧ ({ lab with queues := [owing] } : State).queue? 5 = some owing
    ∧ (owing.cidx + 1) % 2 ^ owing.n ≠ owing.chead ∧ (∀ x ∈ [owing], x.deleting = none) ∧ lab.fwHeld = []
    ∧ (owing.cq + 64 * owing.cidx) % 2 ^ 16 + 64 ≤ 2 ^ 16
    ∧ ({ lab with queues := [owing] } : State).plainAt (lab.asidOfCtx owing.space) (owing.cq + 64 * owing.cidx) page := by
  refine ⟨rfl, by decide +kernel, by decide, by decide, by decide +kernel, by decide, ?_⟩
  have h : lab.asidOfCtx owing.space = 1 := by decide +kernel
  rw [h]
  exact plain_at (by decide +kernel) (by decide +kernel) (by decide +kernel)
theorem wit_CommandsOfContexts_consume : (labPair (pairCmd 5 5 0 1 0x4000 0 0 0) 5).queue? 5 = some (pairOf 5)
    ∧ Served (pairCmd 5 5 0 1 0x4000 0 0 0) 5 0 false false (labPair (pairCmd 5 5 0 1 0x4000 0 0 0) 5)
    ∧ ((labPair (pairCmd 5 5 0 1 0x4000 0 0 0) 5).goodCtx 1).isSome = true :=
  ⟨by decide +kernel, served_at (by decide +kernel), by decide +kernel⟩
theorem wit_CommandsOfContexts_unknown : (0x17, 0) ∉ knownCmds ∧ (1, 2) ∉ knownCmds ∧ lab.stage = 3
    ∧ lab.behind (mg 0x17 0 0 0 0 0 0) = false
    ∧ lab.submitted (mg 0x17 0 0 0 0 0 0) = true := by refine ⟨?_, ?_, ?_, ?_, ?_⟩ <;> decide +kernel
/-- Firmware at stage 1, and one that already holds a command of the management port. -/
theorem wit_CommandsOfContexts_held : ({ lab with stage := 1 } : State).submitted (mg 4 0 1 0x1000 0 0 0) = true
    ∧ ({ lab with mgmtQ := [mg 2 0 0 0 0 0 0] } : State).behind (mg 4 0 1 0x1000 0 0 0) = true
    ∧ ({ lab with mgmtQ := [mg 2 0 0 0 0 0 0] } : State).submitted (mg 4 0 1 0x1000 0 0 0) = true := by
  refine ⟨?_, ?_, ?_⟩ <;> decide +kernel
theorem wit_CommandsOfContexts_denied : (labPair (pairCmd 5 4 0 1 0x1000 0 0 0) 5).serves false = true
    ∧ (labPair (pairCmd 5 4 0 1 0x1000 0 0 0) 5).submitted (pairCmd 5 4 0 1 0x1000 0 0 0) = true
    ∧ rootSource (.queue 5) = false := by refine ⟨?_, ?_, ?_⟩ <;> decide +kernel
theorem wit_CommandsOfContexts_setroot : lab.submitted (mg 4 0 1 0x1001 0 0 0) = true ∧ rootSource .mgmt = true
    ∧ (0x1001 : Nat) % 2 ^ 8 ≠ 0 ∧ lab.submitted (mg 4 0 2 0x1000 0 0 0) = true ∧ lab.goodCtx 2 = none
    ∧ lab.submitted { mg 4 0 1 0x1000 0 0 0 with scope := 2 } = true
    ∧ lab.goodCtx 1 = some probeCtx := by refine ⟨?_, ?_, ?_, ?_, ?_, ?_, ?_⟩ <;> decide +kernel
theorem wit_CommandsOfContexts_setroot_done : Served (mg 4 0 1 (2 ^ 46 - 2 ^ 8) 0 0 0) 4 0 true false lab
    ∧ (2 ^ 46 - 2 ^ 8) % 2 ^ 8 = 0 ∧ lab.goodCtx 1 = some probeCtx :=
  ⟨served_at (by decide +kernel), by decide, by decide +kernel⟩
theorem wit_CommandsOfContexts_settvec : Served (mg 5 0 1 (2 ^ 52 - 8) 0 0 0) 5 0 false false lab
    ∧ (2 ^ 52 - 8) % 8 = 0 ∧ (lab.goodCtx 1).isSome = true := ⟨served_at (by decide +kernel), by decide, by decide +kernel⟩
theorem wit_CommandsOfContexts_create : Served (mg 2 0 0 0x1000 0 0 1) 2 0 true false lab
    ∧ lab.freeAsid (min 65534 (lab.ctxs.length + 1)) 1 = some 2 := ⟨served_at (by decide +kernel), by decide +kernel⟩
/-- With every ASID held, none is free. -/
theorem freeAsid_held (s : State) : ∀ n a, (∀ k < n, (s.ctxs.any fun c => c.live && c.asid == a + k) = true) →
    s.freeAsid n a = none
  | 0, _, _ => rfl
  | n + 1, a, h => by
    rw [State.freeAsid, if_pos (by simpa using h 0 (by omega))]
    exact freeAsid_held s n (a + 1) fun k hk => by have := h (k + 1) (by omega); rwa [Nat.add_comm k 1, ← Nat.add_assoc] at this
theorem wit_CommandsOfContexts_create_busy :
    let s := { lab with ctxs := (List.range 65534).map fun k => { probeCtx with handle := k + 1, asid := k + 1 } }
    Served (mg 2 0 0 0x1000 0 0 1) 2 0 true false s ∧ s.freeAsid (min 65534 (s.ctxs.length + 1)) 1 = none := by
  refine ⟨served_at (by rfl), freeAsid_held _ _ _ fun k hk => ?_⟩
  rw [List.any_eq_true]
  refine ⟨{ probeCtx with handle := k + 1, asid := k + 1 }, List.mem_map.mpr ⟨k, List.mem_range.mpr ?_, rfl⟩, ?_⟩
  · exact Nat.lt_of_lt_of_le hk (Nat.min_le_left _ _)
  · show (true && (k + 1 == 1 + k)) = true
    rw [Nat.add_comm]; simp
theorem wit_CommandsOfContexts_destroy : Served (mg 3 0 1 0 0 0 0) 3 0 true false lab ∧ lab.ctx? 1 = some probeCtx
    ∧ lab.colonies[0]? = some probeColony ∧ lab.colCtx 0 = 1 :=
  ⟨served_at (by decide +kernel), by decide +kernel, by decide +kernel, by decide +kernel⟩
theorem wit_CommandsOfContexts_qcreate :
    Served (mg 1 0 0 (1023 + 16 * 2 ^ 16) 0xFC0000000 0xFC0000000 0) 1 0 false true lab
    ∧ Served (mg 1 0 1 (1 + 4 * 2 ^ 16) 0x30000 0x31000 1) 1 0 false true lab ∧ lab.queue? 1 = none ∧ lab.queue? 1023 = none
    ∧ 0xFC0000000 % (64 * 2 ^ 4) = 0 ∧ (lab.goodCtx 1).isSome = true :=
  ⟨served_at (by decide +kernel), served_at (by decide +kernel), by decide +kernel, by decide +kernel, by decide, by decide +kernel⟩
/-- The one address at which a pair of 2^14 entries, the most for firmware's space, stands. -/
theorem wit_CommandsOfContexts_qcreate_space : Served (mg 1 0 0 (1 + 14 * 2 ^ 16) 0xFC0000000 0xFC0000000 0) 1 0 false true lab
    ∧ 0xFC0000000 % (64 * 2 ^ 14) = 0 ∧ 0xFC0000000 + 64 * 2 ^ 14 ≤ 0xFC0100000 :=
  ⟨served_at (by decide +kernel), by decide, by decide⟩
/-- A pair with no entry, and one that is being deleted. -/
def labDel (d : Option CmdRef) : State := { lab with queues := [{ pairOf 5 with tail := 0, deleting := d }] }
theorem wit_CommandsOfContexts_qdelete : Served (mg 1 1 1 5 0 0 0) 1 1 false false (labDel none)
    ∧ (labDel none).queue? 5 = some { pairOf 5 with tail := 0 }
    ∧ Served (mg 1 1 1 5 0 0 0) 1 1 false false (labDel (some ⟨.mgmt, 0, 7, 0, 0, 4, 1⟩))
    ∧ ((labDel (some ⟨.mgmt, 0, 7, 0, 0, 4, 1⟩)).queue? 5).map Queue.deleting = some (some ⟨.mgmt, 0, 7, 0, 0, 4, 1⟩) :=
  ⟨served_at (by decide +kernel), by decide +kernel, served_at (by decide +kernel), by decide +kernel⟩
theorem wit_CommandsOfContexts_pagereq : Served (pairCmd 0 0x14 0 1 9 3 5 0) 0x14 0 false false
      (labPair (pairCmd 0 0x14 0 1 9 3 5 0) 0)
    ∧ (labPair (pairCmd 0 0x14 0 1 9 3 5 0) 0).goodCtx 1 = some probeCtx ∧ probeCtx.pager = 0 :=
  ⟨served_at (by decide +kernel), by decide +kernel, rfl⟩
/-- A write of the page table's own page waits for it: VA 0 is mapped, VA 0x7FF0000 is not. -/
def labBounce : State := { lab with ports := lab.ports.map fun p => { p with bounce := [⟨1, 0, .bytes [(8, 7)] [], Who.none⟩] } }
theorem wit_CommandsOfContexts_drain : Served (mg 8 0 1 0 1 0 0) 8 0 false false labBounce
    ∧ (match labBounce.walkAny 1 0 with
      | .ok _ _ => true
      | _ => false) = true
    ∧ (labBounce.ports[labBounce.home 0]?).isSome = true
    ∧ ∀ x a, labBounce.walkAny 1 0x7FF0000 ≠ .ok x a := by
  refine ⟨served_at (by decide +kernel), by decide +kernel, by decide +kernel, ?_⟩
  have h : (match labBounce.walkAny 1 0x7FF0000 with
      | .ok _ _ => true
      | _ => false) = false := by decide +kernel
  intro x a he
  rw [he] at h
  cases h
/-! ### Witnesses: the commands of the device -/

/-- The lab with words in its coherent page. -/
def labAt (xs : List (Nat × Nat)) : State :=
  { lab with mem := xs.foldl (fun m x => memPutBytes m (0x50000 + x.1) (leBytes 8 x.2)) lab.mem }

/-- A kernel descriptor (Table 19.5) at offset 0x200 and the section table at 0x300. -/
def kwords (swarms : Nat) : List (Nat × Nat) :=
  [(0x208, 0x8000), (0x210, 3 * 2 ^ 56 + 64 * 2 ^ 47 + 8 * 2 ^ 36 + (swarms - 1) * 2 ^ 24 + 2 ^ 20), (0x218, swarms - 1),
    (0x220, 0x88), (0x230, 8 * 2 ^ 32 + 8), (0x308, 0x8000), (0x320, 0x30200)]
/-- Its meaning. -/
def kdesc (swarms : Nat) : KDesc := descOfWords
  [0, 0x8000, 3 * 2 ^ 56 + 64 * 2 ^ 47 + 8 * 2 ^ 36 + (swarms - 1) * 2 ^ 24 + 2 ^ 20, swarms - 1, 0x88, 0, 8 * 2 ^ 32 + 8, 0]

theorem words_at {s : State} {asid va n : Nat} {ws : List Nat} (h : (s.fwWords asid va n).2 = some ws) :
    s.fwWords asid va n = ((s.fwWords asid va n).1, some ws) := by rw [← h]

theorem wit_CommandsOfTheDevice_loadk :
    Served (mg 6 0 1 0x30200 0 0 0x30300) 6 0 false false (labAt (kwords 1)) ∧ (labAt (kwords 1)).goodCtx 1 = some probeCtx
    ∧ loadHold (mg 6 0 1 0x30200 0 0 0x30300) (labAt (kwords 1)) = none
    ∧ ∃ s1 secs s2 ws, (labAt (kwords 1)).fwWords 1 0x30300 5 = (s1, some secs)
      ∧ State.relocateAll 1 secs 0 0 s1 = some s1 ∧ s1.fwWords 1 0x30200 8 = (s2, some ws)
      ∧ s2.loadCheck 1 secs ws 0x30200 = 0 :=
  ⟨served_at (by decide +kernel), by decide +kernel, by decide +kernel, _, [0, 0x8000, 0, 0, 0x30200], _,
    [0, 0x8000, 3 * 2 ^ 56 + 64 * 2 ^ 47 + 8 * 2 ^ 36 + 2 ^ 20, 0, 0x88, 0, 8 * 2 ^ 32 + 8, 0],
    words_at (by decide +kernel), rfl, words_at (by decide +kernel), by decide +kernel⟩
/-- One relocation of `.rec`, at offset 0x400 of the page: the word at 0x8000 of the program's own page gets the base of `.rec`. -/
theorem wit_CommandsOfTheDevice_loadk_relocates : ∃ s1,
    State.relocateAll 1 [0, 0x8000, 0, 0, 0x30200] 1 0x30400
      (labAt (kwords 1 ++ [(0x400, 2 ^ 56 + 2 ^ 48), (0x408, 2 ^ 56)])) = some s1
    ∧ leNat (s1.physRead 0x18000 8) = 0x8000 := by
  refine ⟨(State.relocateAll 1 [0, 0x8000, 0, 0, 0x30200] 1 0x30400
      (labAt (kwords 1 ++ [(0x400, 2 ^ 56 + 2 ^ 48), (0x408, 2 ^ 56)]))).getD lab, ?_, by decide +kernel⟩
  have h : (State.relocateAll 1 [0, 0x8000, 0, 0, 0x30200] 1 0x30400
      (labAt (kwords 1 ++ [(0x400, 2 ^ 56 + 2 ^ 48), (0x408, 2 ^ 56)]))).isSome = true := by decide +kernel
  revert h
  cases State.relocateAll 1 [0, 0x8000, 0, 0, 0x30200] 1 0x30400
    (labAt (kwords 1 ++ [(0x400, 2 ^ 56 + 2 ^ 48), (0x408, 2 ^ 56)])) <;> simp
/-- With the last word not 0, the first check fails. -/
def labBadK : State := labAt (kwords 1 ++ [(0x238, 1)])
theorem wit_CommandsOfTheDevice_loadk_bad : Served (mg 6 0 1 0x30200 0 0 0x30300) 6 0 false false labBadK
    ∧ ∃ s1 secs s2 ws, labBadK.fwWords 1 0x30300 5 = (s1, some secs) ∧ s1.fwWords 1 0x30200 8 = (s2, some ws)
      ∧ descFieldsOk ws = false :=
  ⟨served_at (by decide +kernel), _, [0, 0x8000, 0, 0, 0x30200], _,
    [0, 0x8000, 3 * 2 ^ 56 + 64 * 2 ^ 47 + 8 * 2 ^ 36 + 2 ^ 20, 0, 0x88, 0, 8 * 2 ^ 32 + 8, 1],
    words_at (by decide +kernel), words_at (by decide +kernel), by decide +kernel⟩

/-- A launch record at offset 0, of `g` colonies of class `cls`, for the loaded kernel. -/
def labLaunch (g cls swarms : Nat) : State :=
  { labAt [(0, 0x30200), (8, g * 2 ^ 32 + cls * 2 ^ 30 + 3 * 2 ^ 26), (16, 1), (24, 1), (32, 1)] with
    ctxs := [saveCtx]
    loaded := [⟨1, 0x30200, kdesc swarms⟩] }
/-- The swarm of the lab waits for a timeline. -/
def waiting (s : State) : State :=
  s.updSwarm 0 fun w => { w with ops := [opOf .waiting], nextOp := 1, wait := some ⟨.lwait 0x30000 1 1, 0, 9, 0, []⟩ }

theorem wit_CommandsOfTheDevice_launch : Served (mg 7 0 1 0x30000 0 0 0) 7 0 false false (labLaunch 1 2 1)
    ∧ (labLaunch 1 2 1).goodCtx 1 = some saveCtx
    ∧ kindOf ((labLaunch 1 2 1).newResvs.examined saveCtx 0x30000 none) = (1, [1, 2 ^ 40])
    ∧ kindOf (((labLaunch 1 2 1).consumeCmd (mg 7 0 1 0x30000 0 0 0)).newResvs.examined saveCtx 0x30000 none) = (1, [1, 2 ^ 40]) :=
  ⟨served_at (by decide +kernel), by decide +kernel, by decide +kernel, by decide +kernel⟩
theorem wit_CommandsOfTheDevice_launch_reject : Served (mg 7 0 1 0x30000 0 0 0) 7 0 false false lab
    ∧ kindOf (lab.newResvs.examined probeCtx 0x30000 none) = (0, [5])
    ∧ kindOf ((labLaunch 13 0 1).newResvs.examined saveCtx 0x30040 none) = (0, [5])
    ∧ kindOf ((labLaunch 13 0 25).newResvs.examined saveCtx 0x30000 none) = (0, [4]) :=
  ⟨served_at (by decide +kernel), by decide +kernel, by decide +kernel, by decide +kernel⟩
theorem wit_CommandsOfTheDevice_launch_hold : Served (mg 7 0 1 0x30000 0 0 0) 7 0 false false (waiting (labLaunch 12 0 25))
    ∧ kindOf ((waiting (labLaunch 12 0 25)).newResvs.examined saveCtx 0x30000 none) = (2, [0]) :=
  ⟨served_at (by decide +kernel), by decide +kernel⟩

theorem wit_CommandsOfTheDevice_pstate : Served (mg 9 0 0 0 8 0 0) 9 0 false true lab ∧ lab.dies[0]? = some (lab.dies.getD 0 Die.reset)
    ∧ (lab.dies.getD 0 Die.reset).dead = false ∧ (lab.dies.getD 0 Die.reset).parking = false
    ∧ (lab.dies.getD 0 Die.reset).trans = none ∧ (lab.dies.getD 0 Die.reset).waking = false
    ∧ (lab.dies.getD 0 Die.reset).cur ≠ 8 ∧ ∀ (i : Nat) x, lab.dies[i]? = some x → i ≠ 0 → x.unparked = false ∨ x.parking = true :=
  ⟨served_at (by decide +kernel), by decide +kernel, by decide +kernel, by decide +kernel, by decide +kernel, by decide +kernel,
    by decide +kernel, fun i x h hi => by
    have hl : lab.dies.length = 1 := by decide +kernel
    obtain ⟨hj, -⟩ := List.getElem?_eq_some_iff.mp h
    omega⟩
/-- A die in transition, and one that may park beside another. -/
def labDies (ds : List Die) : State := { lab with dies := ds, colonies := [], swarms := [] }
theorem wit_CommandsOfTheDevice_pstate_park : Served (mg 9 0 0 0 8 0 0) 9 0 false true (labDies [dieTo 7, Die.reset])
    ∧ (dieTo 7).trans.isSome = true ∧ (dieTo 7).dead = false ∧ (dieTo 7).parking = false ∧ (dieTo 7).cur ≠ 8
    ∧ Served (mg 9 0 0 0 8 0 0) 9 0 false true (labDies [Die.reset, Die.reset])
    ∧ (((labDies [Die.reset, Die.reset]).consumeCmd (mg 9 0 0 0 8 0 0)).parkCheck 0).isSome = true :=
  ⟨served_at (by decide +kernel), by decide +kernel, by decide +kernel, by decide +kernel, by decide +kernel,
    served_at (by decide +kernel), by decide +kernel⟩
theorem wit_CommandsOfTheDevice_setcap : Served (mg 0xA 0 0 50 0 0 0) 0xA 0 true true lab
    ∧ Served (mg 0xA 0 0 220 0 0 0) 0xA 0 true true lab := ⟨served_at (by decide +kernel), served_at (by decide +kernel)⟩
/-- Port 0 changes its carve to `n` units. -/
def labCarve (n : Nat) : State :=
  { lab with ports := lab.ports.modify 0 fun p => { p with carveTo := some n, carveCmd := some ⟨.mgmt, 0, 7, 0, 0, 4, 0⟩ } }
theorem wit_CommandsOfTheDevice_carve : Served (mg 0xB 0 0 7 6 0 0) 0xB 0 true false lab
    ∧ (lab.ports[7]?).map Port.carveTo = some none ∧ Served (mg 0xB 0 0 0 0 0 0) 0xB 0 true false (labCarve 6)
    ∧ ((labCarve 6).ports[0]?).map Port.carveTo = some (some 6)
    ∧ ((labCarve 6).ports[0]?).map Port.carveCmd = some (some ⟨.mgmt, 0, 7, 0, 0, 4, 0⟩) ∧ Memory.wf (labCarve 6).mem = true :=
  ⟨served_at (by decide +kernel), by decide +kernel, served_at (by decide +kernel), by decide +kernel, by decide +kernel,
    by decide +kernel⟩
theorem wit_CommandsOfTheDevice_tquota : Served (mg 0xB 1 0 7 1 262144 0) 0xB 1 true false lab ∧ lab.goodCtx 1 = some probeCtx :=
  ⟨served_at (by decide +kernel), by decide +kernel⟩

/-- A service image at offset 0: service 5 of context 1, pair 5, 8 words, template at 0x30080. -/
def labSvc : State :=
  { labAt [(0, 5 * 2 ^ 48 + 2 ^ 32 + 5 * 2 ^ 16 + 8), (8, 0x30080)] with queues := [{ pairOf 5 with tail := 0 }] }
theorem wit_CommandsOfTheDevice_svcreg : Served (mg 0xC 0 1 255 0x30000 0 0) 0xC 0 false false labSvc
    ∧ ∃ s1 ws, labSvc.fwWords (labSvc.asidOfCtx 1) 0x30000 3 = (s1, some ws) ∧ s1.svcOf ws = some ⟨5, 1, 5, 8, 0x30080, 0, []⟩ :=
  ⟨served_at (by decide +kernel), _, [5 * 2 ^ 48 + 2 ^ 32 + 5 * 2 ^ 16 + 8, 0x30080, 0], words_at (by decide +kernel),
    by decide +kernel⟩
theorem wit_CommandsOfTheDevice_reads : labSvc.rangeHeld (labSvc.asidOfCtx 1) 0x30000 24 false = false
    ∧ lab.rangeHeld (lab.asidOfCtx 1) 0x30000 64 false = false ∧ lab.rangeHeld (lab.asidOfCtx 1) 0x30000 0 false = false := by
  refine ⟨?_, ?_, ?_⟩ <;> decide +kernel
theorem wit_CommandsOfTheDevice_svcreg_bad : Served (mg 0xC 0 1 0 0x30000 0 0) 0xC 0 false false lab
    ∧ ∃ s1 ws, lab.fwWords (lab.asidOfCtx 1) 0x30000 3 = (s1, some ws) ∧ s1.svcOf ws = none :=
  ⟨served_at (by decide +kernel), _, [0, 0, 0], words_at (by decide +kernel), by decide +kernel⟩
theorem wit_CommandsOfTheDevice_svcdel : Served (mg 0xC 1 0 255 0 0 0) 0xC 1 false false lab ∧ (lab.svcs[255]?).isSome = true :=
  ⟨served_at (by decide +kernel), by decide +kernel⟩
/-- A peer image at offset 0: valid, port 7, UDP 9, a window of 64 KiB at 0x30000 in context 1. -/
def pwords : List Nat := [1, 0, 0x0A000001, 7 * 2 ^ 16 + 9, 0x30000, 0x10000, 2 ^ 16 + 1, 0]
def labPeerImage : State := labAt ((List.range 8).map fun k => (8 * k, pwords.getD k 0))
theorem wit_CommandsOfTheDevice_peerset : Served (mg 0xF 0 1 0x7FE 0x30000 0 0) 0xF 0 true true labPeerImage
    ∧ Served (mg 0xF 0 0 0x7FE 0 0 0) 0xF 0 true true lab
    ∧ ∃ s1 ws, labPeerImage.fwWords (labPeerImage.asidOfCtx 1) 0x30000 8 = (s1, some ws)
      ∧ (peerOf ws).isSome = true ∧ ws.getD 0 0 % 2 = 1 :=
  ⟨served_at (by decide +kernel), served_at (by decide +kernel), _, pwords, words_at (by decide +kernel), by decide +kernel,
    by decide +kernel⟩
theorem wit_CommandsOfTheDevice_logs : Served (mg 0x11 0 1 0x30000 0 0 0) 0x11 0 true true lab
    ∧ Served (mg 0x13 0 0 (16 * 7) 0xFC0000000 128 0) 0x13 0 false true lab ∧ (lab.ports[7]?).isSome = true
    ∧ Served (mg 0x15 0 0 63 0xFFFC0000007 0 0) 0x15 0 true false lab ∧ 0xFFFC0000007 / 2 ^ 18 % 2 ^ 12 = 0
    ∧ 0xFFFC0000007 < 2 ^ 52 :=
  ⟨served_at (by decide +kernel), served_at (by decide +kernel), by decide +kernel, served_at (by decide +kernel), by decide,
    by decide⟩
/-- The patch level that an image asks for is installed already, whatever the image is; and an image that verifies at a
level above 0 is installed after reset. -/
theorem wit_CommandsOfTheDevice_patch : ∃ s : State, Served (mg 0x12 0 1 0x30000 0 0 0) 0x12 0 false false s
    ∧ s.fwRead 1 0x30000 0 = (s, some []) ∧ ∀ l, Config.patchLevel [] = some l → l ≤ s.patch :=
  by
  have h1 : lab.serves false = true := by decide +kernel
  have h2 : lab.submitted (mg 0x12 0 1 0x30000 0 0 0) = true := by decide +kernel
  refine ⟨{ lab with patch := (Config.patchLevel []).getD 0 }, ⟨rfl, rfl, h1, h2, by rfl, fun h => absurd h (by decide), rfl, ?_, ?_⟩,
    ?_, fun l h => by simp [h]⟩
  · decide
  · decide
  · rfl

/-! ### Witnesses: the fabric -/
/-- Peer 0x7FE, which may write the window of `pwords`; a frame of its. -/
def peerE : Peer := ⟨false, 0x0A000001, 0, 7, 9, 0x30000, 0x10000, true, 1⟩
def labPeer : State := { lab with peers := [(0x7FE, peerE)] }
def pkt (op addr : Nat) (bs : List Byte) : Pkt := ⟨7, false, 0x0A000001, 0, 9, 1, op, 0x7FE, 3, addr, bs.length, 7, bs⟩

/-- REDUCE in slot 3 of the lab's colony, a destination of one contributor, or a contributor to peer 0x7FE. -/
def redCmd (role : Nat) : Cmd := mg 0xD 0 1 (3 * 2 ^ 48 + 1) 0x30000 (2 ^ 32 + 100 * 2 ^ 16 + role * 2 ^ 4)
  (if role = 1 then 0x7FE else 0x30100)
/-- A collective timeline that holds a failure. -/
def failedColl (s : State) : State :=
  { s with colonies := s.colonies.map fun c => { c with collTl := c.collTl.set 3 (BitVec.ofNat 64 (2 ^ 63 + 1)) } }
def labRedSrc : State := { labAt [(0x100, 0x7FE)] with peers := [(0x7FE, peerE)] }

theorem bytes_at {s : State} {asid va n : Nat} {bs : List Byte} (h : (s.fwRead asid va n).2 = some bs) :
    s.fwRead asid va n = ((s.fwRead asid va n).1, some bs) := by rw [← h]

theorem wit_ReductionsAndStorage_commands : Served (redCmd 0) 0xD 0 false false labRedSrc ∧ Served (redCmd 1) 0xD 0 false false labPeer
    ∧ Served (mg 0xE 0 1 (3 * 2 ^ 48 + 1) 0 0 0) 0xE 0 false false lab ∧ lab.goodCtx 1 = some probeCtx
    ∧ lab.collColony (mg 0xE 0 1 (3 * 2 ^ 48 + 1) 0 0 0) = some 0 ∧ labRedSrc.collColony (redCmd 0) = some 0
    ∧ labPeer.collColony (redCmd 1) = some 0 ∧ (redCmd 1).w6 / 2 ^ 4 % 2 = 1 ∧ (redCmd 0).w6 / 2 ^ 4 % 2 = 0
    ∧ (redCmd 0).w6 / 2 ^ 13 % 2 ^ 3 = 0 ∧ (redCmd 0).w6 / 2 ^ 16 % 2 ^ 16 ≤ 1000 ∧ (redCmd 0).w4 < 2 ^ 50 :=
  ⟨served_at (by decide +kernel), served_at (by decide +kernel), served_at (by decide +kernel), by decide +kernel,
    by decide +kernel, by decide +kernel, by decide +kernel, by decide, by decide, by decide, by decide, by decide⟩
theorem wit_ReductionsAndStorage_state : (labPeer.collValue 0 3).getLsbD 63 = false
    ∧ ((failedColl labPeer).collValue 0 3).getLsbD 63 = true ∧ Served (redCmd 1) 0xD 0 false false (failedColl labPeer)
    ∧ (failedColl labPeer).collColony (redCmd 1) = some 0
    ∧ ∃ s1 bs, labRedSrc.fwRead 1 0x30100 2 = (s1, some bs) ∧ peerList 1 bs = [0x7FE] :=
  ⟨by decide +kernel, by decide +kernel, served_at (by decide +kernel), by decide +kernel, _, [0xFE, 0x07],
    bytes_at (by decide +kernel), by decide⟩

/-- A reduction of one word at VA `va`, as destination (role 0) or contributor. -/
def reducAt (role va : Nat) (peers : List Nat) : Reduc :=
  ⟨0, 0, 3, 1, 7, role, 1, 1, va, false, 0, 1, peers, [], [], false, [], 0, 100000, ⟨.mgmt, 0, 7, 0, 0, 4, 1⟩⟩
def labReduc (r : Reduc) : State := { labPeer with reducs := [r], nextReduc := 1, ioCycle := 100000 }

theorem wit_ReductionsAndStorage_ends :
    (labReduc (reducAt 0 0x30000 [0x7FE])).reducs.find? (fun r => r.num == 0 && r.role == 0 && decide (r.since + r.limit ≤ 100000)) = some (reducAt 0 0x30000 [0x7FE])
    ∧ (labReduc (reducAt 1 0x30000 [0x7FE])).reducs.find? (fun r => r.num == 0 && r.role == 1 && decide (r.since + r.limit ≤ 100000)) = some (reducAt 1 0x30000 [0x7FE])
    ∧ (labReduc (reducAt 0 0x30000 [0x7FE])).ioCycle = 100000 ∧ pktIs (pkt 8 0 []) 8 = true ∧ labPeer.sender (pkt 8 0 []) = some peerE
    ∧ (labReduc (reducAt 0 0x30000 [0x7FE])).reducFrom 0 (pkt 8 0 []) = some (reducAt 0 0x30000 [0x7FE])
    ∧ (labReduc (reducAt 1 0x30000 [0x7FE])).reducFrom 0 (pkt 8 0 []) = none
    ∧ (labReduc (reducAt 1 0x30000 [0x7FE])).reducFrom 1 (pkt 8 0 []) = some (reducAt 1 0x30000 [0x7FE])
    ∧ labPeer.colonies[0]? = some probeColony ∧ 3 < probeColony.collTl.length ∧ (labPeer.peerOf? 0x7FE).isSome = true := by
  refine ⟨?_, ?_, ?_, ?_, ?_, ?_, ?_, ?_, ?_, ?_, ?_⟩ <;> decide +kernel
theorem wit_ReductionsAndStorage_source :
    (labReduc (reducAt 1 0x30000 [0x7FE])).reducs.find? (fun r => r.num == 0 && r.role == 1 && !r.sent)
      = some (reducAt 1 0x30000 [0x7FE])
    ∧ (labReduc (reducAt 1 0x30000 [0x7FE])).rangeHeld 1 0x30000 4 false = false
    ∧ (sourceRun 1 0x30000 4 labPeer).poison = false ∧ (sourceRun 1 0x30000 4 labPeer).nonres = []
    ∧ (sourceRun 1 0x30000 4 labPeer).faults = [] ∧ (sourceRun 1 0x30000 4 labPeer).bytes.length ≤ 9088
    ∧ (sourceRun 1 0x30000 4 labPeer).s.peerOf? 0x7FE = some peerE
    ∧ (labReduc (reducAt 1 0x7FF0000 [0x7FE])).rangeHeld 1 0x7FF0000 4 false = false
    ∧ ((sourceRun 1 0x7FF0000 4 labPeer).nonres ≠ [] ∨ (sourceRun 1 0x7FF0000 4 labPeer).faults ≠ [])
    ∧ (sourceRun 1 0x7FF0000 4 labPeer).poison = false
    ∧ (sourceRun 1 0x30000 4 { labPeer with poison := [0x5000] }).poison = true := by
  refine ⟨?_, ?_, ?_, ?_, ?_, ?_, ?_, ?_, ?_, ?_, ?_⟩ <;> decide +kernel
/-- The last packet of the only contributor, and a packet that leaves more to come. -/
theorem wit_ReductionsAndStorage_contribution : pktIs (pkt 7 0 [1, 0, 0, 0]) 7 = true
    ∧ (labReduc (reducAt 0 0x30000 [0x7FE])).reducs.find? (fun r => r.role == 0 && r.ctag == 7) = some (reducAt 0 0x30000 [0x7FE])
    ∧ labPeer.reducs.find? (fun r => r.role == 0 && r.ctag == 7) = none
    ∧ 0x7FE ∉ (reducAt 0 0x30000 [1]).peers ∧ labPeer.sender (pkt 7 0 [1, 0, 0, 0]) = some peerE
    ∧ ((reducAt 0 0x30000 [0x7FE]).gather (pkt 7 0 [1, 0, 0, 0])).complete = true
    ∧ ((reducAt 0 0x30000 [0x7FE]).gather (pkt 7 0 [1, 0])).complete = false
    ∧ (labReduc (reducAt 0 0x30000 [0x7FE])).rangeHeld 1 0x30000 4 true = false := by
  refine ⟨?_, ?_, ?_, ?_, ?_, ?_, ?_, ?_⟩ <;> decide +kernel

theorem wit_ReductionsAndStorage_storio : Served (mg 0x10 0 1 (0x7FE * 2 ^ 32) 0 0 0x30000) 0x10 0 false false labPeer
    ∧ Served (mg 0x10 0 1 (2 ^ 48 + 0x7FE * 2 ^ 32) 0 0 0x30000) 0x10 0 false false labPeer
    ∧ (labPeer.goodCtx 1).isSome = true ∧ (0x7FE * 2 ^ 32) / 2 ^ 43 % 2 ^ 5 = 0 ∧ (labPeer.peerOf? 0x7FE).isSome = true :=
  ⟨served_at (by decide +kernel), served_at (by decide +kernel), by decide +kernel, by decide, by decide +kernel⟩
theorem wit_ReductionsAndStorage_storio_write : (sourceRun 1 0x30000 (0 * Config.blockSize) labPeer).faults = []
    ∧ (sourceRun 1 0x30000 (0 * Config.blockSize) labPeer).poison = false
    ∧ labPeer.rangeHeld (labPeer.asidOfCtx 1) 0x30000 (0 * Config.blockSize) false = false := by
  rw [Nat.zero_mul]
  refine ⟨?_, ?_, ?_⟩ <;> decide +kernel
/-- A storage operation of no block, and one of one block. -/
def storAt (write : Bool) (blocks : Nat) : Stor := ⟨0, write, 1, 1, 0x30000, blocks, ⟨.mgmt, 0, 7, 0, 0, 4, 1⟩⟩
def labStor (x : Stor) : State := { lab with stors := [x], nextStor := 1 }
theorem wit_ReductionsAndStorage_completion :
    (labStor (storAt true 1)).stors.find? (fun x => x.num == 0) = some (storAt true 1)
    ∧ (labStor (storAt false 0)).stors.find? (fun x => x.num == 0) = some (storAt false 0)
    ∧ ([] : List Byte).length = (storAt false 0).blocks * Config.blockSize
    ∧ (labStor (storAt false 0)).rangeHeld 1 0x30000 0 true = false
    ∧ (List.replicate Config.blockSize (0 : Byte)).length = (storAt false 1).blocks * Config.blockSize :=
  ⟨by decide +kernel, by decide +kernel, by simp [storAt], by decide +kernel, by simp [storAt]⟩

theorem wit_OuterAccesses_window : labPeer.windowOf (pkt 1 0x8000 [1, 2]) true = some (1, 0x38000)
    ∧ labPeer.windowOf (pkt 1 0xFFFF [1, 2]) true = none ∧ pktIs (pkt 1 0x8000 [1, 2]) 1 = true
    ∧ pktIs (pkt 2 0x8000 [1, 2]) 2 = true ∧ labPeer.windowOf (pkt 1 0xFFFE [1, 2]) true = some (1, 0x3FFFE)
    ∧ 0x3FFFE % 2 ^ 16 + 2 ≤ 2 ^ 16 ∧ labPeer.plainAt 1 0x38000 page ∧ labPeer.plainAt 1 0x3FFFE page
    ∧ page.w = true ∧ page.dset = true :=
  ⟨by decide +kernel, by decide +kernel, by decide, by decide, by decide +kernel, by decide,
    plain_at (by decide +kernel) (by decide +kernel) (by decide +kernel),
    plain_at (by decide +kernel) (by decide +kernel) (by decide +kernel), rfl, rfl⟩
theorem wit_OuterAccesses_read : pktIs { pkt 3 0x8000 [] with len := 8 } 3 = true
    ∧ labPeer.windowOf { pkt 3 0x8000 [] with len := 8 } false = some (1, 0x38000)
    ∧ labPeer.windowOf { pkt 3 0x8000 [] with udp := 8 } false = none := by refine ⟨?_, ?_, ?_⟩ <;> decide +kernel
theorem wit_OuterAccesses_release : pktIs (pkt 9 0x40 []) 9 = true ∧ labPeer.windowOf (pkt 9 0x40 []) true = some (1, 0x30040)
    ∧ labPeer.plainAt 1 0x30040 page ∧ Memory.wf labPeer.mem = true ∧ page.c = true ∧ 0x30040 % 64 = 0 :=
  ⟨by decide, by decide +kernel, plain_at (by decide +kernel) (by decide +kernel) (by decide +kernel), by decide +kernel, rfl,
    by decide⟩
/-- A posted store to peer 0x7FE under PSN 3. -/
def posted0 : Posted := ⟨0, 1, 1, 0, 0x7FE, 3, 0x30000, 0, [1, 2], Who.none, 0⟩
def labPosted : State := { labPeer with posted := [posted0], nextPosted := 1, ioCycle := 1000000 }
theorem wit_OuterAccesses_posted : labPosted.postedOf { pkt 5 0 [] with ctag := 0 } = some posted0
    ∧ pktIs { pkt 5 0 [] with ctag := 0 } 5 = true ∧ labPosted.sender { pkt 5 0 [] with ctag := 0 } = some peerE
    ∧ labPosted.postedOf (pkt 10 0 []) = some posted0
    ∧ pktIs (pkt 10 0 []) 10 = true ∧ labPosted.sender (pkt 10 0 []) = some peerE ∧ lab.sender (pkt 5 0 []) = none
    ∧ labPosted.posted.find? (fun q => q.num == 0 && decide (q.since + 1000000 ≤ labPosted.ioCycle)) = some posted0
    ∧ labPosted.peerOf? 0x7FE = some peerE
    ∧ (∀ q ∈ labPosted.posted, q.num < labPosted.nextPosted)
    ∧ pktIs (pkt 4 0 []) 4 = true ∧ 10 < (pkt 11 0 []).op ∧ { pkt 1 0 [] with ver := 2 }.ver ≠ 1 := by
  refine ⟨?_, ?_, ?_, ?_, ?_, ?_, ?_, ?_, ?_, ?_, ?_, ?_, ?_⟩ <;> decide +kernel
/-- A contribution that has been sent. -/
def sentEx : Reduc := { reducAt 1 0x30000 [0x7FE] with sent := true, frames := [(3, 0, [1, 0, 0, 0])] }
theorem wit_OuterAccesses_contribution : (pkt 5 0 []).ctag ≠ 0 ∧ (labReduc sentEx).reducFrom 1 (pkt 5 0 []) = some sentEx
    ∧ (labReduc sentEx).reducs.find? (fun q => q.num == 0 && q.sent && !q.frames.isEmpty) = some sentEx
    ∧ (labReduc sentEx).peerOf? 0x7FE = some peerE := by refine ⟨?_, ?_, ?_, ?_⟩ <;> decide +kernel
/-- The lab with the service of `labSvc`. -/
def labServe : State := { labSvc with svcs := [⟨5, 1, 5, 8, 0x30080, 0, []⟩] }
/-- Its service entry. -/
def svc5 : Svc := ⟨5, 1, 5, 8, 0x30080, 0, []⟩
theorem wit_OuterAccesses_service : pktIs (pkt 6 5 (List.replicate 64 0)) 6 = true
    ∧ labServe.svcs.findIdx? (fun v => v.svc != 0 && v.svc == 5) = some 0 ∧ labServe.svcs[0]? = some svc5
    ∧ (labServe.goodCtx 1).isSome = true ∧ labServe.svcRoom svc5 = true
    ∧ labServe.svcHeld svc5 { pairOf 5 with tail := 0 } = false ∧ (∀ x ∈ labServe.svcWait, x.entry ≠ 0)
    ∧ (∃ x ∈ ({ labServe with svcWait := [⟨0, 0x7FE, []⟩] } : State).svcWait, x.entry = 0)
    ∧ (∀ v ∈ labServe.svcs, v.svc = 0 ∨ v.svc ≠ 6) ∧ 8 * 8 < (pkt 6 5 (List.replicate 65 0)).len := by
  refine ⟨?_, ?_, ?_, ?_, ?_, ?_, ?_, ?_, ?_, ?_⟩ <;> decide +kernel
/-- Doorbells: no pair, a value out of the ring, the last entry of the ring. -/
theorem wit_OuterAccesses_doorbell : 1 ≤ lab.stage ∧ lab.queue? 1023 = none ∧ 1023 < 1024
    ∧ labServe.queue? 5 = some { pairOf 5 with tail := 0 } ∧ (pairOf 5).pend = []
    ∧ 2 ^ (pairOf 5).n ≤ (16 : W64).toNat % 2 ^ 16 ∧ (15 : W64).toNat % 2 ^ 16 < 2 ^ (pairOf 5).n
    ∧ ∀ x ∈ labServe.queues, x.deleting = none := by refine ⟨?_, ?_, ?_, ?_, ?_, ?_, ?_, ?_⟩ <;> decide +kernel
/-- Aperture 1 shows context 1's VA 0 on to its page, read and write; aperture 2 is not valid. -/
def labAper (w : Nat) : State := { lab with apertures := lab.apertures.set 1 (BitVec.ofNat 64 (1 + 2 * w + 4)) }
theorem wit_OuterAccesses_bar2 : (2 ^ 30 + 0x30FF8) % 4096 + 8 ≤ 4096 ∧ ((labAper 1).apertures.getD 1 0).getLsbD 0 = true
    ∧ ((labAper 1).apertures.getD 1 0).getLsbD 1 = true ∧ ((labAper 0).apertures.getD 1 0).getLsbD 1 = false
    ∧ ((labAper 1).apertures.getD 2 0).getLsbD 0 = false
    ∧ (labAper 1).spaceOf (((labAper 1).apertures.getD 1 0).toNat / 4 % 2 ^ 16) = some 1
    ∧ (labAper 1).plainAt 1 0x30FF8 page :=
  ⟨by decide, by decide +kernel, by decide +kernel, by decide +kernel, by decide +kernel, by decide +kernel,
    plain_at (by decide +kernel) (by decide +kernel) (by decide +kernel)⟩
theorem wit_OuterAccesses_reads : lab.stage ≠ 0 ∧ (lab.dies[0]?).isSome = true ∧ (lab.link? 11).isSome = true
    ∧ ((lab.dies[0]?).bind fun d => d.clusters[0]?).isSome = true ∧ 0xFFFF + 1 ≤ 2 ^ 16 := by
  refine ⟨?_, ?_, ?_, ?_, ?_⟩ <;> decide +kernel
theorem wit_OuterAccesses_hrel : Served (mg 0x16 0 1 0x3FFC0 0 0 0) 0x16 0 false false lab ∧ lab.goodCtx 1 = some probeCtx
    ∧ lab.plainAt probeCtx.asid 0x3FFC0 page ∧ Memory.wf lab.mem = true :=
  ⟨served_at (by decide +kernel), by decide +kernel, plain_at (by decide +kernel) (by decide +kernel) (by decide +kernel),
    by decide +kernel⟩

/-! ### Witnesses: the machine -/

theorem wit_DecodeEncodeRoundTrip : wellFormed (.trap ⟨0, 0, none⟩ 0x2A) = true
    ∧ encode (.trap ⟨0, 0, none⟩ 0x2A) = some 0x0000F0300000002A
    ∧ decode 0x0000F0300000002A = .ok (.trap ⟨0, 0, none⟩ 0x2A) := by refine ⟨?_, ?_, ?_⟩ <;> decide +kernel

/-- A word that waits to be fetched. -/
def labWord (w : Nat) : State := State.withFetchWord State.reset 64 w
/-- What swarm 0 fetches there. -/
def got (s : State) : State × Fetched :=
  let e := envAt { s with cur := 0 }
  { s with cur := 0 }.fetch e.core e.ctx.asid e.w.pc.toNat ({ s with cur := 0 }.whoOf 0 e.w.pc.toNat)

theorem wit_StepRunsTheFetchedWord_fault : ({ State.reset with stage := 7 } : State).stage = 7 := rfl
theorem wit_StepRunsTheFetchedWord_event : parts (.doorbellWrite 1 0) = none ∧ (next? (exec (.doorbellWrite 1 0) lab)).isSome = true
    ∧ next? (exec (.doorbellWrite 1 0) State.reset) = none ∧ State.reset.stage ≠ 7 ∧ lab.stage ≠ 7
    ∧ isExpiry (.doorbellWrite 1 0) = false ∧ isExpiry (.starveFirstExpiry 0) = true := by
  refine ⟨rfl, ?_, ?_, ?_, ?_, rfl, rfl⟩ <;> decide +kernel
theorem wit_StepRunsTheFetchedWord : (labWord 0x0000F00000000000).stage ≠ 7 ∧ (labWord 0x0000F00000000000).inbox = []
    ∧ (labWord 0x0000F00000000000).clk.expired = false ∧ (labWord 0x0000F00000000000).clk.last = none
    ∧ ((labWord 0x0000F00000000000).nextPlace.map Turn.sw) = some 0
    ∧ (labWord 0x0000F00000000000).canIssue 0 = true ∧ (labWord 0x0000F00000000000).swarms.length = 1
    ∧ (envOf { labWord 0x0000F00000000000 with cur := 0 } 0).isSome = true
    ∧ (got (labWord 0x0000F00000000000)).2 = .word 0x0000F00000000000 ∧ decode 0x0000F00000000000 = .ok (.nop ⟨0, 0, none⟩)
    ∧ (next? (exec (.nop ⟨0, 0, none⟩) (got (labWord 0x0000F00000000000)).1)).isSome = true := by
  refine ⟨?_, ?_, ?_, ?_, ?_, ?_, ?_, ?_, ?_, ?_, ?_⟩ <;> decide +kernel
theorem wit_StepRunsTheFetchedWord_illegal : (got (labWord 1)).2 = .word 1 ∧ (decode 1).toOption = none
    ∧ Issues (got (labWord 1)).1 (envAt (got (labWord 1)).1) (looseCtrl 1) {} (reportsWord 1) :=
  ⟨by decide +kernel, by decide +kernel, issues_at (by decide +kernel)⟩
theorem wit_StepRunsTheFetchedWord_idle : State.reset.nextPlace = none ∧ State.reset.firstEvent State.reset.events = none
    ∧ State.reset.firstEvent State.reset.startEvents = none ∧ State.reset.firstEvent State.reset.engineEvents = none
    ∧ State.reset.inbox = [] ∧ State.reset.clk.expired = false := by refine ⟨?_, ?_, ?_, ?_, ?_, ?_⟩ <;> decide +kernel
/-- The program's page, held by its home port; and the line of its first word. -/
def xpage : MapRec := ⟨1, 0, 0x10000, true, false, true, false, true⟩
def labX : State := { lab with ports := lab.ports.map fun p => { p with maps := [xpage] } }
def labLined : State := labX.updCore (0, 0, 0) fun c => { c with icache := [⟨1, 0, List.replicate 64 0⟩] }
theorem wit_StepRunsTheFetchedWord_fetch : (labX.core (0, 0, 0)).iline? 1 8 = none ∧ labX.heldMap 1 8 = some xpage
    ∧ xpage.pa % 2 ^ 16 = 0 ∧ labX.upd = [] ∧ isSelfReg (xpage.paOf 8) = false ∧ isPeerPa (xpage.paOf 8) = false
    ∧ labX.synonym (xpage.paOf 8) = false ∧ (∀ w, labX.holds 1 8 w = false) ∧ labX.poisoned (xpage.paOf 8) 8 = false
    ∧ (labLined.core (0, 0, 0)).iline? 1 8 = some ⟨1, 0, List.replicate 64 0⟩
    ∧ labX.poisoned (xpage.paOf 0) 64 = false ∧ labLined.peek 1 8 8 = some (List.replicate 8 0) := by
  refine ⟨?_, ?_, ?_, ?_, ?_, ?_, ?_, ?_, ?_, ?_, ?_, ?_⟩ <;> decide +kernel
theorem wit_StepKeepsInvariant : (labWord 0x0000F00000000000).Inv ∧ (match step (labWord 0x0000F00000000000) with
      | .next _ => true
      | _ => false) = true := ⟨by unfold State.Inv; decide +kernel, by decide +kernel⟩
theorem wit_StepKeepsInvariant_word : (parts (.nop ⟨0, 0, none⟩)).isSome = true := by decide

/-! ### Witnesses, continued: accesses, waits, rings, commands and frames in their other cases -/

theorem wit_AtomicIssues_restartable_drain : (labRst labMem).drainOk (envAt (labRst labMem)).w.colony = true := by decide +kernel

/-- No line of the lab's core stands in the way of a store. -/
theorem asks_at {s : State} {va : Nat} (h : (s.core act.k).l1 = []) : s.asksHome act va := by
  intro l hl
  rw [h] at hl
  cases hl
theorem wit_StoreResults_asks : (∀ va, labSt.asksHome act va) ∧ ∀ va, labCst.asksHome act va :=
  ⟨fun _ => asks_at (by decide +kernel), fun _ => asks_at (by decide +kernel)⟩

/-- Second locations of the lanes, in the next bytes but 512. -/
def vas64b : List Nat := (List.range 64).map fun l => 0x30400 + 8 * l
def labDcas (dcas : Bool) : State :=
  labOp (.atom2 dcas true ends64 vas64 vas64b (List.replicate 64 0) (List.replicate 64 0) vals64 vals64 8 false)
/-- No place becomes an unsupported synonym as the lanes write (R106). -/
def noSynonyms2 (s : State) (dcas : Bool) : Bool :=
  (List.range 65).all fun n => (List.range 64).all fun l =>
    let u : State := { s with mem := (atom2Run dcas true (fun l => page.paOf (vas64.getD l 0)) (fun l => page.paOf (vas64b.getD l 0))
      (List.replicate 64 0) (List.replicate 64 0) vals64 vals64 ((activeLanes ends64).take n) s.mem).1 }
    !ends64.getLsbD l || (!u.synonym (page.paOf (vas64.getD l 0)) && !u.synonym (page.paOf (vas64b.getD l 0)))
theorem wit_AtomicResults_two : ∀ d, Due (labDcas d) 0 0 act (opOf (.atom2 d true ends64 vas64 vas64b (List.replicate 64 0)
      (List.replicate 64 0) vals64 vals64 8 false)) (sw0 (labDcas d))
    ∧ (labDcas d).mayPerform 0 (opOf (.atom2 d true ends64 vas64 vas64b (List.replicate 64 0)
      (List.replicate 64 0) vals64 vals64 8 false)) = true ∧ (labDcas d).upd = [] ∧ noSynonyms2 (labDcas d) d = true
    ∧ (∀ l < 64, coherent (labDcas d) (vas64.getD l 0) 8 = true ∧ coherent (labDcas d) (vas64b.getD l 0) 8 = true) := by
  intro d
  cases d <;> exact ⟨due_at (by decide +kernel), by decide +kernel, by decide +kernel, by decide +kernel, by decide +kernel⟩

theorem acqFree_at {w : Swarm} {t : Option (Nat × Nat)} (h : w.ops = []) : w.acqFree t := by simp [Swarm.acqFree, h]
theorem wit_SyncIssues_free : (envAt labSync).w.acqFree (some (0x30000, 64)) ∧ (labRst labSync).drainOk 0 = true
    ∧ (envAt (labRst labSync)).w.colony = 0 := ⟨acqFree_at (by decide +kernel), by decide +kernel, by decide +kernel⟩
theorem wit_WorkForms_free : (envAt (labWork [])).w.acqFree (some (0x30000, 64)) ∧ (envAt (labWork [])).w.quiet = true
    ∧ (labRst (labWork [])).drainOk 0 = true ∧ (envAt (labRst (labWork []))).w.colony = 0 :=
  ⟨acqFree_at (by decide +kernel), by decide +kernel, by decide +kernel, by decide +kernel⟩

/-- The lab's core holds a line of the range with one dirty byte, and a clean one beside it. -/
def labCinvDirty : State := labCinv.updCore (0, 0, 0) fun k => { k with l1 :=
  [⟨1, 0xC00, true, List.replicate 64 7, BitVec.allOnes 64, 1, [], 0⟩, ⟨1, 0xC01, true, List.replicate 64 7, BitVec.allOnes 64, 0, [], 0⟩] }
theorem wit_SyncPerforms_cinv_dirty : Due labCinvDirty 0 0 act (opOf (.cinv 0x30000 64)) (sw0 labCinvDirty)
    ∧ labCinvDirty.mayPerform 0 (opOf (.cinv 0x30000 64)) = true
    ∧ (((next? (exec (.cinvComplete 0 0) labCinvDirty)).getD lab).core (0, 0, 0)).l1
      = [⟨1, 0xC00, false, List.replicate 64 7, 1, 1, [], 0⟩] :=
  ⟨due_at (by decide +kernel), by decide +kernel, by decide +kernel⟩

/-- A swarm blocked on a comb access, with those cells full. -/
def labComb (x : CombAccess) (full : List Nat) : State :=
  { labSw fun w => { w with ops := [opOf .waiting], nextOp := 1, wait := some ⟨.comb x, 0, 9, 0, []⟩ } with
    colonies := [{ probeColony with full := full, comb := [(0, 5), (63, 6)] }] }
/-- Every lane's word of the first 16 cells; and one place for all lanes. -/
def cLoad (take : Bool) : CombAccess := .load take allLanes ((List.range 64).map fun l => 4 * l)
def cStore : CombAccess := .store allLanes (List.replicate 64 60) (laneList.map fun l => BitVec.ofNat 32 (l + 1))
/-- The wait is over, but for its place in the clock. -/
def combEnds (s : State) (x : CombAccess) : Bool :=
  (envOf s 0).isSome && decide ((envAt s).w.wait = some ⟨.comb x, 0, 9, 0, []⟩) && (envAt s).col.stop.isNone
    && (envAt s).invalidated (.comb x) == none && (s.tryWait 0).isSome
    && x.cells.all (fun n => !(envAt s).col.combPoison.contains n) && spWfFrom 0 0 (envAt s).col.comb
theorem wit_WaitsEndWhenReleased_comb : combEnds (labComb (cLoad false) (List.range 16)) (cLoad false) = true
    ∧ combEnds (labComb (cLoad true) (List.range 16)) (cLoad true) = true ∧ combEnds (labComb cStore []) cStore = true := by
  refine ⟨?_, ?_, ?_⟩ <;> decide +kernel
/-- A colony that a pre-emption has stopped, in this clock or before. -/
def labHalt (cl : List Nat) : State :=
  { labWait with colonies := labWait.colonies.map (fun c => { c with stop := some .rotation }), clk := { Clock.reset with stopped := cl } }
theorem wit_WaitsEndWhenReleased_stopped : (envAt (labHalt [])).col.stop ≠ none ∧ 0 ∉ (labHalt []).clk.stopped
    ∧ (envAt (labHalt [0])).w.colony ∈ (labHalt [0]).clk.stopped ∧ ((labHalt [0]).tryWait 0).isSome = true := by
  refine ⟨?_, ?_, ?_, ?_⟩ <;> decide +kernel
theorem wit_SettlePerformsEveryReleasedWait :
    ((settle (labComb cStore [])).swarms[0]?.bind Swarm.wait).isSome = true ∧ ((settle (labComb cStore [])).tryWait 0).isSome = true := by
  constructor <;> decide +kernel

/-- Ring 7 of the lab's colony on barrier 31; the lab's swarm is the only one of its stage. -/
def labRingBar (tok : List (Nat × Nat)) : State :=
  { lab with colonies := [{ probeColony with
      rings := probeColony.rings.set 7 (some ring0)
      bars := probeColony.bars.set 31 { Bar.clear with
        valid := true, ring := some 7, tokens := tok, stages := List.replicate 8 (0, 0, 0) } }] }
theorem wit_BarrierForms_ring : Issues (labRingBar []) (envAt (labRingBar [])) cc { quiet := true } true
    ∧ Issues (labRingBar []) (envAt (labRingBar [])) cc { quiet := true } false
    ∧ ((envAt (labRingBar [])).col.bar 31).valid = true
    ∧ ((envAt (labRingBar [])).col.bar 31).token? (envAt (labRingBar [])).w.idx = none
    ∧ (envAt (labRingBar [])).col.ringOf 31 = some (7, ring0) ∧ (envAt (labRingBar [])).w.stage < ring0.rs
    ∧ ((envAt (labRingBar [])).col.bar 31).cls ≤ 1 ∧ (envAt (labRingBar [])).fld.cls ≤ 1 :=
  ⟨issues_at (by decide +kernel), issues_at (by decide +kernel), by decide +kernel, by decide +kernel, by decide +kernel,
    by decide +kernel, by decide +kernel, by decide +kernel⟩
/-- The arrival completes the stage's generation, which advances once. -/
theorem wit_BarrierForms_ring_done : RingDone 1 ring0 ((envAt (labRingBar [])).ringArrived ring0 ((envAt (labRingBar [])).col.bar 31)) 0 := by
  refine ⟨⟨⟨0, by decide +kernel⟩, fun e he => by omega⟩, fun l h1 h2 => ?_⟩
  have : ring0.rs = 1 := by decide
  omega
theorem wit_BarrierForms_ring_token : ((envAt (labRingBar [(0, 0)])).col.bar 31).token? (envAt (labRingBar [(0, 0)])).w.idx = some 0
    ∧ (envAt (labRingBar [(0, 0)])).barWaitOk 31 := ⟨by decide +kernel, .inl (by decide +kernel)⟩

theorem wit_CopySlicesJoin_ranges : mmaRingBad (envAt (labCopy 0x09000200 1 [])).col (envAt (labCopy 0x09000200 1 [])).w.stage
      (copyCombRanges (copyRec 0x09000200) (copyArgs sliceEx.args)) = false
    ∧ (labCopy 0x09000200 1 []).upd = [] ∧ 0x30000 % 2 ^ 16 + 8 ≤ 2 ^ 16 := by refine ⟨?_, ?_, ?_⟩ <;> decide +kernel
theorem wit_CopyCollectivesRun_more : labRun.swarms[sliceEx.swarm]? = some (sw0 labRun) ∧ sliceEx.rings = [] ∧ labRun.clk.cells = []
    ∧ labRun.upd = [] ∧ (copyArgs sliceEx.args).va + (copyArgs sliceEx.args).a2 ≤ 2 ^ 52
    ∧ (copyArgs sliceEx.args).comb % 16 = 0 ∧ (copyArgs sliceEx.args).a2 = 64 := by
  refine ⟨?_, ?_, ?_, ?_, ?_, ?_, ?_⟩ <;> decide +kernel

theorem wit_ErrorsAndEvictions_place : isPeerPa page.pa = false ∧ isSelfReg page.pa = false ∧ (labLine 1).upd = []
    ∧ Apart 0x4FFFC 4 (page.paOf (0xC00 * 64)) 64 := by
  refine ⟨by decide +kernel, by decide +kernel, by decide +kernel, ?_⟩
  unfold Apart
  decide +kernel
/-- The power controller's ceiling: as reset left it, as a write of 20 µs ago left it, and as the only write left it. -/
theorem wit_PowerEvents_ceiling : ({ labTime 102000 with pwrHist := [(102000, 220), (0, 50)] } : State).ceiling = 2500
    ∧ ({ labTime 101999 with pwrHist := [(101999, 220), (0, 50)] } : State).ceiling = 2500
    ∧ ({ labTime 204000 with pwrHist := [(102000, 220), (0, 50)] } : State).ceiling = 11000
    ∧ ({ labTime 1000 with pwrHist := [] } : State).ceiling = 50 * lab.pwrCap := by
  refine ⟨?_, ?_, ?_, ?_⟩ <;> decide +kernel

/-- A command of context 1 of the management port that names a SIGVA. -/
def sigRef : CmdRef := ⟨.mgmt, 0, 7, 0x30100, 9, 4, 1⟩
theorem wit_CommandsOfContexts_sigval : sigRef.sigva ≠ 0 ∧ (∃ c, lab.goodCtx sigRef.ctx = some c) ∧ lab.fwHeld = []
    ∧ sigRef.sigva % 2 ^ 16 + 8 ≤ 2 ^ 16 ∧ lab.rangeHeld (lab.asidOfCtx sigRef.ctx) sigRef.sigva 8 true = false
    ∧ lab.asidOfCtx sigRef.ctx = 1 ∧ sigRef.sigva = 0x30100 ∧ lab.plainAt 1 0x30100 page
    ∧ ({ lab with queues := [owing] } : State).rangeHeld (lab.asidOfCtx 1) 0x30100 8 true = false
    ∧ ({ lab with queues := [owing] } : State).plainAt 1 0x30100 page := by
  refine ⟨by decide, ⟨probeCtx, by decide +kernel⟩, by decide +kernel, by decide, by decide +kernel, by decide +kernel, rfl,
    plain_at (by decide +kernel) (by decide +kernel) (by decide +kernel), by decide +kernel,
    plain_at (by decide +kernel) (by decide +kernel) (by decide +kernel)⟩
theorem wit_CommandsOfContexts_qdelete_sigval : Served { mg 1 1 1 5 0 0 0 with sigva := 0x30100 } 1 1 false false (labDel none)
    ∧ (labDel none).fwHeld = [] ∧ (labDel none).rangeHeld ((labDel none).asidOfCtx 1) 0x30100 8 true = false :=
  ⟨served_at (by decide +kernel), by decide +kernel, by decide +kernel⟩

/-- A parked die beside another, and one that is parking. -/
def dieParked : Die := { Die.reset with cur := 8, req := 8, pkst := 1 }
def dieParking : Die := { Die.reset with req := 8, parking := true, busy := true }
theorem wit_CommandsOfTheDevice_unpark : Served (mg 9 0 0 0 7 0 0) 9 0 false true (labDies [dieParked, Die.reset])
    ∧ dieParked.dead = false ∧ dieParked.parking = false ∧ dieParked.cur = 8
    ∧ ((labDies [dieParked, Die.reset]).links[0]?).isSome = true
    ∧ Served (mg 9 0 0 0 0 0 0) 9 0 false true (labDies [dieParking, Die.reset]) ∧ dieParking.parking = true :=
  ⟨served_at (by decide +kernel), by decide, by decide, by decide, by decide +kernel, served_at (by decide +kernel), by decide⟩

/-- The destination of a reduction of one word, whose only contributor has sent all. -/
def labSum : State := labReduc (reducAt 0 0x30000 [0x7FE])
theorem wit_ReductionsAndStorage_sum : labSum.sendsOk 1 [(reducAt 0 0x30000 [0x7FE]).sends] = true
    ∧ (reducAt 0 0x30000 [0x7FE]).count = 1 ∧ 0x30000 % 2 ^ 16 + 4 ≤ 2 ^ 16 ∧ labSum.plainAt 1 0x30000 page
    ∧ (∀ n ≤ 1, ({ labSum with mem := (atomRun .add false (fun _ => 0x50000)
        [BitVec.ofNat 64 (((reducAt 0 0x30000 [0x7FE]).gather (pkt 7 0 [1, 0, 0, 0])).sum 0)] [] (List.range n) labSum.mem).1 } : State).synonym
          0x50000 = false)
    ∧ ((reducAt 0 0x30000 [0x7FE]).gather (pkt 7 0 [1, 0, 0, 0])).sum 0 = 1 := by
  refine ⟨by decide +kernel, by decide, by decide, plain_at (by decide +kernel) (by decide +kernel) (by decide +kernel), ?_,
    by decide +kernel⟩
  decide +kernel

theorem wit_OuterAccesses_open : labPeer.rx = [] ∧ labPeer.rangeHeld 1 0x38000 2 true = false ∧ labPeer.openAt 1 0x38000 8 false := by
  refine ⟨by decide +kernel, by decide +kernel, by unfold State.openAt; decide +kernel⟩
/-- A frame of the peer waits already; another waits behind it. -/
theorem wit_OuterAccesses_waits : (pkt 1 0 [1]) ∈ [pkt 1 0 [1]].takeWhile (· != pkt 1 0x8000 [1, 2])
    ∧ (pkt 1 0 [1]).peer = (pkt 1 0x8000 [1, 2]).peer ∧ (pkt 1 0 [1]).port = (pkt 1 0x8000 [1, 2]).port
    ∧ pkt 1 0x8000 [1, 2] ∉ [pkt 1 0 [1]]
    ∧ ({ labPeer with rx := [pkt 1 0 [1]] } : State).windowOf (pkt 1 0x8000 [1, 2]) true = some (1, 0x38000) := by
  refine ⟨?_, ?_, ?_, ?_, ?_⟩ <;> decide +kernel
theorem wit_OuterAccesses_ack : (labReduc sentEx).postedOf (pkt 5 0 []) = none ∧ (∃ f ∈ sentEx.frames, f.1 = (pkt 5 0 []).psn)
    ∧ pktIs (pkt 5 0 []) 5 = true ∧ (labReduc sentEx).sender (pkt 5 0 []) = some peerE
    ∧ labPeer.reducFrom 1 (pkt 5 0 []) = none ∧ labPeer.postedOf (pkt 5 0 []) = none := by
  refine ⟨?_, ⟨(3, 0, [1, 0, 0, 0]), ?_, ?_⟩, ?_, ?_, ?_, ?_⟩ <;> decide +kernel
theorem wit_OuterAccesses_service_held : labServe.svcHeld { svc5 with under := [0] } { pairOf 5 with tail := 0 } = true
    ∧ ({ labServe with svcs := [{ svc5 with under := [0] }] } : State).svcs.findIdx? (fun v => v.svc != 0 && v.svc == 5) = some 0 := by
  constructor <;> decide +kernel
theorem wit_OuterAccesses_bar2_open : (labAper 1).openAt 1 0x30FF8 8 false ∧ (labAper 1).openAt 1 0x30FF8 8 true := by
  constructor <;> · unfold State.openAt; decide +kernel

theorem wit_StepRunsTheFetchedWord_place : (labWord 0x0000F00000000000).firstEvent (labWord 0x0000F00000000000).startEvents = none
    ∧ (labWord 0x0000F00000000000).firstEvent (labWord 0x0000F00000000000).engineEvents = none
    ∧ (labWord 0x0000F00000000000).inOrderWait 0 = false ∧ (labWord 0x0000F00000000000).waitPlace? 0 = none := by
  refine ⟨?_, ?_, ?_, ?_⟩ <;> decide +kernel
/-- A comb store that has become possible takes its place in the clock. -/
theorem wit_StepRunsTheFetchedWord_wait : (labComb cStore []).nextPlace.map Turn.sw = some 0 ∧ (labComb cStore []).inOrderWait 0 = true
    ∧ (labComb cStore []).stage ≠ 7 ∧ (labComb cStore []).inbox = [] ∧ (labComb cStore []).clk.expired = false
    ∧ (labComb cStore []).firstEvent (labComb cStore []).startEvents = none
    ∧ (labComb cStore []).firstEvent (labComb cStore []).engineEvents = none := by
  refine ⟨?_, ?_, ?_, ?_, ?_, ?_, ?_⟩ <;> decide +kernel
/-- A swarm has accessed the comb; the end of a matrix operation comes in the next clock. -/
theorem wit_StepRunsTheFetchedWord_late : isEngine (.mmaComplete 0) = true
    ∧ ({ lab with clk := { Clock.reset with last := some ⟨engineClass + 1, 0, 0⟩ } } : State).engineTurn = false := by
  constructor <;> decide +kernel
theorem wit_PriorityAndStarvation_hold_early : (envAt (labSw fun w => { w with hold := some 5 })).quarterUsed = false
    ∧ (labSw fun w => { w with hold := some 5 }).swarms.length = 1 := by constructor <;> decide +kernel
theorem wit_ColonyLifeCycle_told : labSave.clk.told = [] ∧ labSave.clk.stopped = [] := by constructor <;> decide +kernel

/-! ### Single steps, with results from the worked examples of the spec -/

/-- The lab with entries in its queue from age 0 up, given for lanes from 0 up, and its masks. -/
def labQ (es : List (List W32)) (ks : List W64) : State := labSw fun w => { w with
  top := { w.top with
    masks := ks ++ w.top.masks.drop ks.length
    queue := es.map (fun e => ⟨e ++ List.replicate (64 - e.length) 0, false, none, false⟩) ++ w.top.queue.drop es.length } }
/-- The swarm after a step that fetches this word. -/
def ran (s : State) (w : Nat) : Swarm :=
  match step (s.withFetchWord 64 w) with
  | .next t => sw0 t
  | _ => sw0 s
/-- Lanes 0 to 3 of the entries on their way. -/
def coming (w : Swarm) : List (List W32) :=
  w.ops.flatMap fun o => match o.body with
    | .result vs _ _ _ => vs.map fun v => v.2.take 4
    | _ => []
/-- Scalars on their way. -/
def scalarsComing (w : Swarm) : List (Nat × W64) :=
  w.ops.flatMap fun o => match o.body with
    | .result _ xs _ _ => xs
    | _ => []

/-- R323 to R326, the table of the worked example: opb at age 0, opa at age 1. -/
def labBf : State := labQ [[0x7F7F3B80], [0x7F7F3F80]] []
theorem test_fadd_rne : (coming (ran labBf 0x0000F70030040000)).map (·.take 1) = [[0x7F803F80]] := by decide +kernel
theorem test_fadd_rtz : (coming (ran labBf 0x0000F70070040000)).map (·.take 1) = [[0x7F7F3F80]] := by decide +kernel
theorem test_fadd_rup : (coming (ran labBf 0x0000F700F0040000)).map (·.take 1) = [[0x7F803F81]] := by decide +kernel
theorem test_fmin : coming (ran (labQ [[0x40000000, 0, 0x7FC00001, 0xBF800000], [0x7FC00000, 0x80000000, 0x7F800001, 0x3F800000]] [])
    0x0000F74020040000) = [[0x40000000, 0x80000000, 0x7FC00000, 0xBF800000]] := by decide +kernel
theorem test_ffma : (coming (ran (labQ [[0xBF800000], [0x3F7FFFFE], [0x3F800001]] []) 0x0000F73020080200)).map (·.take 1)
    = [[0xA8800000]] := by decide +kernel

/-- The worked example of VSCAN and VRED: k1 holds lanes 0 to 3. -/
def labScan : State := labQ [[0x4B800000, 0x3F800000, 0x3F800000, 0xCB800000]] [0xF]
theorem test_vscan : coming (ran labScan 0x0000F5C120000000) = [[0x4B800000, 0x4B800000, 0x4B800000, 0]] := by decide +kernel
theorem test_vred : coming (ran labScan 0x0000F5B120000000) = [[0, 0, 0, 0]] := by decide +kernel

/-- Table 21.5: s8 from f32, saturating, with NaN out of range, and trapping in lane 2. -/
def labCvt : State := labQ [[0x40200000, 0xC0600000, 0x447A0000, 0x7FC00000]] [0xF]
theorem test_cvt_sat : coming (ran labCvt 0x0000F90100000008) = [[2, 0xFFFFFFFC, 0x7F, 0xFFFFFF80]] := by decide +kernel
theorem test_cvt_nan : coming (ran labCvt 0x0000F90120000008) = [[2, 0xFFFFFFFC, 0xFFFFFF80, 0xFFFFFF80]] := by decide +kernel

/-- Table 4.6: conversions of f32 to binary8. -/
def labNum (x : W32) : State := labQ [[x]] []
/-- The word of CVT of age 0 from f32, with MOD = [RM, OV, 0], and the code of the destination. -/
def cvtWord (rm ov dst : Nat) : Nat := 0x0000F90000000008 + (rm * 8 + ov * 2) * 2 ^ 27 + dst * 2 ^ 9
/-- Lane 0 of the conversion of `x` to the format of code `dst`. -/
def conv (x : W32) (rm ov dst : Nat) : List W32 := (coming (ran (labNum x) (cvtWord rm ov dst))).flatMap (·.take 1)
theorem test_cvt_b8p4 : conv 0x3E99999A 0 0 0x4B = [0x32] ∧ conv 0x3E99999A 1 0 0x4B = [0x31] ∧ conv 0x436C0000 0 0 0x4B = [0x7F]
    ∧ conv 0x43960000 0 2 0x4B = [0x80] ∧ conv 0x3B83126F 0 0 0x4B = [0x04] := by decide +kernel
theorem test_cvt_b8p4_inf : conv 0x436C0000 0 0 0x14B = [0x7E] ∧ conv 0x436C0000 1 1 0x14B = [0x7E] ∧ conv 0x43960000 0 1 0x14B = [0x7F]
    ∧ conv 0x43960000 0 3 0x4B = [] ∧ conv 0xC0200000 0 0 0xCB = [0x00] ∧ conv 0xC0200000 0 2 0xCB = [0xFF] := by decide +kernel

/-- The worked example of TRAP: TREC0, TREC3, the resume address, and the handler. -/
theorem test_trap : (let w := ran lab 0x0000F0300000002A
    (w.trap.rec0, w.trap.rec3, w.trap.resume, w.trap.intrap, w.pc)) = (0x1500000000000000, 0x2A, 0, true, 0x4000) := by
  decide +kernel
theorem test_cvt_trap : (let w := ran labCvt 0x0000F90130000008
    (w.trap.rec0 / 2 ^ 56, w.trap.rec0 / 2 ^ 34 % 64, coming w)) = (0x13, 2, []) := by decide +kernel
/-- The worked example of TILE.NEXT: 30 tiles, 12 handed out. -/
def labTiles (next : Nat) : State :=
  { lab with fields := lab.fields.map fun f => { f with tx := 5, ty := 3, tz := 2, nextTile := next } }
theorem test_tile_next : scalarsComing (ran (labTiles 12) 0x0000FDA005000004)
    = [(20, 12), (21, 4), (22, 2), (23, 2), (24, 0)] := by decide +kernel
theorem test_tile_next_last : scalarsComing (ran (labTiles 28) 0x0000FDA005000004)
    = [(20, 28), (21, 2), (22, 3), (23, 2), (24, 1)] := by decide +kernel
theorem test_tile_next_none : scalarsComing (ran (labTiles 30) 0x0000FDA005000004) = [(20, 0xFFFFFFFFFFFFFFFF), (21, 0)] := by
  decide +kernel

/-- The worked example of ATOM: CAS of 0 in four lanes on one word; a0 holds lane + 1, and a1 the expected 0. -/
def labCas : State :=
  (labQ [[1, 2, 3, 4], []] [0xF]).updSwarm 0 fun w => { w with scalars := startScalars 1024 [0, 0, 0, 0, 0x30000] }
def casDone : Option State :=
  match step (labCas.withFetchWord 64 0x00000B9170138000) with
  | .next t => match exec (.atomicPerform 0 0) t with
    | .next u => some u
    | _ => none
  | _ => none
theorem test_cas : casDone.map (fun u => (((sw0 u).top.queue.getD 0 ⟨[], false, none, false⟩).data.take 4, memBytes u.mem 0x50000 4))
    = some ([0, 1, 1, 1], [1, 0, 0, 0]) := by decide +kernel

/-- The worked example of the home hash (R98, R99). -/
theorem test_home : lab.home 0x7A3C51234 = 7 ∧ lab.home 0x7A3CD0000 = 6 := by decide +kernel
/-- Tables 4.8 and 4.9. -/
theorem test_mma : mmaElement (fmtGroup 0x3042) 64
    (fun k => FV.mul ((fmtA 0x3042).decode (if k = 0 then 0x68 else if k = 1 then 0xE8 else if k = 2 then 0x2C else if k = 32 then 0x40 else 0))
      ((fmtB 0x3042).decode (if k = 0 then 0x68 else if k = 1 then 0x68 else if k = 2 then 0x2C else if k = 32 then 0x41 else 0)))
    (fmtF32.decode 0x40000000) (fmtF32.decode 0x3F400000) 0x3FC00000 = 0x40700000 := by decide +kernel
/-- Table 20.12, and the words of the worked example of the kernel `sum10`: what an add leaves at age 0. -/
theorem test_vadd_imm : coming (ran (labQ [[5, 6, 7, 8]] []) 0x0000F52000000001) = [[6, 7, 8, 9]] := by decide +kernel
theorem test_vshl_lane : coming (ran lab 0x0000F5600F040002) = [[0, 4, 8, 12]] := by decide +kernel
theorem test_sset : scalarsComing (ran lab 0x0000F2200400000A) = [(1, 10)] := by decide +kernel
/-- Table 11.1: a limit of 0 in RSV.CAND means 64. -/
theorem test_rsv_cand : (let w := ran (labLoop true) 0x0000FCC201400001
    (coming w, scalarsComing w)) = ([[0, 1, 2, 3]], [(5, 10)]) := by decide +kernel

end Sys2Proof.Machine.Tests
end

section
/-! SUPPORT. REJOIN and open forks (R50, R52, R53): what its checks ask of the record and of its sources, which element each lane
of a merged entry takes, and the trap of a RET or an EXIT at an open fork. -/

namespace Sys2Proof.Machine

/-! ### The words -/

theorem exec_rejoin (c : Ctrl) (idx : Fin 16384) (s : State) : exec (.rejoin c idx) s = execRejoin c idx s := rfl
theorem exec_ret (c : Ctrl) (m : Fin 4096) (s : State) : exec (.ret c m) s = execRet c m s := rfl
theorem exec_exit (c : Ctrl) (s : State) : exec (.exit c) s = execExit c s := rfl

/-! ### An issue that has read memory -/

theorem State.updSwarm_updSwarm (s : State) (i : Nat) (f g : Swarm → Swarm) :
    (s.updSwarm i f).updSwarm i g = s.updSwarm i (g ∘ f) := by
  simp [State.updSwarm, List.modify_modify_eq]

/-- The state after an issue whose effects change the issuing swarm, and whose translations have changed only what the homes hold
(R104). -/
theorem finishIssue_upd_of_homeOnly {s s1 : State} {e : Env} {c : Ctrl} {g : Swarm → Swarm} {op : Option (OpBody × Option Nat)}
    {pc : Option (BitVec 52)} (h : envOf s s.cur = some e) (h1 : HomeOnly s s1) :
    finishIssue e c (s1.updSwarm e.i g) op pc = s1.issuedTo ((g e.w).issued c e.cycle e.s.ioCycle op pc) := by
  obtain ⟨hs, hi, hw, _⟩ := envOf_spec h
  have hg : (s.swarms.modify s.cur g)[s.cur]? = some (g e.w) := by simp [hw]
  simp only [finishIssue, State.updSwarm, State.issuedTo, hs, hi, h1.cur, h1.swarms, h1.ioCycle, freshPerIssue]
  rw [modify_eq_set _ hg, modify_eq_set _ hw, List.set_set]

/-! ### The checks of REJOIN -/

/-- The ages that REJOIN checks: the source bytes of the arms other than 0xFF (R52). -/
def rejoinAges (arms : List RecArm) : List Nat := arms.flatMap fun a => a.src.filter (· != 0xFF)

theorem mem_rejoinAges {arms : List RecArm} {x : Nat} : x ∈ rejoinAges arms ↔ ∃ a ∈ arms, x ∈ a.src ∧ x ≠ 0xFF := by
  simp [rejoinAges]

theorem forall_rejoinAges {arms : List RecArm} {P : Nat → Prop} (h : ∀ a ∈ arms, ∀ x ∈ a.src, x ≠ 0xFF → P x) :
    ∀ x ∈ rejoinAges arms, P x := by
  intro x hx
  obtain ⟨a, ha, hsrc, hne⟩ := mem_rejoinAges.mp hx
  exact h a ha x hsrc hne

/-- A record whose arms are those that the fork has opened, with their counts, matches it (R52). -/
theorem rejoinMismatch_none {lv : Level} {arms : List RecArm}
    (h : ∀ k < 4, lv.arms.getD k ⟨false, 0⟩ = match arms[k]? with
      | some a => ⟨true, a.count⟩
      | none => ⟨false, (lv.arms.getD k ⟨false, 0⟩).count⟩) : rejoinMismatch lv arms = none := by
  refine List.findSome?_eq_none_iff.mpr fun k hk => ?_
  have hk := h k (List.mem_range.mp hk)
  dsimp only
  cases ha : arms[k]? with
  | some a =>
    rw [ha] at hk
    rw [hk]
    simp
  | none =>
    rw [ha] at hk
    rw [hk]
    rfl

/-- No source lies at or beyond D when all are below it (R52). -/
theorem find_age_beyond_none {lv : Level} {srcs : List Nat} (h : ∀ x ∈ srcs, x < lv.queue.length) :
    srcs.find? (· ≥ lv.depth) = none := by
  refine List.find?_eq_none.mpr fun x hx => ?_
  have hlt := h x hx
  simp only [Level.depth, ge_iff_le, decide_eq_true_eq]
  omega

/-- Under SR.CHECK, complete sources raise no STALLCHK (R348). -/
theorem rejoinBusy_none {e : Env} {srcs : List Nat}
    (h : e.ctx.check = true → ∀ x ∈ srcs, ∀ sl, e.w.top.queue[x]? = some sl → sl.busy = none) : rejoinBusy e srcs = none := by
  unfold rejoinBusy
  cases hc : e.ctx.check with
  | false => rfl
  | true =>
    simp only [Bool.not_true, Bool.false_eq_true, if_false, Option.map_eq_none_iff, List.find?_eq_none]
    intro x hx
    cases hq : e.w.top.queue[x]? with
    | none => simp
    | some sl => simp [h hc x hx sl hq]

/-- Sources without an uncorrectable error are consumed by nobody (R219). -/
theorem any_rejoinBad_false {e : Env} {srcs : List Nat}
    (h : ∀ x ∈ srcs, ∀ sl, e.w.top.queue[x]? = some sl → sl.bad = false) : srcs.any (rejoinBad e) = false := by
  refine List.any_eq_false.mpr fun x hx => ?_
  unfold rejoinBad
  cases hq : e.w.top.queue[x]? with
  | none => simp
  | some sl => simp [h x hx sl hq]

/-! ### The merged entries -/

theorem rejoinPushes_length (e : Env) (n : Nat) (arms : List RecArm) : (rejoinPushes e n arms).length = n := by
  simp [rejoinPushes]

theorem el_splat (x : W32) (l : Nat) (hl : l < 64) : el (splat x) l = x := el_lanes _ l hl

/-- The element REJOIN takes from a source byte is that of the source the record names (R38, R52). -/
theorem rejoinEl_eq_source (e : Env) (x l : Nat) (hl : l < 64) : rejoinEl e x l = el (e.source x) l := by
  unfold rejoinEl Env.source
  split
  · exact (el_splat 0 l hl).symm
  · cases e.w.top.queue[x]? with
    | none => exact (el_splat 0 l hl).symm
    | some sl => rfl

/-- The lanes of a merged entry are those of the arms' masks (R53). -/
theorem rejoinPushes_mask {e : Env} {n j l : Nat} {arms : List RecArm} {p : Push} (hj : j < n)
    (hp : (rejoinPushes e n arms)[j]? = some p) (hl : l < 64) :
    has p.mask l = true ↔ ∃ a ∈ arms, has (e.w.top.mask a.k) l = true := by
  simp only [rejoinPushes, List.getElem?_map, List.getElem?_range hj, Option.map_some, Option.some.injEq] at hp
  subst hp
  rw [has_maskOf _ l hl]
  exact List.find?_isSome

/-- In each lane the first arm whose mask holds it supplies the element of a merged entry (R53). -/
theorem rejoinPushes_data {e : Env} {n j l : Nat} {arms : List RecArm} {p : Push} {a : RecArm} (hj : j < n)
    (hp : (rejoinPushes e n arms)[j]? = some p) (hl : l < 64)
    (ha : arms.find? (fun a => has (e.w.top.mask a.k) l) = some a) : el p.data l = el (e.source (a.src.getD j 0xFF)) l := by
  simp only [rejoinPushes, List.getElem?_map, List.getElem?_range hj, Option.map_some, Option.some.injEq] at hp
  subst hp
  rw [el_lanes _ l hl, ← rejoinEl_eq_source _ _ l hl, laneArm, ha]

/-! ### REJOIN, and RET and EXIT at an open fork -/

/-- A REJOIN whose record can be read and whose checks pass closes the fork over the merged entries (R52, R53, R348). -/
theorem execRejoin_next {s s1 : State} {e : Env} {c : Ctrl} {idx : Fin 16384} {n : Nat} {arms : List RecArm}
    (h : Issues s e c {} false) (hr : readRejoin e idx.val = (s1, some (n, arms))) (hf : e.w.top.fork = true)
    (hm : rejoinMismatch e.w.top arms = none)
    (hd : (rejoinAges arms).find? (· ≥ e.w.top.depth) = none)
    (hb : rejoinBusy e (rejoinAges arms) = none)
    (hx : (rejoinAges arms).any (rejoinBad e) = false)
    (hp : e.w.top.canPush n = true) (ho : ∀ sl ∈ e.w.top.queue.reverse.take n, sl.bad = false)
    (hh : rejoinPageHeld e idx.val = false) :
    execRejoin c idx s = .next (s1.issuedTo
      { e.launched c (some 4) (.result ((rejoinPushes e n arms).map fun p => (p.mask, p.data)) [] none none) with
        top := (e.w.top.pushAll e.w.nextOp (rejoinPushes e n arms) 0).closeFork }) := by
  have ho : Level.pushAllReads e.w.top.queue.reverse (rejoinPushes e n arms) = false :=
    pushAllReads_false (by rwa [rejoinPushes_length])
  unfold rejoinAges at hd hb hx
  have h1 : HomeOnly s s1 := by simpa [hr, h.s_eq] using readRejoin_homeOnly e idx.val
  refine (issue_go h
    (s' := s1.updSwarm e.i ((fun w => { w with top := w.top.closeFork }) ∘
      fun w => { w with top := w.top.pushAll w.nextOp (rejoinPushes e n arms) 0 }))
    (op := some (.result ((rejoinPushes e n arms).map fun p => (p.mask, p.data)) [] none none, some rejoinClocks))
    (pc := none) ?_).trans ?_
  · simp [hh, hr, hf, hm, hd, hb, hx, rejoinHeld, hp, pushEntries, ho, State.updSwarm_updSwarm]
  · rw [finishIssue_upd_of_homeOnly h.1 h1]
    simp only [Function.comp, Env.issued_top]
    rfl

/-- At an open fork a RET whose earlier checks pass raises REJOIN with cause 3 (R50). -/
theorem execRet_openFork {s : State} {e : Env} {c : Ctrl} {m : Fin 4096} (h : Issues s e c { drained := true } true)
    (hf : e.w.top.fork = true) (hu : e.w.under ≠ []) (hd : e.w.depth ≠ e.w.hdepth) (hm : m.val ≤ e.w.top.queue.length) :
    execRet c m s = .next (takeTrap s.cur (.plain 5 3 0) e.w.pc s) := by
  refine issue_trap h (by decide) ?_
  have hu : (e.w.under.isEmpty || e.w.depth == e.w.hdepth) = false := by simp [hu, hd]
  have hm : ¬ e.w.top.depth < m.val := Nat.not_lt.mpr hm
  simp [illopIf, forkOpen, hf, hu, hm]

/-- At an open fork an EXIT whose earlier check passes raises REJOIN with cause 3 (R50). -/
theorem execExit_openFork {s : State} {e : Env} {c : Ctrl} (h : Issues s e c { flagsZero := true } true)
    (hf : e.w.top.fork = true) (hi : e.w.trap.intrap = true → e.w.faults = []) :
    execExit c s = .next (takeTrap s.cur (.plain 5 3 0) e.w.pc s) := by
  refine issue_trap h (by decide) ?_
  have hi : (e.w.trap.intrap && !e.w.faults.isEmpty) = false := by
    cases ht : e.w.trap.intrap with
    | false => rfl
    | true => simp [hi ht]
  simp [illopIf, forkOpen, hf, hi]

/-- Settles O6: REJOIN pushes what `rejoinPushes` merges, lane by lane; RET and EXIT meet the open fork among their checks. -/
theorem rejoinMerges : Obligations.RejoinMerges := by
  refine ⟨?_, ?_⟩
  · intro s e c idx s1 n arms h hr hf harms hbelow hbusy hp ho hbad hh
    refine ⟨rejoinPushes e n arms, rejoinPushes_length e n arms, fun j hj p hpj l hl =>
      ⟨rejoinPushes_mask hj hpj hl, fun a => rejoinPushes_data hj hpj hl⟩, ?_⟩
    rw [exec_rejoin]
    exact execRejoin_next h hr hf (rejoinMismatch_none harms) (find_age_beyond_none (forall_rejoinAges hbelow))
      (rejoinBusy_none fun hc => forall_rejoinAges (hbusy hc)) (any_rejoinBad_false (forall_rejoinAges hbad)) hp ho hh
  · intro s e c hf
    simp only [exec_ret, exec_exit]
    exact ⟨fun m h hu hd hm => execRet_openFork h hf hu hd hm, fun h hi => execExit_openFork h hf hi⟩

end Sys2Proof.Machine
end

section
/-! SUPPORT. MMA.COMPLETE (R91-R95): what of a state the end of an operation in flight leaves to the units, what runs when an
operation of one part completes, how it reads the comb, and which elements of its tile change. -/

namespace Sys2Proof.Machine

/-! ### The word -/

theorem exec_mmaComplete (core : Nat) (s : State) : exec (.mmaComplete core) s = execMmaComplete core s := rfl

/-! ### What a swarm's side of a completion leaves alone -/

/-- The matrix operations and the dies stand as they were, and no colony is added or dropped. -/
structure KeepsUnits (s t : State) : Prop where
  mmas : t.mmas = s.mmas
  dies : t.dies = s.dies
  colonies : t.colonies.length = s.colonies.length

theorem KeepsUnits.refl (s : State) : KeepsUnits s s := ⟨rfl, rfl, rfl⟩

theorem KeepsUnits.trans {s t u : State} (h : KeepsUnits s t) (h' : KeepsUnits t u) : KeepsUnits s u :=
  ⟨h'.mmas.trans h.mmas, h'.dies.trans h.dies, h'.colonies.trans h.colonies⟩

theorem keepsUnits_updSwarm (s : State) (i : Nat) (f : Swarm → Swarm) : KeepsUnits s (s.updSwarm i f) := ⟨rfl, rfl, rfl⟩

/-- A context fault stops colonies where they stand (R215). -/
theorem keepsUnits_faultOf (s : State) (sw : Option Nat) (h cause : Nat) : KeepsUnits s (faultOf sw h cause s) :=
  ⟨rfl, rfl, List.length_map _⟩

theorem keepsUnits_translate (s : State) (asid va : Nat) (wr : Bool) : KeepsUnits s (s.translate asid va wr).1 := by
  unfold State.translate
  split
  · split
    · split <;> exact ⟨rfl, rfl, rfl⟩
    · exact .refl s
  · split
    · exact .refl s
    · exact .refl s
    · dsimp only
      split
      · exact .refl s
      · exact keepsUnits_faultOf ..
    · split
      · exact .refl s
      · split <;> exact ⟨rfl, rfl, rfl⟩

theorem keepsUnits_writeRecords (asid va : Nat) (rs : List (List Byte × Bool)) (s : State) :
    KeepsUnits s (State.writeRecords asid va rs s).1 := by
  induction rs generalizing va s with
  | nil => exact .refl s
  | cons r rs ih =>
    have h := keepsUnits_translate s asid va true
    unfold State.writeRecords
    split <;> rename_i heq <;> rw [heq] at h
    · split
      · refine (h.trans ?_).trans (ih ..)
        split <;> exact ⟨rfl, rfl, rfl⟩
      · exact h
    · exact h
    · exact h

theorem keepsUnits_spillFault (s : State) (i k : Nat) (x : Spill) : KeepsUnits s (s.spillFault i k x) := by
  cases x with
  | ok => exact .refl s
  | poison => exact keepsUnits_faultOf ..
  | refused c va t => cases c <;> exact ⟨rfl, rfl, List.length_map _⟩

theorem keepsUnits_spillTo (s : State) (i off : Nat) (lv : Level) : KeepsUnits s (s.spillTo i off lv).1 := by
  unfold State.spillTo
  split
  · exact .refl s
  · next w hw =>
    split
    · exact keepsUnits_faultOf ..
    · have h := keepsUnits_writeRecords (s.asidOf i) (w.privBase + off) (lv.image.zip lv.badRecords) s
      split <;> rename_i heq <;> rw [heq] at h
      · exact h
      · exact h.trans (keepsUnits_spillFault ..)

theorem keepsUnits_spillLevel (s : State) (i p : Nat) : KeepsUnits s (s.spillLevel i p).1 := by
  unfold State.spillLevel
  split
  · exact .refl s
  · next w hw =>
    split
    · exact .refl s
    · next lv hlv =>
      have h := keepsUnits_spillTo s i (w.spillOffset p) lv
      split
      · next heq => rw [heq] at h; exact h.trans (keepsUnits_updSwarm ..)
      · exact h

theorem keepsUnits_trim (s : State) (i fuel : Nat) : KeepsUnits s (s.trim i fuel) := by
  induction fuel generalizing s with
  | zero => exact .refl s
  | succ n ih =>
    unfold State.trim
    split
    · split
      · split
        · exact keepsUnits_faultOf ..
        · next p hp =>
          have h := keepsUnits_spillLevel s i p
          split <;> rename_i heq <;> rw [heq] at h
          · exact h.trans (ih _)
          · exact h
      · exact .refl s
    · exact .refl s

/-- A handler entry may spill levels (R58), which touches memory and may fault the context. -/
theorem keepsUnits_tryEnter (s : State) (i : Nat) : KeepsUnits s (s.tryEnter i) := by
  unfold State.tryEnter
  split
  · exact .refl s
  · split
    · exact (keepsUnits_updSwarm ..).trans (keepsUnits_trim ..)
    · exact .refl s

theorem recordFaults_nil (s : State) (i : Nat) (o : Op) : s.recordFaults i o [] = s := rfl

theorem keepsUnits_endEngineOp (s : State) (p : Nat × Nat) : KeepsUnits s (endEngineOp [] s p) := by
  unfold endEngineOp
  split
  · exact .refl s
  · rw [recordFaults_nil]
    exact (keepsUnits_updSwarm ..).trans (keepsUnits_tryEnter ..)

theorem keepsUnits_endEngineOps (ps : List (Nat × Nat)) (s : State) : KeepsUnits s (ps.foldl (endEngineOp []) s) := by
  induction ps generalizing s with
  | nil => exact .refl s
  | cons p ps ih => exact (keepsUnits_endEngineOp s p).trans (ih _)

/-! ### Which operation completes, and what runs (R95) -/

theorem find?_and_of_find? {α : Type} {l : List α} {p q : α → Bool} {x : α} (h : l.find? p = some x) (hq : q x = true) :
    l.find? (fun y => p y && q y) = some x := by
  obtain ⟨hp, as, bs, hl, has⟩ := List.find?_eq_some_iff_append.mp h
  refine List.find?_eq_some_iff_append.mpr ⟨by simp [hp, hq], as, bs, hl, fun a ha => ?_⟩
  have hn := has a ha
  simp only [Bool.not_eq_true'] at hn
  simp [hn]

theorem mmasUpTo_append {x : MmaOp} {as bs : List MmaOp} (h : x ∉ as) : mmasUpTo x (as ++ x :: bs) = as ++ [x] := by
  induction as with
  | nil => simp [mmasUpTo]
  | cons a as ih =>
    obtain ⟨ha, has⟩ := List.ne_and_not_mem_of_not_mem_cons h
    simp [mmasUpTo, ha.symm, ih has]

theorem mmasBefore_nil {cores : List Nat} {l : List MmaOp} (h : ∀ y ∈ l, ∀ c ∈ cores, y.uses c = false) :
    mmasBefore cores l = [] := by
  induction l with
  | nil => rfl
  | cons y r ih =>
    have hy : cores.any y.uses = false := List.any_eq_false.mpr fun c hc => by simp [h y (by simp) c hc]
    simp [mmasBefore, hy, ih fun z hz => h z (by simp [hz])]

/-- An operation of one part that is the oldest of its core, and has not run, is all that runs when it completes. -/
theorem mmasDue_oldest {l : List MmaOp} {core : Nat} {x : MmaOp} {p : MmaPart} (h : l.find? (fun m => m.uses core) = some x)
    (hp : x.parts = [p]) (hr : x.ran = false) : mmasDue x l = [x] := by
  obtain ⟨hx, as, bs, rfl, has⟩ := List.find?_eq_some_iff_append.mp h
  have hc : p.coreNo = core := by simpa [MmaOp.uses, hp] using hx
  have hn : x ∉ as := fun hm => by simpa [hx] using has x hm
  have hb : mmasBefore [core, core] as.reverse = [] := mmasBefore_nil fun y hy c hc => by
    have hu := has y (List.mem_reverse.mp hy)
    simp only [List.mem_cons, List.not_mem_nil, or_false, or_self] at hc
    subst hc
    simpa using hu
  simp [mmasDue, mmasUpTo_append hn, mmasBefore, hp, hc, hx, hb, hr]

/-- Marking an operation as run does not show once operations of its number are gone. -/
theorem filter_map_ran (x : MmaOp) (l : List MmaOp) :
    (l.map fun m => if [x].contains m then { m with ran := true } else m).filter
      (fun m => !(m.colony == x.colony && m.num == x.num)) = l.filter fun m => !(m.colony == x.colony && m.num == x.num) := by
  induction l with
  | nil => rfl
  | cons m l ih =>
    simp only [List.map_cons, List.filter_cons, ih]
    by_cases h : m = x
    · subst h; simp
    · simp [h]

theorem partBad_clean {s : State} {m : MmaOp} {p : MmaPart} {col : Colony} {y : Tile} (hc : s.colonies[m.colony]? = some col)
    (hp : col.combPoison = []) (hy : (s.core p.key).tiles[p.tile]? = some y) (hb : y.bad = []) : s.partBad m p = false := by
  simp [State.partBad, mmaAccBad, hc, hp, hy, hb, List.getD_eq_getElem?_getD]

/-! ### Reading the comb (R93, R146) -/

theorem combChoices_ne_nil (c : Colony) (now since a : Nat) : c.combChoices now since a ≠ [] := by
  unfold Colony.combChoices
  intro h
  have h2 := (List.append_eq_nil_iff.mp h).2
  split at h2 <;> cases h2

theorem combSeen_mem (c : Colony) (now since occ a : Nat) : c.combSeen now since occ a ∈ c.combChoices now since a := by
  have h : Config.freeNat (occ + a) % (c.combChoices now since a).length < (c.combChoices now since a).length :=
    Nat.mod_lt _ (List.length_pos_of_ne_nil (combChoices_ne_nil c now since a))
  simp [Colony.combSeen, List.getD_eq_getElem?_getD, h]

/-- A byte is read as it stood before a write made since the start and not in this clock, or as it stands, without what this clock
has written. -/
theorem combSeen_old_or_now (c : Colony) (now since occ a : Nat) :
    (∃ o ∈ c.combOld, o.addr = a ∧ since ≤ o.seq ∧ o.cycle ≠ now ∧ c.combSeen now since occ a = o.byte)
    ∨ c.combSeen now since occ a = match c.combOld.find? fun o => o.addr == a && o.cycle == now with
        | none => c.combByte a
        | some o => o.byte := by
  rcases List.mem_append.mp (combSeen_mem c now since occ a) with h | h
  · obtain ⟨o, ho, hb⟩ := List.mem_map.mp h
    simp only [List.mem_filter, Bool.and_eq_true, decide_eq_true_eq, beq_iff_eq, bne_iff_ne] at ho
    obtain ⟨⟨hm, ha⟩, hs, hn⟩ := ho
    exact .inl ⟨o, hm, ha, hs, hn, hb.symm⟩
  · simp only [List.find?_filter, Bool.decide_and, Bool.decide_eq_true] at h
    refine .inr ?_
    cases hfind : c.combOld.find? fun o => o.addr == a && o.cycle == now <;> simpa [hfind] using h

/-! ### Elements of a tile (R79, R91) -/

theorem Tile.put_wf {x : Tile} (h : spWfFrom 0 0 x.elems = true) (i j : Nat) (v : W32) :
    spWfFrom 0 0 (x.put i j v).elems = true := spPut_wf v h (Nat.zero_le _)

theorem Tile.get_put {x : Tile} (h : spWfFrom 0 0 x.elems = true) {i j a b : Nat} (hj : j < tileCols) (hb : b < tileCols) (v : W32) :
    (x.put i j v).get a b = if a = i ∧ b = j then v else x.get a b := by
  have hk : i * tileCols + j = a * tileCols + b ↔ a = i ∧ b = j := by
    unfold tileCols at *
    omega
  simp only [Tile.get, Tile.put, spGet_spPut h, hk]

/-- Elements 0 to `n - 1` of row `i`, each replaced by a function of its column and its old value. -/
def Tile.updRow (v : Nat → W32 → W32) (i n : Nat) (x : Tile) : Tile :=
  (List.range n).foldl (fun x j => x.put i j (v j (x.get i j))) x

theorem Tile.updRow_succ (v : Nat → W32 → W32) (i n : Nat) (x : Tile) :
    x.updRow v i (n + 1) = (x.updRow v i n).put i n (v n ((x.updRow v i n).get i n)) := by
  simp [Tile.updRow, List.range_succ]

theorem Tile.updRow_wf {x : Tile} (h : spWfFrom 0 0 x.elems = true) (v : Nat → W32 → W32) (i n : Nat) :
    spWfFrom 0 0 (x.updRow v i n).elems = true := by
  induction n with
  | zero => exact h
  | succ n ih => rw [updRow_succ]; exact Tile.put_wf ih ..

/-- The columns are below `tileCols`, so that no element of a row is written twice or meets one of another row. -/
theorem Tile.get_updRow {x : Tile} (h : spWfFrom 0 0 x.elems = true) (v : Nat → W32 → W32) (i a : Nat) {n b : Nat}
    (hn : n ≤ tileCols) (hb : b < tileCols) :
    (x.updRow v i n).get a b = if a = i ∧ b < n then v b (x.get a b) else x.get a b := by
  induction n generalizing a b with
  | zero => simp [Tile.updRow]
  | succ n ih =>
    rw [updRow_succ, Tile.get_put (updRow_wf h v i n) (by omega) hb, ih i (by omega) (by omega), ih a (by omega) hb]
    by_cases ha : a = i
    · subst ha
      rcases Nat.lt_trichotomy b n with hlt | rfl | hgt
      · simp [hlt, show b ≠ n by omega, show b < n + 1 by omega]
      · simp
      · simp [show b ≠ n by omega, show ¬ b < n by omega, show ¬ b < n + 1 by omega]
    · simp [ha]

@[simp] theorem Tile.updRow_owner (x : Tile) (v : Nat → W32 → W32) (i n : Nat) : (x.updRow v i n).owner = x.owner := by
  induction n with
  | zero => rfl
  | succ n ih => rw [updRow_succ]; exact ih

@[simp] theorem Tile.updRow_token (x : Tile) (v : Nat → W32 → W32) (i n : Nat) : (x.updRow v i n).token = x.token := by
  induction n with
  | zero => rfl
  | succ n ih => rw [updRow_succ]; exact ih

/-- Several rows, each updated in its first `n` columns. -/
def Tile.updRows (v : Nat → Nat → W32 → W32) (n : Nat) (rows : List Nat) (x : Tile) : Tile :=
  rows.foldl (fun x i => x.updRow (v i) i n) x

theorem Tile.get_updRows {x : Tile} (h : spWfFrom 0 0 x.elems = true) (v : Nat → Nat → W32 → W32) {rows : List Nat}
    (hr : rows.Nodup) (a : Nat) {n b : Nat} (hn : n ≤ tileCols) (hb : b < tileCols) :
    (x.updRows v n rows).get a b = if a ∈ rows ∧ b < n then v a b (x.get a b) else x.get a b := by
  induction rows generalizing x with
  | nil => simp [Tile.updRows]
  | cons i rows ih =>
    obtain ⟨hi, hr⟩ := List.nodup_cons.mp hr
    have hx := ih (updRow_wf h (v i) i n) hr
    simp only [Tile.updRows, List.foldl_cons] at hx ⊢
    rw [hx, get_updRow h (v i) i a hn hb]
    by_cases ha : a = i
    · subst ha; simp [hi]
    · simp [ha]

@[simp] theorem Tile.updRows_owner (x : Tile) (v : Nat → Nat → W32 → W32) (n : Nat) (rows : List Nat) :
    (x.updRows v n rows).owner = x.owner := by
  induction rows generalizing x with
  | nil => rfl
  | cons i rows ih => exact (ih _).trans (updRow_owner ..)

@[simp] theorem Tile.updRows_token (x : Tile) (v : Nat → Nat → W32 → W32) (n : Nat) (rows : List Nat) :
    (x.updRows v n rows).token = x.token := by
  induction rows generalizing x with
  | nil => rfl
  | cons i rows ih => exact (ih _).trans (updRow_token ..)

theorem mem_mmaRows {m i : Nat} {mask : W64} : i ∈ mmaRows m mask ↔ i < m ∧ mask.getLsbD (i % 64) = true := by
  simp [mmaRows, has]

theorem mmaRows_nodup (m : Nat) (mask : W64) : (mmaRows m mask).Nodup := List.nodup_range.filter _

/-- An update whose elements are specified gives each the value of R77 over the bytes that the part reads. -/
theorem mmaUpdate_eq (col : Colony) (at_ : ReadAt) (stage : Nat) (p : MmaPart) (x : Tile) :
    mmaUpdate col at_ stage p none x = x.updRows
      (fun i j old => mmaValue (col.combSeen at_.now at_.since at_.occ) stage p old i j) (tileCfg p.tcfg).n
      (mmaRows (tileCfg p.tcfg).m p.mask) := rfl

/-- The tile that a part leaves: its elements updated (R91), and no poison in the code words it has written. -/
def MmaPart.tileAfter (p : MmaPart) (col : Colony) (at_ : ReadAt) (stage : Nat) (x : Tile) : Tile :=
  let y := mmaUpdate col at_ stage p none x
  { y with bad := y.bad.filter fun g => !(mmaTouches p g).1 }

@[simp] theorem MmaPart.tileAfter_owner (p : MmaPart) (col : Colony) (at_ : ReadAt) (stage : Nat) (x : Tile) :
    (p.tileAfter col at_ stage x).owner = x.owner := by
  simp [MmaPart.tileAfter, mmaUpdate_eq]

@[simp] theorem MmaPart.tileAfter_token (p : MmaPart) (col : Colony) (at_ : ReadAt) (stage : Nat) (x : Tile) :
    (p.tileAfter col at_ stage x).token = x.token := by
  simp [MmaPart.tileAfter, mmaUpdate_eq]

/-- The elements of the rows that M and the mask pick take the value of R77, the others stay. -/
theorem MmaPart.tileAfter_get {p : MmaPart} (col : Colony) (at_ : ReadAt) (stage : Nat) {x : Tile}
    (h : spWfFrom 0 0 x.elems = true) (hn : (tileCfg p.tcfg).n ≤ tileCols) (i : Nat) {j : Nat} (hj : j < tileCols) :
    (p.tileAfter col at_ stage x).get i j =
      if i < (tileCfg p.tcfg).m ∧ p.mask.getLsbD (i % 64) = true ∧ j < (tileCfg p.tcfg).n then
        mmaValue (col.combSeen at_.now at_.since at_.occ) stage p (x.get i j) i j
      else x.get i j := by
  have hu := Tile.get_updRows h (fun i j old => mmaValue (col.combSeen at_.now at_.since at_.occ) stage p old i j)
    (mmaRows_nodup (tileCfg p.tcfg).m p.mask) i hn hj
  rw [← mmaUpdate_eq] at hu
  simp only [mem_mmaRows, and_assoc] at hu
  exact hu

/-! ### The core's tile -/

theorem core_congr {s t : State} (h : t.dies = s.dies) (k : Nat × Nat × Nat) : t.core k = s.core k := by
  simp only [State.core, h]

/-- A change of a core that the device has shows there. -/
theorem core_updCore_same {s : State} {k : Nat × Nat × Nat} {d : Die} {cl : Cluster} (f : CoreSt → CoreSt)
    (hd : s.dies[k.1]? = some d) (hc : d.clusters[k.2.1]? = some cl) (hk : k.2.2 < cl.cores.length) :
    (s.updCore k f).core k = f (s.core k) := by
  simp [State.core, State.updCore, State.updDie, hd, hc, hk, List.getD_eq_getElem?_getD]

/-- A change of a tile of such a core shows there. -/
theorem tile_updTile_same {s : State} {k : Nat × Nat × Nat} {t : Nat} {d : Die} {cl : Cluster} {y : Tile} (f : Tile → Tile)
    (hd : s.dies[k.1]? = some d) (hc : d.clusters[k.2.1]? = some cl) (hk : k.2.2 < cl.cores.length)
    (hy : (s.core k).tiles[t]? = some y) : ((s.updTile k t f).core k).tiles[t]? = some (f y) := by
  simp [State.updTile, core_updCore_same _ hd hc hk, hy]

/-! ### Running and completing an operation of one part -/

/-- The part's tile is updated; what its reads may find is free on the occasion that the state counts. -/
theorem runMma_onePart {s : State} {x : MmaOp} {p : MmaPart} {col : Colony} (hp : x.parts = [p]) (hf : x.free = false)
    (hc : s.colonies[x.colony]? = some col) :
    runMma s x = { s with fresh := s.fresh + freshPerRead }.updTile p.key p.tile
      (p.tileAfter col ⟨s.cycleOf p.die, x.since, s.fresh⟩ (s.stageNo p.swarm)) := by
  simp only [runMma, hp, List.foldl_cons, List.foldl_nil, runPart, hc, hf]
  rfl

/-- The completion of an operation of one part that is due on the oldest place of its core. -/
theorem execMmaComplete_onePart {s : State} {core : Nat} {x : MmaOp} {p : MmaPart} {col : Colony} {y : Tile}
    (hx : s.mmas.find? (fun m => m.uses core) = some x) (hd : x.due ≤ s.cycleOf (core / 48)) (hp : x.parts = [p])
    (hr : x.ran = false) (ht : s.engineTurn = true) (hc : s.colonies[x.colony]? = some col) (hcp : col.combPoison = [])
    (hy : (s.core p.key).tiles[p.tile]? = some y) (hb : y.bad = []) :
    execMmaComplete core s = .next (endMma x (runUpTo x s.noteEngine)) := by
  have hfind := find?_and_of_find? (q := fun m => decide (m.due ≤ s.cycleOf (core / 48))) hx (by simpa using hd)
  simp [execMmaComplete, hfind, ht, mmasDue_oldest hx hp hr, hp, partBad_clean hc hcp hy hb]

theorem mem_insNat_self (n : Nat) (l : List Nat) : n ∈ insNat n l := by
  induction l with
  | nil => simp [insNat]
  | cons x r ih =>
    unfold insNat
    split
    · simp
    · split
      · next h => simp [h]
      · simp [ih]

/-- A completion ends with the waits that it releases. Before them it has dropped the operation, counted it in its colony's timeline,
and left the dies as they were. -/
theorem endMma_settles {s : State} {x : MmaOp} {col : Colony} (hc : s.colonies[x.colony]? = some col) :
    ∃ u, endMma x s = settle u ∧ u.mmas = s.mmas.filter (fun m => !(m.colony == x.colony && m.num == x.num))
      ∧ u.dies = s.dies ∧ ∃ c', u.colonies[x.colony]? = some c' ∧ x.num ∈ c'.mmaDone := by
  obtain ⟨hm, hd, hl⟩ := keepsUnits_endEngineOps (x.parts.map fun p => (p.swarm, p.op))
    { s with mmas := s.mmas.filter fun m => !(m.colony == x.colony && m.num == x.num) }
  have hlt := hl ▸ (List.getElem?_eq_some_iff.mp hc).1
  refine ⟨_, rfl, hm, hd, ?_⟩
  simp only [State.updColony_colonies, List.getElem?_modify_eq, List.getElem?_eq_getElem hlt]
  exact ⟨_, rfl, mem_insNat_self ..⟩

/-- The oldest operation of its core runs alone: its tile is updated, and the operation marked as run. -/
theorem runUpTo_onePart {s : State} {core : Nat} {x : MmaOp} {p : MmaPart} {col : Colony}
    (hx : s.mmas.find? (fun m => m.uses core) = some x) (hp : x.parts = [p]) (hr : x.ran = false) (hf : x.free = false)
    (hc : s.colonies[x.colony]? = some col) :
    runUpTo x s = { s.updTile p.key p.tile (p.tileAfter col ⟨s.cycleOf p.die, x.since, s.fresh⟩ (s.stageNo p.swarm)) with
      fresh := s.fresh + freshPerRead
      mmas := s.mmas.map fun m => if [x].contains m then { m with ran := true } else m } := by
  simp only [runUpTo, mmasDue_oldest hx hp hr, List.foldl_cons, List.foldl_nil, runMma_onePart hp hf hc]
  rfl

/-- Settles O41: the oldest operation runs alone, each byte it reads is one that `combSeen` may find, and its elements change one by
one; what ends the swarm's side of it leaves the units as they are. -/
theorem mmaPerforms : Obligations.MmaPerforms := by
  intro s core x p col y hx hd hp hr hf ht hc hcp ⟨d, cl, hdie, hcl, hcore⟩ hy hb hwf hn
  have hrun := runUpTo_onePart (s := s.noteEngine) hx hp hr hf hc
  have hcol : (runUpTo x s.noteEngine).colonies[x.colony]? = some col := by rw [hrun]; exact hc
  obtain ⟨u, hu, hmmas, hdies, hdone⟩ := endMma_settles hcol
  have htile : (u.core p.key).tiles[p.tile]? =
      some (p.tileAfter col ⟨s.cycleOf p.die, x.since, s.fresh⟩ (s.stageNo p.swarm) y) := by
    rw [core_congr hdies, hrun]
    exact tile_updTile_same (s := s) _ hdie hcl hcore hy
  refine ⟨u, _, col.combSeen (s.cycleOf p.die) x.since s.fresh, ?_, ?_, hdone, htile, p.tileAfter_owner .., p.tileAfter_token ..,
    combSeen_old_or_now col _ _ _, fun i _ j hj => p.tileAfter_get col _ _ hwf hn i hj⟩
  · rw [exec_mmaComplete, execMmaComplete_onePart hx hd hp hr ht hc hcp hy hb, hu]
  · rw [hmmas, hrun]
    exact filter_map_ran x s.mmas

end Sys2Proof.Machine
end

section
/-! SUPPORT. The two-operand vector integer families (R371-R375, R380, R381, R384): each family's operation on elements, at the width
of its type, leaves the bits of the exact result of Table 24.2; and what such an instruction pushes, lane by lane. -/

namespace Sys2Proof.Machine

/-! ### Elements and their numbers -/

theorem valOf_eq_numOf {n : Nat} (t : IntT) (x : BitVec n) : valOf (intSigned t) x = numOf t x := by cases t <;> rfl

/-- An element is the bits of its number, whatever the type's signedness. -/
@[simp] theorem ofInt_numOf {n : Nat} (t : IntT) (x : BitVec n) : BitVec.ofInt n (numOf t x) = x := by
  apply BitVec.eq_of_toNat_eq
  rw [BitVec.toNat_ofInt, num_mod, Int.toNat_natCast]

@[simp] theorem wrapTo_numOf {n : Nat} (t : IntT) (x : BitVec n) : wrapTo n (numOf t x) = x.toNat := by
  rw [wrapTo, num_mod, Int.toNat_natCast]

theorem wrapTo_numOf_low {n k : Nat} (t : IntT) (x : BitVec n) (h : k ≤ n) : wrapTo k (numOf t x) = x.toNat % 2 ^ k := by
  have hd : ((2 ^ k : Nat) : Int) ∣ ((2 ^ n : Nat) : Int) := Int.natCast_dvd_natCast.mpr (Nat.pow_dvd_pow 2 h)
  rw [wrapTo, ← Int.emod_emod_of_dvd _ hd, num_mod, ← Int.natCast_emod, Int.toNat_natCast]

theorem ofInt_toNat {n : Nat} (x : BitVec n) : BitVec.ofInt n x.toNat = x := by simp

theorem ltEl_eq {n : Nat} (t : IntT) (x y : BitVec n) : ltEl (intSigned t) x y = decide (numOf t x < numOf t y) := by
  rw [Bool.eq_iff_iff, decide_eq_true_iff]
  cases t
  case s32 | s64 => exact BitVec.slt_iff_toInt_lt
  case n32 | n64 => exact BitVec.ult_iff_toNat_lt.trans Int.ofNat_lt.symm

/-- The count of a shift is the low 5 or 6 bits of the last source (R384). -/
theorem countOf_eq (t : IntT) (y : BitVec (bitsOf t)) : countOf y = wrapTo (if intWide t then 6 else 5) (numOf t y) := by
  rw [wrapTo_numOf_low t y (by cases t <;> decide), countOf]
  cases t <;> rfl

/-- Clamping to a type is clamping to the limits of its width and signedness. -/
theorem clampInt_eq (t : IntT) (z : Int) : clampInt (bitsOf t) (intSigned t) z = BitVec.ofInt (bitsOf t) (clampTo t z) := by
  cases t <;> rfl

/-! ### The exact results -/

/-- The operation on elements of `n` bits leaves the bits of the exact result on their numbers. -/
def Computes (t : IntT) (n : Nat) (g : BitVec n → BitVec n → BitVec n) (f : Int → Int → Int) : Prop :=
  ∀ x y, g x y = BitVec.ofInt n (f (numOf t x) (numOf t y))

/-- The bits of the exact result are the exact result modulo the width. -/
theorem Computes.toNat {t : IntT} {n : Nat} {g : BitVec n → BitVec n → BitVec n} {f : Int → Int → Int} (h : Computes t n g f)
    (x y : BitVec n) : ((g x y).toNat : Int) = f (numOf t x) (numOf t y) % 2 ^ n := by
  have hp : ((2 ^ n : Nat) : Int) ≠ 0 := by positivity
  rw [h x y, BitVec.toNat_ofInt, Int.toNat_of_nonneg (Int.emod_nonneg _ hp), Nat.cast_pow, Nat.cast_ofNat]

theorem computes_addEl (t : IntT) (sat : Bool) :
    Computes t (bitsOf t) (addEl t sat) fun x y => if sat then clampTo t (x + y) else x + y := by
  intro x y
  cases sat
  · simp [addEl, BitVec.ofInt_add]
  · simp [addEl, clampInt_eq, valOf_eq_numOf]

theorem computes_subEl (t : IntT) (sat : Bool) :
    Computes t (bitsOf t) (subEl t sat) fun x y => if sat then clampTo t (x - y) else x - y := by
  intro x y
  cases sat
  · simp [subEl, Int.sub_eq_add_neg, BitVec.ofInt_add, BitVec.ofInt_neg, BitVec.sub_eq_add_neg]
  · simp [subEl, clampInt_eq, valOf_eq_numOf]

theorem computes_mul (t : IntT) (n : Nat) : Computes t n (fun x y => x * y) fun x y => x * y := by
  intro x y
  simp [BitVec.ofInt_mul]

theorem computes_mulhi (t : IntT) :
    Computes t (bitsOf t) (mulhi (intSigned t)) fun x y => x * y / (2 ^ bitsOf t : Nat) := by
  intro x y
  simp only [mulhi, valOf_eq_numOf]

theorem computes_minEl (t : IntT) (n : Nat) : Computes t n (minEl (intSigned t)) fun x y => min x y := by
  intro x y
  rw [minEl, ltEl_eq]
  by_cases h : numOf t y < numOf t x
  · simp [h, min_eq_right h.le]
  · simp [h, min_eq_left (not_lt.mp h)]

theorem computes_maxEl (t : IntT) (n : Nat) : Computes t n (maxEl (intSigned t)) fun x y => max x y := by
  intro x y
  rw [maxEl, ltEl_eq]
  by_cases h : numOf t x < numOf t y
  · simp [h, max_eq_right h.le]
  · simp [h, max_eq_left (not_lt.mp h)]

/-- An operation on the operands' bits. -/
theorem computes_bits {t : IntT} {n : Nat} {g : BitVec n → BitVec n → BitVec n} {f : Nat → Nat → Nat}
    (h : ∀ x y, (g x y).toNat = f x.toNat y.toNat) : Computes t n g fun x y => (f (wrapTo n x) (wrapTo n y) : Nat) := by
  intro x y
  simp only [wrapTo_numOf, ← h, ofInt_toNat]

theorem computes_shl (t : IntT) : Computes t (bitsOf t) (fun x y => x <<< countOf y) fun x y =>
    x * (2 ^ wrapTo (if intWide t then 6 else 5) y : Nat) := by
  intro x y
  have hpow : BitVec.twoPow (bitsOf t) (countOf y) = BitVec.ofNat (bitsOf t) (2 ^ countOf y) := by
    apply BitVec.eq_of_toNat_eq
    rw [BitVec.toNat_twoPow, BitVec.toNat_ofNat]
  simp only [← countOf_eq, BitVec.ofInt_mul, ofInt_numOf, BitVec.ofInt_natCast, BitVec.shiftLeft_eq_mul_twoPow, hpow]

theorem computes_shr (t : IntT) : Computes t (bitsOf t) (fun x y => x >>> countOf y) fun x y =>
    ((wrapTo (bitsOf t) x / 2 ^ wrapTo (if intWide t then 6 else 5) y : Nat) : Int) := by
  intro x y
  simp only [← countOf_eq, wrapTo_numOf, ← Nat.shiftRight_eq_div_pow, ← BitVec.toNat_ushiftRight, ofInt_toNat]

/-- A number's bits, read with a sign. -/
theorem toInt_eq_wrapTo (t : IntT) (x : BitVec (bitsOf t)) :
    x.toInt = if wrapTo (bitsOf t) (numOf t x) < 2 ^ (bitsOf t - 1) then (wrapTo (bitsOf t) (numOf t x) : Int)
      else (wrapTo (bitsOf t) (numOf t x) : Int) - (2 ^ bitsOf t : Nat) := by
  have hp : 2 ^ bitsOf t = 2 * 2 ^ (bitsOf t - 1) := by cases t <;> rfl
  rw [wrapTo_numOf, BitVec.toInt_eq_toNat_cond]
  exact if_congr (by omega) rfl rfl

theorem computes_sra (t : IntT) : Computes t (bitsOf t) (fun x y => x.sshiftRight (countOf y)) fun x y =>
    (if wrapTo (bitsOf t) x < 2 ^ (bitsOf t - 1) then (wrapTo (bitsOf t) x : Int)
      else (wrapTo (bitsOf t) x : Int) - (2 ^ bitsOf t : Nat)) / (2 ^ wrapTo (if intWide t then 6 else 5) y : Nat) := by
  intro x y
  simp only [← countOf_eq, ← toInt_eq_wrapTo, ← Int.shiftRight_eq_div_pow, ← BitVec.toInt_sshiftRight, BitVec.ofInt_toInt]

/-- A two-operand word is `vecBin` on a family of operations, one for each width, that computes its exact result at the width of
its type. -/
theorem vint_computes {i : Instr} {c : Ctrl} {k : KReg} {t : IntT} {a : Operand} {b : Src} {clocks : Nat} {f : Int → Int → Int}
    (hi : vintShape i = some (c, k, t, a, b)) (hf : vintResult i = some (clocks, f)) :
    ∃ g : ∀ n, BitVec n → BitVec n → BitVec n,
      (∀ s, exec i s = vecBin c k t a b clocks (g 32) (g 64) s) ∧ Computes t (bitsOf t) (g (bitsOf t)) f := by
  unfold vintShape at hi
  split at hi <;> cases hi <;> cases hf
  case h_1 sat => exact ⟨fun _ => addEl t sat, fun _ => rfl, computes_addEl t sat⟩
  case h_2 sat => exact ⟨fun _ => subEl t sat, fun _ => rfl, computes_subEl t sat⟩
  case h_3 => exact ⟨fun _ x y => x &&& y, fun _ => rfl, computes_bits (f := (· &&& ·)) BitVec.toNat_and⟩
  case h_4 => exact ⟨fun _ x y => x ||| y, fun _ => rfl, computes_bits (f := (· ||| ·)) BitVec.toNat_or⟩
  case h_5 => exact ⟨fun _ x y => x ^^^ y, fun _ => rfl, computes_bits (f := (· ^^^ ·)) BitVec.toNat_xor⟩
  case h_6 => exact ⟨fun _ x y => x &&& ~~~y, fun _ => rfl,
    computes_bits (f := fun x y => x &&& (2 ^ bitsOf t - 1 - y)) fun x y => by rw [BitVec.toNat_and, BitVec.toNat_not]⟩
  case h_7 => exact ⟨fun _ x y => x <<< countOf y, fun _ => rfl, computes_shl t⟩
  case h_8 => exact ⟨fun _ x y => x >>> countOf y, fun _ => rfl, computes_shr t⟩
  case h_9 => exact ⟨fun _ x y => x.sshiftRight (countOf y), fun _ => rfl, computes_sra t⟩
  case h_10 => exact ⟨fun _ => minEl (intSigned t), fun _ => rfl, computes_minEl t _⟩
  case h_11 => exact ⟨fun _ => maxEl (intSigned t), fun _ => rfl, computes_maxEl t _⟩
  case h_12 => exact ⟨fun _ x y => x * y, fun _ => rfl, computes_mul t _⟩
  case h_13 => exact ⟨fun _ => mulhi (intSigned t), fun _ => rfl, computes_mulhi t⟩

/-! ### The last source -/

@[simp] theorem src32_length (e : Env) (sgn : Bool) (b : Src) : (src32 e sgn b).length = 64 := by
  cases b with
  | op o => exact read_length e 1 o
  | imm v => exact lanes_length _

@[simp] theorem src64_length (e : Env) (sgn : Bool) (b : Src) : (src64 e sgn b).length = 64 := by
  cases b with
  | op o => exact read64_length e 1 o
  | imm v => simp [src64, laneList]

/-- Extending an immediate by the type's signedness keeps its number (R371). -/
theorem numOf_immExt {n : Nat} (t : IntT) (v : BitVec 18) (hn : 18 ≤ n) : numOf t (immExt n (intSigned t) v) = numOf t v := by
  cases t
  case s32 | s64 => exact BitVec.toInt_signExtend_of_le hn
  case n32 | n64 => exact congrArg Nat.cast (BitVec.toNat_setWidth_of_le hn)

theorem srcNum_imm (e : Env) (t : IntT) (v : BitVec 18) (l : Nat) : e.srcNum t (.imm v) l = numOf t v := by cases t <;> rfl

theorem numOf_src32 (e : Env) {t : IntT} (ht : intWide t = false) (b : Src) {l : Nat} (hl : l < 64) :
    numOf t (el (src32 e (intSigned t) b) l) = e.srcNum t b l := by
  cases b with
  | op o => simp [src32, Env.srcNum, ht]
  | imm v => rw [src32, el_splat _ l hl, numOf_immExt t v (by decide), srcNum_imm]

theorem numOf_src64 (e : Env) {t : IntT} (ht : intWide t = true) (b : Src) {l : Nat} (hl : l < 64) :
    numOf t (el64 (src64 e (intSigned t) b) l) = e.srcNum t b l := by
  cases b with
  | op o => simp [src64, Env.srcNum, ht]
  | imm v => rw [src64, el64_map _ l hl, numOf_immExt t v (by decide), srcNum_imm]

/-! ### The entries pushed -/

theorem vecEntries_length (e : Env) (t : IntT) (a : Operand) (b : Src) (g32 : W32 → W32 → W32) (g64 : W64 → W64 → W64) :
    (vecEntries e t a b g32 g64).length = wOf (intWide t) := by
  cases t <;> rfl

/-- The low and the high half of a wide element make its number. -/
theorem toNat_lo32_add_hi32 (x : W64) : (lo32 x).toNat + 2 ^ 32 * (hi32 x).toNat = x.toNat := by
  have hlo : (lo32 x).toNat = x.toNat % 2 ^ 32 := BitVec.toNat_setWidth ..
  have hhi : (hi32 x).toNat = x.toNat / 2 ^ 32 % 2 ^ 32 := by
    rw [hi32, BitVec.toNat_setWidth, BitVec.toNat_ushiftRight, Nat.shiftRight_eq_div_pow]
  have hx := x.isLt
  omega

theorem el_map (f : W64 → W32) (r : List W64) {l : Nat} (hl : l < r.length) : el (r.map f) l = f (el64 r l) := by
  simp [el, el64, List.getD_eq_getElem?_getD, hl]

/-- A 32-bit entry holds the exact results modulo 2^32. -/
theorem vecEntries_narrow {e : Env} {t : IntT} {a : Operand} {b : Src} {g32 : W32 → W32 → W32} {g64 : W64 → W64 → W64}
    {f : Int → Int → Int} (ht : intWide t = false) (hg : Computes t 32 g32 f) {v : List W32}
    (hv : (vecEntries e t a b g32 g64)[0]? = some v) {l : Nat} (hl : l < 64) :
    ((el v l).toNat : Int) = f (e.opNum t a l) (e.srcNum t b l) % 2 ^ 32 := by
  simp only [vecEntries, ht, Bool.false_eq_true, if_false, List.getElem?_cons_zero, Option.some.injEq] at hv
  subst hv
  rw [el_zipWith _ _ _ l (by rwa [read_length]) (by rwa [src32_length]), hg.toNat, numOf_src32 e ht b hl]
  simp [Env.opNum, ht]

/-- Two entries, the low halves and the high halves, hold the exact results modulo 2^64. -/
theorem vecEntries_wide {e : Env} {t : IntT} {a : Operand} {b : Src} {g32 : W32 → W32 → W32} {g64 : W64 → W64 → W64}
    {f : Int → Int → Int} (ht : intWide t = true) (hg : Computes t 64 g64 f) {lo hi : List W32}
    (hlo : (vecEntries e t a b g32 g64)[0]? = some lo) (hhi : (vecEntries e t a b g32 g64)[1]? = some hi) {l : Nat} (hl : l < 64) :
    ((el lo l).toNat + 2 ^ 32 * (el hi l).toNat : Int) = f (e.opNum t a l) (e.srcNum t b l) % 2 ^ 64 := by
  simp only [vecEntries, ht, if_true, halves, List.getElem?_cons_zero, List.getElem?_cons_succ, Option.some.injEq] at hlo hhi
  subst hlo hhi
  have hr : l < (List.zipWith g64 (e.read64 0 a) (src64 e (intSigned t) b)).length := by simpa [read64_length] using hl
  rw [el_map _ _ hr, el_map _ _ hr, el64_zipWith _ _ _ l (by rwa [read64_length]) (by rwa [src64_length])]
  have hx := hg.toNat (el64 (e.read64 0 a) l) (el64 (src64 e (intSigned t) b) l)
  rw [← toNat_lo32_add_hi32, numOf_src64 e ht b hl] at hx
  simpa [Env.opNum, ht] using hx

/-! ### The issue -/

/-- The checks of both sources pass. -/
theorem pre_srcs {e : Env} {a : Operand} {b : Src} {wide : Bool} (ha : e.operandOk a wide)
    (hb : ∀ o, b = .op o → e.operandOk o wide) : e.pre [] (.vec a wide :: srcReads wide b) = none := by
  cases b with
  | op o => exact pre_vecs (vs := [(a, wide), (o, wide)]) (by simp [ha, hb o rfl])
  | imm v => exact pre_vecs (vs := [(a, wide)]) (by simp [ha])

theorem vecBin_next {s : State} {e : Env} {c : Ctrl} {k : KReg} {t : IntT} {a : Operand} {b : Src} {clocks : Nat}
    {g32 : W32 → W32 → W32} {g64 : W64 → W64 → W64} (h : Runs s e c { pushes := wOf (intWide t) } false)
    (ha : e.operandOk a (intWide t)) (hb : ∀ o, b = .op o → e.operandOk o (intWide t)) :
    vecBin c k t a b clocks g32 g64 s = .next (pushedState s e c (some clocks) (e.mask k)
      (e.taint (intWide t) a || srcTaint e (intWide t) b) (vecEntries e t a b g32 g64)) :=
  issue_pushes h (vecEntries_length ..).symm (by rw [pre_srcs ha hb, orTrap_none])

/-- Settles O18: the word is `vecBin` on an operation that computes its exact result, and the entries hold that result. -/
theorem vectorIntegerResults : Obligations.VectorIntegerResults := by
  intro i s e c k t a b clocks f hi hf _ h ha hb
  obtain ⟨g, hexec, hg⟩ := vint_computes hi hf
  refine ⟨vecEntries e t a b (g 32) (g 64), vecEntries_length .., fun l hl => ⟨fun ht v hv => ?_, fun ht lo hi hlo hhi => ?_⟩, ?_⟩
  · have hn : bitsOf t = 32 := by simp [bitsOf, ht]
    exact vecEntries_narrow ht (hn ▸ hg) hv hl
  · have hn : bitsOf t = 64 := by simp [bitsOf, ht]
    exact vecEntries_wide ht (hn ▸ hg) hlo hhi hl
  · rw [hexec, vecBin_next h ha hb]

end Sys2Proof.Machine
end
